-- ==== Sys2Proof/Word.lean ====
section
/-! DEFINITION. The word types of the Belcaz BZ7320: a byte of a record or of a module's address space, and a
value of the device's time base. What the manual counts (milliseconds of a duration, milliwatts, converter codes
after conversion, lane and slot numbers, profile numbers) is a `Nat`; what it treats as bits is a `BitVec`. -/

namespace Sys2Proof

/-- One byte of a record that crosses a management port or a module bus. -/
abbrev Byte := BitVec 8

/-- A value of the 32-bit millisecond time base (R1). -/
abbrev Stamp := BitVec 32

/-- A cage number, 0 to 31. -/
abbrev CageNo := Fin 32

/-- A power group number, 0 to 7. -/
abbrev GroupNo := Fin 8

/-- A module bus engine number, 0 to 3. -/
abbrev EngineNo := Fin 4

end Sys2Proof
end

