-- ==== Sys2Proof/Config.lean ====
section
/-! DEFINITION. What one implementation of the BZ7320 fixes and the manual leaves open: constants without a body,
so that no proof can see a value the manual does not state. -/

namespace Sys2Proof.Config

/-- The silicon revision number of READ_DEVICE, "a fixed parameter of the device that no request or reset
changes" (R181); its value is not stated. Log entry 4. -/
opaque siliconRevision : Byte

/-- FREE VALUE. The two-byte committed charge field of the READ_GROUP reply (R185) for a committed charge that two
bytes cannot carry: R117 lets the charge reach 72000 mW, and no rule states the field then. Log entry 5. -/
opaque committedField : Nat → BitVec 16

/-- FREE VALUE. The overdraw limit field of a READ_STATUS reply (R144) for a cage whose limit basis is present
while no round of it has been evaluated yet, so that "the margin of the latest evaluated round" does not exist;
applied to the cage and the time base. Log entry 6. -/
opaque unevaluatedLimit : CageNo → Stamp → BitVec 16

end Sys2Proof.Config
end

