-- ==== Sys2Proof/Syntax.lean ====
section
/-! DEFINITION. The commands of the BZ7320: one constructor for each row of spec/opcode_table.json, in the table's
order. An event of the part carries the cage, group or engine it happens at and what the outside supplies with it
(a line level, the bytes a module sent, converter codes, stream bits). A request carries the write transaction of
the master that sent it (R174, R185). -/

namespace Sys2Proof

/-- The two management ports: port A of the host, port B of the board controller. -/
inductive Port where
  | A
  | B
deriving DecidableEq, Repr

/-- The other port. -/
def Port.other : Port → Port
  | .A => .B
  | .B => .A

/-- One request record as a master wrote it (R185): the port, the target byte, the body length of the header and
the body bytes written after the header. The request code is the row's. Where the table gives a row to one value
of a request's selector (a decision, a scope, a section, a setting), that row stands for the selector byte too and
`body` holds the bytes written AFTER it. -/
structure Req where
  port : Port
  target : Byte
  len : BitVec 16
  body : List Byte
deriving DecidableEq, Repr

/-- The commands, one per row of spec/opcode_table.json. -/
inductive Instr where
  /-- R186: application of supply. -/
  | powerOn
  /-- R186: assertion of the reset pin. -/
  | resetPinAssert
  /-- R186: release of the reset pin. -/
  | resetPinRelease
  /-- R186: the RESTART request (code 0x16). -/
  | restart (q : Req)
  /-- R7, R8, R12: the raw present line of the cage takes a level (`true`: asserted, a module is seated). -/
  | presentLineChange (c : CageNo) (level : Bool)
  /-- R9: debounce expiry of the cage's candidate. -/
  | candidateAccepted (c : CageNo)
  /-- R12: end of the cage's settle interval. -/
  | settleIntervalEnd (c : CageNo)
  /-- R13: an edge of the cage's attention line (`true`: falling, to asserted low; `false`: rising). -/
  | attentionEdge (c : CageNo) (low : Bool)
  /-- R42: the PAU grants the LOW_POWER head of the group. -/
  | lowPowerGrant (g : GroupNo)
  /-- R79: the PAU grants the HIGH_POWER head of the group. -/
  | highPowerGrant (g : GroupNo)
  /-- R126: a group or device spacing bound is reached. -/
  | spacingBoundReached
  /-- R125: a last inrush record lapses; `none` names the device's record. -/
  | inrushRecordLapse (r : Option GroupNo)
  /-- R128: the group's feed-fault input goes active. -/
  | groupFeedFaultActive (g : GroupNo)
  /-- R129: the group's feed-fault input goes inactive. -/
  | groupFeedFaultInactive (g : GroupNo)
  /-- R44, R45: a slot length of the cage's bring-up has passed. -/
  | bringUpSlotStart (c : CageNo)
  /-- R45: expiry of the power-good limit in POWERING. -/
  | powerGoodLimitExpiry (c : CageNo)
  /-- R187: expiry of the adoption power-good limit. -/
  | adoptionPgLimitExpiry (c : CageNo)
  /-- R47, R49, R83, R189: expiry of the 10 ms poll timer. -/
  | seqPollTimerExpiry (c : CageNo)
  /-- R50, R46: expiry of the init timer. -/
  | initTimerExpiry (c : CageNo)
  /-- R189: expiry of the adoption identifier-read timeout. -/
  | adoptionInitTimeout (c : CageNo)
  /-- R56: expiry of the decision window. -/
  | decisionWindowExpiry (c : CageNo)
  /-- R83: expiry of the HP settle timer. -/
  | hpSettleTimeout (c : CageNo)
  /-- R86: expiry of the host-side window. -/
  | hostSideWindowExpiry (c : CageNo)
  /-- R93, R190: expiry of the link timer. -/
  | linkTimerExpiry (c : CageNo)
  /-- R95: the blanking window reaches its stop. -/
  | blankingWindowEnd (c : CageNo)
  /-- R101: a drain slot length has passed. -/
  | drainSlotStart (c : CageNo)
  /-- R102: slot 0 of the drain has lasted its length. -/
  | drainEnd (c : CageNo)
  /-- R110: expiry of the feed-clear timer. -/
  | feedClearTimerExpiry (c : CageNo)
  /-- R27: request 0x01. -/
  | readProfile (q : Req)
  /-- R28 to R30: request 0x02. -/
  | writeProfile (q : Req)
  /-- R31: request 0x03. -/
  | invalidateProfile (q : Req)
  /-- R57: request 0x04 with decision RESTORE; `body` holds the bytes after the decision byte. -/
  | decideRestore (q : Req)
  /-- R57: request 0x04 with decision ADOPT_NEW; `body` holds the bytes after the decision byte. -/
  | decideAdoptNew (q : Req)
  /-- R57: request 0x04 with decision PARK; `body` holds the bytes after the decision byte. -/
  | decidePark (q : Req)
  /-- R61: request 0x05. -/
  | release (q : Req)
  /-- R87: request 0x06. -/
  | hostSideDone (q : Req)
  /-- R109: request 0x07. -/
  | clearFault (q : Req)
  /-- R113: request 0x08 with scope RESEQUENCE; `body` holds the bytes after the scope byte. -/
  | resetCageResequence (q : Req)
  /-- R114: request 0x08 with scope REIDENTIFY; `body` holds the bytes after the scope byte. -/
  | resetCageReidentify (q : Req)
  /-- R115: request 0x08 with scope POWER_CYCLE; `body` holds the bytes after the scope byte. -/
  | resetCagePowerCycle (q : Req)
  /-- R62, R97, R144: request 0x09. -/
  | readStatus (q : Req)
  /-- R167: request 0x0A with section IDENTITY; `body` holds the bytes after the section byte. -/
  | readImageIdentity (q : Req)
  /-- R167: request 0x0A with section APPLIED; `body` holds the bytes after the section byte. -/
  | readImageApplied (q : Req)
  /-- R167: request 0x0A with section STATUS; `body` holds the bytes after the section byte. -/
  | readImageStatus (q : Req)
  /-- R18: request 0x0B. -/
  | readOutage (q : Req)
  /-- R130: request 0x0C. -/
  | readGroup (q : Req)
  /-- R156: request 0x0D. -/
  | moduleRead (q : Req)
  /-- R157: request 0x0E. -/
  | moduleWrite (q : Req)
  /-- R162: request 0x0F. -/
  | loadFieldMap (q : Req)
  /-- R162: request 0x10. -/
  | readFieldMap (q : Req)
  /-- R183: request 0x11. -/
  | fetchAttention (q : Req)
  /-- R184: request 0x12. -/
  | setMask (q : Req)
  /-- R118: request 0x13. -/
  | setBudget (q : Req)
  /-- R180: request 0x14 with selector 0; `body` holds the bytes after the selector byte. -/
  | setTimingDeviceSpacing (q : Req)
  /-- R180: request 0x14 with selector 1; `body` holds the bytes after the selector byte. -/
  | setTimingGroupSpacing (q : Req)
  /-- R180, R10: request 0x14 with selector 2; `body` holds the bytes after the selector byte. -/
  | setTimingDebounceTime (q : Req)
  /-- R180: request 0x14 with selector 3; `body` holds the bytes after the selector byte. -/
  | setTimingPollInterval (q : Req)
  /-- R180: request 0x14 with selector 4; `body` holds the bytes after the selector byte. -/
  | setTimingReseatWindow (q : Req)
  /-- R181: request 0x15. -/
  | readDevice (q : Req)
  /-- R176: a write transaction with a short header, or with a code that R177 does not list. -/
  | unknownRequest (p : Port) (raw : List Byte)
  /-- R175: a request is written while the port's reply slot is PENDING. -/
  | portOverrun (p : Port)
  /-- R150: a transaction of the engine's current item completes; `data` are the bytes a read burst brought. -/
  | busTransactionComplete (e : EngineNo) (data : List Byte)
  /-- R152: the module does not acknowledge its address. -/
  | addressNack (e : EngineNo)
  /-- R152: the 1 ms retry pause has passed. -/
  | nackRetryExpiry (e : EngineNo)
  /-- R152: the module refuses a data byte of a write. -/
  | dataNack (e : EngineNo)
  /-- R153: the engine finds the clock held low. -/
  | clockHeldLow (e : EngineNo)
  /-- R153: the module releases the clock. -/
  | clockReleased (e : EngineNo)
  /-- R153: the clock has been held low for more than 25 ms. -/
  | stuckLimitExpiry (e : EngineNo)
  /-- R151: the cage's hold-off has passed. -/
  | holdOffExpiry (c : CageNo)
  /-- R133: the current conversion of the cage at which the scan stands completes its pair. -/
  | pairComplete (vc ic : BitVec 10)
  /-- R138: the cage's pending basis falls due. -/
  | pendingBasisDue (c : CageNo)
  /-- R89, R90: a start marker arrives on the link stream after the given bits. -/
  | linkStreamFrame (bits : List Bool)
  /-- R90: 50 ms have passed without a valid frame. -/
  | streamStaleTimeout
  /-- R168: the cage's next poll time is reached. -/
  | nextPollTimeReached (c : CageNo)
  /-- R154: the item being carried for a removed cage reaches a byte boundary. -/
  | itemEndAtByteBoundary (e : EngineNo)
  /-- R89: a run of stream bits grows beyond 256 bits. -/
  | linkStreamRunDiscard
  /-- R57: request 0x04 whose whole body `q.body` does not begin with a decision. -/
  | decideBadDecision (q : Req)
  /-- R112: request 0x08 whose whole body `q.body` does not begin with a scope. -/
  | resetCageBadScope (q : Req)
  /-- R167: request 0x0A whose whole body `q.body` does not begin with a section. -/
  | readImageBadSection (q : Req)
  /-- R180: request 0x14 whose whole body `q.body` does not begin with a selector. -/
  | setTimingBadSelector (q : Req)
deriving DecidableEq, Repr

end Sys2Proof
end

