-- ==== Sys2Proof/WellFormed.lean ====
section
/-! DEFINITION. Which terms of `Instr` stand for something that can happen to the part: a request row names the
requests of its own selector value only, a burst is at most 8 bytes and a run of the link stream that reaches a
marker is at most 256 bits long. -/

namespace Sys2Proof

/-- R177: the request codes are 0x01 to 0x16. -/
def knownCode (b : Byte) : Bool := decide (1 ≤ b.toNat ∧ b.toNat ≤ 22)

/-- The selector byte of a request body lies outside 0 to `n - 1`, or there is none. -/
def selectorOutside (n : Nat) (body : List Byte) : Bool :=
  match body with
  | [] => true
  | b :: _ => decide (n ≤ b.toNat)

/-- R174, R176: the transaction carried bytes, and too few for a header or an unknown code. -/
def unknownTransaction (raw : List Byte) : Bool :=
  match raw with
  | [] => false
  | b :: rest => decide (rest.length < 3) || !knownCode b

/-- The well-formed commands. -/
def Instr.wf : Instr → Bool
  | .busTransactionComplete _ data => decide (data.length ≤ 8)
  | .linkStreamFrame bits => decide (bits.length ≤ 256)
  | .unknownRequest _ raw => unknownTransaction raw
  | .decideBadDecision q => selectorOutside 3 q.body
  | .resetCageBadScope q => selectorOutside 3 q.body
  | .readImageBadSection q => selectorOutside 3 q.body
  | .setTimingBadSelector q => selectorOutside 5 q.body
  | _ => true

end Sys2Proof
end

