-- ==== Sys2Proof/Decode.lean ====
section
/-! DEFINITION. The decoder of the opcode table's words (no row of this table gives a word), and the decoder of a
master's write transaction (R174, R176, R177, R185) with the encoder that writes one. -/

namespace Sys2Proof

/-- The command that a word spells by the table's bits. No row of spec/opcode_table.json gives bits, so no word
spells a command. -/
def decodeTableWord (_nbits _w : Nat) : Option Instr := none

/-- R185: the two bytes of a number, first byte most significant. -/
def bytesOf16 (w : BitVec 16) : List Byte := [(w >>> 8).setWidth 8, w.setWidth 8]

/-- R185: the number of two bytes, first byte most significant. -/
def word16 (hi lo : Byte) : BitVec 16 := hi ++ lo

/-- The row of a request whose selector byte picks it: the selector's row with the bytes after it, or `bad` with
the whole body. -/
def selectRow (q : Req) (rows : List (Req → Instr)) (bad : Req → Instr) : Instr :=
  match q.body with
  | [] => bad q
  | b :: rest =>
    match rows[b.toNat]? with
    | some row => row { q with body := rest }
    | none => bad q

/-- R177: the row of a request with a code and a whole record. -/
def requestRow (code : Nat) (q : Req) : Option Instr :=
  match code with
  | 0x01 => some (.readProfile q)
  | 0x02 => some (.writeProfile q)
  | 0x03 => some (.invalidateProfile q)
  | 0x04 => some (selectRow q [.decideRestore, .decideAdoptNew, .decidePark] .decideBadDecision)
  | 0x05 => some (.release q)
  | 0x06 => some (.hostSideDone q)
  | 0x07 => some (.clearFault q)
  | 0x08 => some (selectRow q [.resetCageResequence, .resetCageReidentify, .resetCagePowerCycle] .resetCageBadScope)
  | 0x09 => some (.readStatus q)
  | 0x0A => some (selectRow q [.readImageIdentity, .readImageApplied, .readImageStatus] .readImageBadSection)
  | 0x0B => some (.readOutage q)
  | 0x0C => some (.readGroup q)
  | 0x0D => some (.moduleRead q)
  | 0x0E => some (.moduleWrite q)
  | 0x0F => some (.loadFieldMap q)
  | 0x10 => some (.readFieldMap q)
  | 0x11 => some (.fetchAttention q)
  | 0x12 => some (.setMask q)
  | 0x13 => some (.setBudget q)
  | 0x14 => some (selectRow q [.setTimingDeviceSpacing, .setTimingGroupSpacing, .setTimingDebounceTime,
      .setTimingPollInterval, .setTimingReseatWindow] .setTimingBadSelector)
  | 0x15 => some (.readDevice q)
  | 0x16 => some (.restart q)
  | _ => none

/-- R174, R176: the command that one I2C write transaction to a port stands for; a transaction without data bytes
is an address probe and stands for none. -/
def decodeTransaction (p : Port) (raw : List Byte) : Option Instr :=
  match raw with
  | [] => none
  | code :: target :: hi :: lo :: body =>
    match requestRow code.toNat ⟨p, target, word16 hi lo, body⟩ with
    | some i => some i
    | none => some (.unknownRequest p raw)
  | _ => some (.unknownRequest p raw)

/-- R185: the framing of a request record. -/
def frame (code : Byte) (q : Req) (selector : List Byte) : Option (Port × List Byte) :=
  some (q.port, [code, q.target] ++ bytesOf16 q.len ++ selector ++ q.body)

/-- The port and the bytes of the write transaction that a request row stands for; `none` for an event of the
part. -/
def encodeTransaction : Instr → Option (Port × List Byte)
  | .readProfile q => frame 0x01 q []
  | .writeProfile q => frame 0x02 q []
  | .invalidateProfile q => frame 0x03 q []
  | .decideRestore q => frame 0x04 q [0]
  | .decideAdoptNew q => frame 0x04 q [1]
  | .decidePark q => frame 0x04 q [2]
  | .decideBadDecision q => frame 0x04 q []
  | .release q => frame 0x05 q []
  | .hostSideDone q => frame 0x06 q []
  | .clearFault q => frame 0x07 q []
  | .resetCageResequence q => frame 0x08 q [0]
  | .resetCageReidentify q => frame 0x08 q [1]
  | .resetCagePowerCycle q => frame 0x08 q [2]
  | .resetCageBadScope q => frame 0x08 q []
  | .readStatus q => frame 0x09 q []
  | .readImageIdentity q => frame 0x0A q [0]
  | .readImageApplied q => frame 0x0A q [1]
  | .readImageStatus q => frame 0x0A q [2]
  | .readImageBadSection q => frame 0x0A q []
  | .readOutage q => frame 0x0B q []
  | .readGroup q => frame 0x0C q []
  | .moduleRead q => frame 0x0D q []
  | .moduleWrite q => frame 0x0E q []
  | .loadFieldMap q => frame 0x0F q []
  | .readFieldMap q => frame 0x10 q []
  | .fetchAttention q => frame 0x11 q []
  | .setMask q => frame 0x12 q []
  | .setBudget q => frame 0x13 q []
  | .setTimingDeviceSpacing q => frame 0x14 q [0]
  | .setTimingGroupSpacing q => frame 0x14 q [1]
  | .setTimingDebounceTime q => frame 0x14 q [2]
  | .setTimingPollInterval q => frame 0x14 q [3]
  | .setTimingReseatWindow q => frame 0x14 q [4]
  | .setTimingBadSelector q => frame 0x14 q []
  | .readDevice q => frame 0x15 q []
  | .restart q => frame 0x16 q []
  | .unknownRequest p raw => some (p, raw)
  | .powerOn => none
  | .resetPinAssert => none
  | .resetPinRelease => none
  | .presentLineChange _ _ => none
  | .candidateAccepted _ => none
  | .settleIntervalEnd _ => none
  | .attentionEdge _ _ => none
  | .lowPowerGrant _ => none
  | .highPowerGrant _ => none
  | .spacingBoundReached => none
  | .inrushRecordLapse _ => none
  | .groupFeedFaultActive _ => none
  | .groupFeedFaultInactive _ => none
  | .bringUpSlotStart _ => none
  | .powerGoodLimitExpiry _ => none
  | .adoptionPgLimitExpiry _ => none
  | .seqPollTimerExpiry _ => none
  | .initTimerExpiry _ => none
  | .adoptionInitTimeout _ => none
  | .decisionWindowExpiry _ => none
  | .hpSettleTimeout _ => none
  | .hostSideWindowExpiry _ => none
  | .linkTimerExpiry _ => none
  | .blankingWindowEnd _ => none
  | .drainSlotStart _ => none
  | .drainEnd _ => none
  | .feedClearTimerExpiry _ => none
  | .portOverrun _ => none
  | .busTransactionComplete _ _ => none
  | .addressNack _ => none
  | .nackRetryExpiry _ => none
  | .dataNack _ => none
  | .clockHeldLow _ => none
  | .clockReleased _ => none
  | .stuckLimitExpiry _ => none
  | .holdOffExpiry _ => none
  | .pairComplete _ _ => none
  | .pendingBasisDue _ => none
  | .linkStreamFrame _ => none
  | .streamStaleTimeout => none
  | .nextPollTimeReached _ => none
  | .itemEndAtByteBoundary _ => none
  | .linkStreamRunDiscard => none

end Sys2Proof
end

