-- ==== Sys2Proof/Machine/State.lean ====
section
/-! DEFINITION. The state of the BZ7320: every piece of state the manual gives each block, as plain data, with the
values each piece has after power-on, and the queue of the commands that wait. A docstring names the rule that
gives the field; the fields no rule names are marked MODEL. -/

namespace Sys2Proof.Machine

/-! ### Cage Interface Unit -/

/-- R7 to R12: accepted presence. -/
inductive Presence where
  | absent
  | present
  | unsettled
deriving DecidableEq, Repr

/-- R7: a candidate, the new level of the present line with its capture time. -/
structure Candidate where
  level : Bool
  capture : Stamp
deriving DecidableEq, Repr

/-- R3: the three output lines of a cage: `rail` ON, `reset` ASSERTED, `lp` (low-power) ASSERTED. -/
structure Lines where
  rail : Bool
  reset : Bool
  lp : Bool
deriving DecidableEq, Repr

/-- The CIU's state of one cage. `presentPin` and `attentionPin` are the levels of the two input lines as they
stand (asserted); `settle` is the time from which a post-reset settle interval runs (R12), `latch` the attention
latch with its capture time (R13). -/
structure Ciu where
  presentPin : Bool
  attentionPin : Bool
  presence : Presence
  candidate : Option Candidate
  settle : Option Stamp
  latch : Option Stamp
  lines : Lines
deriving DecidableEq, Repr

/-! ### Enumerations of the records (R185 gives each list's order) -/

/-- R40: the sequencer states. -/
inductive SeqState where
  | empty
  | admitWait
  | powering
  | identify
  | decide
  | hpWait
  | configure
  | linkWait
  | inService
  | degraded
  | parked
  | faulted
  | draining
  | adopting
deriving DecidableEq, Repr

/-- R62, R97, R100, R108: the stages. -/
inductive Stage where
  | none
  | slot (n : Nat)
  | pgWait
  | busWait
  | find
  | ready
  | identity
  | window
  | noWindow
  | lowPowerStage
  | decideStage
  | identifyStage
  | hpStage
  | queued
  | hpEnable
  | hpSettle
  | laneMap
  | laneSettings
  | hostSide
  | datapathEnable
  | learning
  | module
  | power
  | feedActive
  | feedClearing
  | busRelease
  | hpDisable
deriving DecidableEq, Repr

/-- R185: the park, fault and degraded reasons. -/
inductive Reason where
  | budget
  | noFieldMap
  | gradeLimit
  | breakoutUnsupported
  | windowExpired
  | master
  | railFail
  | overdraw
  | groupFeed
  | notReady
  | idRead
  | hpTimeout
  | configWrite
  | busStuck
  | linkFail
  | partialLink
  | streamLost
  | linkDown
deriving DecidableEq, Repr

/-- R66: the match classes. -/
inductive MatchClass where
  | noProfile
  | sameUnit
  | sameType
  | newType
deriving DecidableEq, Repr

/-- R57: the proceeding decisions. -/
inductive Decision where
  | restore
  | adoptNew
deriving DecidableEq, Repr

/-- R15: who took the decision. -/
inductive Source where
  | policy
  | portA
  | portB
  | fallback
  | adopted
deriving DecidableEq, Repr

/-- R15: the result of a restore. -/
inductive Result where
  | inProgress
  | inService
  | degraded
  | parked
  | faulted
deriving DecidableEq, Repr

/-- R91: the link summaries. -/
inductive Summary where
  | allUp
  | someUp
  | noneUp
  | unknown
deriving DecidableEq, Repr

/-- R19: the restore policies. -/
inductive Policy where
  | auto
  | confirm
  | manual
deriving DecidableEq, Repr

/-- R19: what an expired decision window does. -/
inductive Fallback where
  | proceed
  | park
deriving DecidableEq, Repr

/-- R20: transmitter handling of a lane. -/
inductive TxControl where
  | follow
  | squelch
  | forceOn
deriving DecidableEq, Repr

/-- R100: the destination of a drain. -/
inductive Dest where
  | empty
  | admitWait
  | faulted
deriving DecidableEq, Repr

/-! ### Restore profiles (R19 to R21) -/

/-- R20: one entry of the lane list. -/
structure LaneEntry where
  trim : Int
  eq : Nat
  amp : Nat
  tx : TxControl
deriving DecidableEq, Repr

/-- R21: one entry of the tuned list. -/
structure LanePair where
  eq : Nat
  amp : Nat
deriving DecidableEq, Repr

/-- R21: the last unit; the three names are 16 characters each. -/
structure LastUnit where
  ident : Byte
  vendor : List Byte
  part : List Byte
  serial : List Byte
  grade : Nat
deriving DecidableEq, Repr

/-- R19, R43: the slots of the four bring-up steps and the slot length in ms. -/
structure SlotTable where
  rail : Nat
  bus : Nat
  reset : Nat
  ready : Nat
  len : Nat
deriving DecidableEq, Repr

/-- R19: one restore profile, its fields in the order of the table. -/
structure Profile where
  valid : Bool
  revision : BitVec 16
  policy : Policy
  window : Nat
  fallback : Fallback
  priority : Nat
  maxGrade : Nat
  learn : Bool
  breakout : Nat
  slots : SlotTable
  initTimeout : Nat
  hpMargin : Nat
  hostWindow : Nat
  linkTimeout : Nat
  retryLimit : Nat
  blankStart : Nat
  blankStop : Nat
  overdraw : Nat
  lanes : List LaneEntry
  lastUnit : Option LastUnit
  tuned : Option (List LanePair)
deriving DecidableEq, Repr

/-! ### Outage records (R15) -/

/-- R15: one outage record. A field that is absent is `none`; `clamped` holds lane k in bit k. -/
structure Outage where
  removal : Option Stamp
  insertion : Option Stamp
  duration : Option Nat
  cls : Option MatchClass
  source : Option Source
  result : Option Result
  restoreDur : Option Nat
  retries : Option Nat
  clamped : Byte
  reason : Option Reason
  hostSideTimeout : Bool
  tunedExpired : Bool
deriving DecidableEq, Repr

/-! ### Timers (R2, R40) -/

/-- A running timer: its start time stamp and its length in ms. A stopped timer is `none`. -/
structure Timer where
  start : Stamp
  len : Nat
deriving DecidableEq, Repr

/-- R40: the timers of a sequencer context. -/
structure Timers where
  slot : Option Timer := none
  pgLimit : Option Timer := none
  poll : Option Timer := none
  init : Option Timer := none
  window : Option Timer := none
  settle : Option Timer := none
  hostSide : Option Timer := none
  link : Option Timer := none
  feedClear : Option Timer := none
deriving DecidableEq, Repr

/-- R95: a blanking window, its bounds in ms counted from the datapath time. -/
structure Blank where
  datapath : Stamp
  start : Nat
  stop : Nat
deriving DecidableEq, Repr

/-! ### Sequencer contexts (R40) -/

/-- R51: the identity fields that stage IDENTITY reads, in its order. -/
inductive IdField where
  | vendor
  | part
  | serial
  | grade
  | hpDuration
  | breakouts
  | eqRec
  | maxAmp
deriving DecidableEq, Repr

/-- MODEL: what the SEQ item that the sequencer has posted last is for, so that its outcome can be taken. The
manual gives these accesses in order (R47 to R51, R81 to R88, R37, R113, R189, R191). -/
inductive Access where
  | none
  | ident
  | readyFlag
  | identity (f : IdField)
  | adoptHp
  | adoptTx
  | adoptBreakout
  | txFirst
  | hpRead
  | hpWrite (value : Byte)
  | hpDone
  | breakout
  | txAll
  | laneEq (k : Nat)
  | laneAmp (k : Nat)
  | squelch
  | txDisable
  | learnEq (k : Nat)
  | learnAmp (k : Nat) (eq : Nat)
  | hpOffRead
  | hpOffWrite (value : Byte)
deriving DecidableEq, Repr

/-- R40: one sequencer context, with the parts the later chapters add to it.
`reason` also holds the pending fault reason of a drain (R100). `slot` is the slot a bring-up or drain has
reached, `topSlot` the slot of the last bring-up step performed (R100), `busRelease` that a drain waits for a
carried item to end (R101), `pgHeld` the POWER_GOOD report held or taken (R45, R187), `learning` and `learned` a
learning under way with the pairs read back so far (R37), `retryLimit` the retry limit read at DATAPATH_ENABLE and
`none` for a LINK_WAIT entered by adoption (R190, R191), `sinceAdoption` that R65 takes the window test as met,
`hpOn` and `txOn` what R189 found, `parkAs` the reason of the park that waits for HP_DISABLE (R191). -/
structure Ctx where
  state : SeqState
  stage : Stage
  reason : Option Reason
  insertion : Option Stamp
  table : Option SlotTable
  cls : Option MatchClass
  decision : Option Decision
  source : Option Source
  retry : Nat
  timers : Timers
  reinsertion : Bool
  learnPending : Bool
  adopted : Bool
  inUse : Bool
  restoreNotice : Bool
  lastKnown : Option Summary
  dest : Option Dest
  slot : Nat
  topSlot : Nat
  busRelease : Bool
  pgHeld : Bool
  access : Access
  learning : Bool
  learned : List LanePair
  blank : Option Blank
  retryLimit : Option Nat
  sinceAdoption : Bool
  hpOn : Bool
  txOn : Bool
  parkAs : Option Reason
deriving DecidableEq, Repr

/-! ### Rail Monitor -/

/-- R136: the power-good states. -/
inductive PowerGood where
  | off
  | notYet
  | good
  | lost
deriving DecidableEq, Repr

/-- R138: a lower limit basis waiting out the fall hold, with the time of the fall. -/
structure PendingBasis where
  value : Nat
  since : Stamp
deriving DecidableEq, Repr

/-- The RLM's state of one cage. `reset18` says that the target of the limit basis is the 18000 of a reset release
(R138); `margin` is the margin of the latest evaluated round (R144); `onPair` says, for the
cage at which the scan stands, that its rail enable was ON at the start of its voltage conversion and has not been OFF
since (R133). -/
structure Rlm where
  vc : Option (BitVec 10)
  ic : Option (BitVec 10)
  power : Option Nat
  window : List Nat
  pg : PowerGood
  basis : Option Nat
  pending : Option PendingBasis
  run : Nat
  reported : Bool
  reset18 : Bool
  margin : Option Nat
  onPair : Bool
deriving DecidableEq, Repr

/-! ### Module bus engines and field maps -/

/-- R147: the segment states. -/
inductive Segment where
  | disconnected
  | connected
  | stuck
deriving DecidableEq, Repr

/-- The engine's records of one cage: segment state, page shadow (`none`: UNKNOWN), hold-off expiry (R151), and
whether the recovery pattern of R153 was started on the segment. -/
structure Bus where
  seg : Segment
  shadow : Option Byte
  hold : Option Timer
  recovery : Bool
deriving DecidableEq, Repr

/-- R159: a location, a page and an offset. -/
structure Loc where
  page : Byte
  offset : Byte
deriving DecidableEq, Repr

/-- R159: a located bit. -/
structure BitLoc where
  loc : Loc
  bit : Nat
deriving DecidableEq, Repr

/-- R159: one field map. -/
structure FieldMap where
  ident : Byte
  pageSel : Byte
  laneCount : Nat
  burst : Nat
  holdOff : Nat
  vendor : Loc
  part : Loc
  serial : Loc
  grade : Loc
  ready : BitLoc
  hpDuration : Loc
  breakouts : Loc
  hpEnable : BitLoc
  hpDone : BitLoc
  eqRec : Option Loc
  maxAmp : Option Loc
  eqControl : Loc
  ampControl : Loc
  txDisable : Loc
  squelch : Option Loc
  breakoutSel : Loc
  status : Loc
  statusLen : Nat
  lossPos : Nat
  alertPos : Nat
  alertBit : Nat
  tempPos : Nat
deriving DecidableEq, Repr

/-- R145: who posted an item. -/
inductive Requester where
  | seq
  | poll
  | port (p : Port)
deriving DecidableEq, Repr

/-- R145: an item of bus work. `joined` is the millisecond it was posted in, by the count that does not wrap (MODEL): R155
orders the items of one kind by it. -/
structure Item where
  cage : CageNo
  page : Byte
  offset : Byte
  len : Nat
  write : Bool
  data : List Byte
  who : Requester
  posted : Stamp
  restore : Bool
  joined : Nat
deriving DecidableEq, Repr

/-- R149, R150: which transaction of its item the engine is at. -/
inductive Phase where
  | pageSelect
  | burst
  | restorePage
deriving DecidableEq, Repr

/-- The current item of an engine and how far it has been carried: the page shadow before the item, the field map the
item uses, as the cage's entry stood when the engine started the item (R161, log entry 52), the transaction at hand,
the bytes gathered and carried, the address attempts made for the burst, a retry pause with its start (R152), a hold-off
between two bursts (R151), the clock found held low (R153), that a confirmed removal ends it at the next byte boundary
(R154), and that its requester has cancelled it (R146, R154). -/
structure Carry where
  item : Item
  prior : Option Byte
  map : FieldMap
  phase : Phase
  got : List Byte
  done : Nat
  attempts : Nat
  pause : Option Stamp
  holdWait : Option Timer
  clockLow : Option Stamp
  ending : Bool
  cancelled : Bool
deriving DecidableEq, Repr

/-- R145: the state of one engine; the waiting items stand in the order of their posting. -/
structure Engine where
  current : Option Carry
  selected : Option CageNo
  waiting : List Item
  lastServed : Option Port
deriving DecidableEq, Repr

/-! ### Module images (R163 to R165) -/

/-- R163: the image states. -/
inductive ImageState where
  | empty
  | identifying
  | valid
  | stale
deriving DecidableEq, Repr

/-- R164: the identity section. The declared power comes with its note GRADE_UNKNOWN; `breakouts` holds the
supported set of 1, 2, 4 and 8 ports in its four lowest bits. -/
structure Identity where
  ident : Option Byte
  mapIndex : Option (Fin 8)
  laneCount : Option Nat
  vendor : Option (List Byte)
  part : Option (List Byte)
  serial : Option (List Byte)
  grade : Option Nat
  declared : Option (Nat × Bool)
  hpDuration : Option Nat
  breakouts : Option Byte
  eqRec : Option (List Nat)
  maxAmp : Option Nat
deriving DecidableEq, Repr

/-- R77: what was last written to one lane, with its three clamped flags (R74). -/
structure LaneApplied where
  pair : Option LanePair
  tx : Option TxControl
  eqClamped : Bool
  ampClamped : Bool
  txClamped : Bool
deriving DecidableEq, Repr

/-- R165: the status section. -/
structure Status where
  temperature : Option (BitVec 16)
  laneLoss : Option Byte
  alert : Option Bool
  lastPoll : Option Stamp
  failures : Nat
deriving DecidableEq, Repr

/-- R163: one module image; `lanes` holds the applied settings of lanes 0 to 7. -/
structure Image where
  state : ImageState
  identity : Identity
  breakout : Option Nat
  lanes : List LaneApplied
  status : Status
deriving DecidableEq, Repr

/-! ### One cage -/

/-- Everything the blocks hold for one cage: the CIU, the outage record, the profile, the sequencer context, the
charge (R116), the RLM, the engine's records, the image, and the poller's next poll time (R168, its last advance
and the interval in force at it). -/
structure Cage where
  ciu : Ciu
  outage : Outage
  profile : Profile
  seq : Ctx
  charge : Nat
  rlm : Rlm
  bus : Bus
  image : Image
  nextPoll : Option Timer
deriving DecidableEq, Repr

/-! ### Power Admission Unit -/

/-- R120: the two kinds of admission. -/
inductive QueueKind where
  | lowPower
  | highPower
deriving DecidableEq, Repr

/-- R120: an entry of an admission queue. `joined` is the millisecond it joined in, by the count that does not wrap
(MODEL): R120 orders by it, not by the enqueue time. -/
structure Entry where
  cage : CageNo
  kind : QueueKind
  requested : Nat
  priority : Nat
  time : Stamp
  joined : Nat
deriving DecidableEq, Repr

/-- R125: a last inrush record. -/
inductive Inrush where
  | none
  | active (t : Stamp)
  | lapsed (t : Stamp)
deriving DecidableEq, Repr

/-- The PAU's state of one group; `feedPin` is the level of the feed-fault input (active), `feedActive` the level
as last taken from it (R128). -/
structure Group where
  budget : Nat
  committed : Nat
  queue : List Entry
  last : Inrush
  feedPin : Bool
  feedActive : Bool
deriving DecidableEq, Repr

/-! ### Link Status Receiver -/

/-- R89, R90. `accepted` is `none` when every slot is UNKNOWN and otherwise holds UP as a set bit, DOWN as a clear
one, slot s of cage c in bit 8c + s. `reception` holds the bits received since the last start marker, `none`
before the first start marker and after a discarded run. -/
structure Lsr where
  live : Bool
  accepted : Option (BitVec 256)
  previous : Option (BitVec 256)
  lastValid : Option Stamp
  reception : Option (List Bool)
deriving DecidableEq, Repr

/-! ### Management ports -/

/-- R179: the reply statuses. -/
inductive ReplyStatus where
  | ok
  | pending
  | idle
  | clamped
  | stale
  | collision
  | notWaiting
  | noProfile
  | notPermitted
  | badRequest
  | badLength
  | badCage
  | invalid
  | state
  | absent
  | noResponse
  | busStuck
  | duplicate
deriving DecidableEq, Repr

/-- R174: a reply slot. -/
inductive ReplySlot where
  | idle
  | pending (code target : Byte)
  | answered (status : ReplyStatus) (code target : Byte) (data : List Byte)
deriving DecidableEq, Repr

/-- R186: the reset causes. -/
inductive ResetCause where
  | powerOn
  | resetPin
  | restart
deriving DecidableEq, Repr

/-- R182: an attention entry, for a cage or (`none`) for DEVICE: its pending kinds in the bits of R185, and the
reset cause it holds while RESTARTED is pending. -/
structure AttEntry where
  who : Option CageNo
  kinds : BitVec 16
  cause : Option ResetCause
deriving DecidableEq, Repr

/-- R174, R182, R184: one port: the request being served (as written), the reply slot, the attention list (oldest
first) and the two masks. -/
structure PortState where
  request : Option (List Byte)
  reply : ReplySlot
  list : List AttEntry
  cageMask : BitVec 16
  deviceMask : Byte
deriving DecidableEq, Repr

/-- R180: the device settings; the reseat window is in seconds, the others in ms. -/
structure Settings where
  deviceSpacing : Nat
  groupSpacing : Nat
  debounce : Nat
  pollInterval : Nat
  reseatWindow : Nat
deriving DecidableEq, Repr

/-! ### The machine -/

/-- The state of the part. `elapsed` counts the milliseconds since power-on without a wrap (MODEL, log entry 47): R120
and R155 keep their orders across a wrap of the time base `now`. `inReset` is the level of the reset pin (asserted), `releaseTime` the time of the last
reset release (R188 B), `deviceLast` the device last inrush (R125), `scanCage` the cage at which the scan of
R132 stands, `fieldMaps` the eight entries of
the field map table, `pending` the commands that wait, first in, first out (MODEL). -/
structure State where
  now : Stamp
  elapsed : Nat
  inReset : Bool
  cause : ResetCause
  releaseTime : Stamp
  settings : Settings
  deviceLast : Inrush
  scanCage : CageNo
  cages : Vector Cage 32
  groups : Vector Group 8
  engines : Vector Engine 4
  fieldMaps : Vector (Option FieldMap) 8
  lsr : Lsr
  portA : PortState
  portB : PortState
  pending : List Instr
deriving DecidableEq, Repr

/-- The faults of a command. There are none: every event and request of the manual has an effect or leaves the
part as it is, and a refused request is answered (R179), which is a next state. -/
inductive Fault where
deriving DecidableEq, Repr

/-- The refusals of a command. -/
inductive Refusal where
  /-- Raised by `exec` for a row that has no meaning yet (safe: nothing can be proved about it). No row does. -/
  | notModelled (mnemonic : String)
deriving DecidableEq, Repr

/-! ### Power-on values -/

/-- R19: the built-in slots and slot length. -/
def builtinSlots : SlotTable := ⟨0, 1, 3, 4, 4⟩

/-- R19, R20, R22: the built-in profile, invalid at revision 0 (R39). -/
def builtinProfile : Profile where
  valid := false
  revision := 0
  policy := .confirm
  window := 30
  fallback := .park
  priority := 0
  maxGrade := 7
  learn := false
  breakout := 1
  slots := builtinSlots
  initTimeout := 2000
  hpMargin := 500
  hostWindow := 50
  linkTimeout := 50
  retryLimit := 2
  blankStart := 0
  blankStop := 2000
  overdraw := 10
  lanes := List.replicate 8 ⟨0, 8, 1, .follow⟩
  lastUnit := none
  tuned := none

/-- R15, R18: the EMPTY outage record. -/
def emptyOutage : Outage :=
  ⟨none, none, none, none, none, none, none, none, 0, none, false, false⟩

/-- R40: a cleared sequencer context in a state. -/
def clearCtx (st : SeqState) : Ctx where
  state := st
  stage := .none
  reason := none
  insertion := none
  table := none
  cls := none
  decision := none
  source := none
  retry := 0
  timers := {}
  reinsertion := false
  learnPending := false
  adopted := false
  inUse := false
  restoreNotice := false
  lastKnown := none
  dest := none
  slot := 0
  topSlot := 0
  busRelease := false
  pgHeld := false
  access := .none
  learning := false
  learned := []
  blank := none
  retryLimit := none
  sinceAdoption := false
  hpOn := false
  txOn := false
  parkAs := none

/-- R164: the identity section with every field absent. -/
def emptyIdentity : Identity :=
  ⟨none, none, none, none, none, none, none, none, none, none, none, none⟩

/-- R166: the EMPTY image. -/
def emptyImage : Image where
  state := .empty
  identity := emptyIdentity
  breakout := none
  lanes := List.replicate 8 ⟨none, none, false, false, false⟩
  status := ⟨none, none, none, none, 0⟩

/-- R143: the RLM's power-on values. -/
def offRlm : Rlm := ⟨none, none, none, [], .off, none, none, 0, false, false, none, false⟩

/-- R158: the engine's power-on records of a cage. -/
def offBus : Bus := ⟨.disconnected, none, none, false⟩

/-- R5, R11, R14: the power-on state of a cage's CIU with a present line and an attention line at given levels. An
asserted present line is taken as a raw change with capture time 0. -/
def powerOnCiu (presentPin attentionPin : Bool) : Ciu where
  presentPin := presentPin
  attentionPin := attentionPin
  presence := .absent
  candidate := if presentPin then some ⟨true, 0⟩ else none
  settle := none
  latch := none
  lines := ⟨false, true, true⟩

/-- The power-on state of a cage. -/
def powerOnCage (presentPin attentionPin : Bool) : Cage where
  ciu := powerOnCiu presentPin attentionPin
  outage := emptyOutage
  profile := builtinProfile
  seq := clearCtx .empty
  charge := 0
  rlm := offRlm
  bus := offBus
  image := emptyImage
  nextPoll := none

/-- R118, R131: the power-on state of a group whose feed-fault input stands at a level. -/
def powerOnGroup (feedPin : Bool) : Group := ⟨20000, 0, [], .none, feedPin, feedPin⟩

/-- R158: an engine that carries nothing. -/
def idleEngine : Engine := ⟨none, none, [], none⟩

/-- R160: the built-in map of identifier 0x61. The table gives a lower-window location as its offset; its page byte is 0
(log entry 50). -/
def builtinMap61 : FieldMap where
  ident := 0x61
  pageSel := 127
  laneCount := 8
  burst := 8
  holdOff := 2
  vendor := ⟨0, 148⟩
  part := ⟨0, 168⟩
  serial := ⟨0, 196⟩
  grade := ⟨0, 129⟩
  ready := ⟨⟨0, 2⟩, 0⟩
  hpDuration := ⟨0, 130⟩
  breakouts := ⟨0, 131⟩
  hpEnable := ⟨⟨0, 93⟩, 1⟩
  hpDone := ⟨⟨0, 3⟩, 1⟩
  eqRec := some ⟨1, 130⟩
  maxAmp := some ⟨1, 138⟩
  eqControl := ⟨16, 144⟩
  ampControl := ⟨16, 152⟩
  txDisable := ⟨0, 86⟩
  squelch := some ⟨0, 87⟩
  breakoutSel := ⟨0, 88⟩
  status := ⟨0, 9⟩
  statusLen := 8
  lossPos := 0
  alertPos := 1
  alertBit := 7
  tempPos := 5

/-- R160: the built-in map of identifier 0x62. The page byte of a lower-window location is 0 (log entry 50). -/
def builtinMap62 : FieldMap where
  ident := 0x62
  pageSel := 127
  laneCount := 4
  burst := 4
  holdOff := 5
  vendor := ⟨0, 148⟩
  part := ⟨0, 168⟩
  serial := ⟨0, 196⟩
  grade := ⟨0, 129⟩
  ready := ⟨⟨0, 2⟩, 0⟩
  hpDuration := ⟨0, 130⟩
  breakouts := ⟨0, 131⟩
  hpEnable := ⟨⟨0, 93⟩, 1⟩
  hpDone := ⟨⟨0, 3⟩, 2⟩
  eqRec := some ⟨3, 224⟩
  maxAmp := none
  eqControl := ⟨3, 160⟩
  ampControl := ⟨3, 164⟩
  txDisable := ⟨0, 86⟩
  squelch := none
  breakoutSel := ⟨3, 128⟩
  status := ⟨0, 9⟩
  statusLen := 8
  lossPos := 0
  alertPos := 1
  alertBit := 7
  tempPos := 5

/-- R89: the LSR after a reset. -/
def resetLsr : Lsr := ⟨false, none, none, none, none⟩

/-- R174, R182, R184: a port after a reset: slots empty, list empty, nothing masked. -/
def resetPort : PortState := ⟨none, .idle, [], 0, 0⟩

/-- R180: the power-on settings. -/
def powerOnSettings : Settings := ⟨4, 20, 20, 100, 300⟩

/-- R182, R185, R186: the attention entry RESTARTED (bit 4 of the DEVICE kinds) with a cause. -/
def restartedEntry (cause : ResetCause) : AttEntry := ⟨none, 0x0010, some cause⟩

/-- The machine right after power-on with every input line released: every block at its power-on values and
RESTARTED posted to both ports (R186). The levels of the input lines are the outside's (log entry 1). -/
def State.reset : State where
  now := 0
  elapsed := 0
  inReset := false
  cause := .powerOn
  releaseTime := 0
  settings := powerOnSettings
  deviceLast := .none
  scanCage := 0
  cages := Vector.replicate 32 (powerOnCage false false)
  groups := Vector.replicate 8 (powerOnGroup false)
  engines := Vector.replicate 4 idleEngine
  fieldMaps := #v[some builtinMap61, some builtinMap62, none, none, none, none, none, none]
  lsr := resetLsr
  portA := { resetPort with list := [restartedEntry .powerOn] }
  portB := { resetPort with list := [restartedEntry .powerOn] }
  pending := []

end Sys2Proof.Machine
end

