-- ==== Sys2Proof/Machine/Ops.lean ====
section
/-! DEFINITION. The named operations over the state: time (R1, R2), access to the parts of a cage, group, engine
and port, the attention lists (R182), the outage record (R15 to R17), the profile in force (R22), and the answer
to a request (R174). -/

namespace Sys2Proof.Machine

/-- What a command answers. -/
abbrev Out := Host.Outcome State Fault Refusal

/-! ### Time -/

/-- R2: the duration from a time stamp to the present, modulo 2^32. -/
def since (now t : Stamp) : Nat := (now - t).toNat

/-- R2: the limit of a running timer has been reached. -/
def Timer.due (t : Timer) (now : Stamp) : Bool := decide (t.len ≤ since now t.start)

/-- R2: a deadline, the start plus the length modulo 2^32. -/
def Timer.deadline (t : Timer) : Stamp := t.start + BitVec.ofNat 32 t.len

/-- R40: a running timer has expired; a stopped timer never has. -/
def dueTimer (t : Option Timer) (now : Stamp) : Bool :=
  match t with
  | none => false
  | some t => t.due now

/-- R95: the window is in force from datapath time + start up to, but not including, datapath time + stop. -/
def Blank.inForce (b : Blank) (now : Stamp) : Bool :=
  decide (b.start ≤ since now b.datapath) && decide (since now b.datapath < b.stop)

/-! ### Parts of the state -/

/-- Every member of a vector changed alike; over its list, so that Lean's kernel can evaluate it. -/
def onEach {α β : Type} {n : Nat} (f : α → β) (v : Vector α n) : Vector β n :=
  ⟨⟨v.toArray.toList.map f⟩, by simp⟩

/-- The cage's part of the state. -/
def State.cage (s : State) (c : CageNo) : Cage := s.cages[c]

/-- A change of one cage. -/
def State.modCage (s : State) (c : CageNo) (f : Cage → Cage) : State :=
  { s with cages := s.cages.set c (f s.cages[c]) }

/-- A change of one sequencer context. -/
def State.modSeq (s : State) (c : CageNo) (f : Ctx → Ctx) : State :=
  s.modCage c fun k => { k with seq := f k.seq }

/-- A change of one cage's CIU part. -/
def State.modCiu (s : State) (c : CageNo) (f : Ciu → Ciu) : State :=
  s.modCage c fun k => { k with ciu := f k.ciu }

/-- A change of one cage's output lines. -/
def State.modLines (s : State) (c : CageNo) (f : Lines → Lines) : State :=
  s.modCiu c fun k => { k with lines := f k.lines }

/-- A change of one outage record. -/
def State.modOutage (s : State) (c : CageNo) (f : Outage → Outage) : State :=
  s.modCage c fun k => { k with outage := f k.outage }

/-- A change of one profile. -/
def State.modProfile (s : State) (c : CageNo) (f : Profile → Profile) : State :=
  s.modCage c fun k => { k with profile := f k.profile }

/-- A change of one image. -/
def State.modImage (s : State) (c : CageNo) (f : Image → Image) : State :=
  s.modCage c fun k => { k with image := f k.image }

/-- A change of one cage's RLM part. -/
def State.modRlm (s : State) (c : CageNo) (f : Rlm → Rlm) : State :=
  s.modCage c fun k => { k with rlm := f k.rlm }

/-- A change of an engine's records of one cage. -/
def State.modBus (s : State) (c : CageNo) (f : Bus → Bus) : State :=
  s.modCage c fun k => { k with bus := f k.bus }

/-- A change of the timers of one context. -/
def State.modTimers (s : State) (c : CageNo) (f : Timers → Timers) : State :=
  s.modSeq c fun q => { q with timers := f q.timers }

/-- The group's part of the state. -/
def State.group (s : State) (g : GroupNo) : Group := s.groups[g]

/-- A change of one group. -/
def State.modGroup (s : State) (g : GroupNo) (f : Group → Group) : State :=
  { s with groups := s.groups.set g (f s.groups[g]) }

/-- The engine's part of the state. -/
def State.engine (s : State) (e : EngineNo) : Engine := s.engines[e]

/-- A change of one engine. -/
def State.modEngine (s : State) (e : EngineNo) (f : Engine → Engine) : State :=
  { s with engines := s.engines.set e (f s.engines[e]) }

/-- The port's part of the state. -/
def State.port (s : State) (p : Port) : PortState :=
  match p with
  | .A => s.portA
  | .B => s.portB

/-- A change of one port. -/
def State.modPort (s : State) (p : Port) (f : PortState → PortState) : State :=
  match p with
  | .A => { s with portA := f s.portA }
  | .B => { s with portB := f s.portB }

/-- Cage c belongs to power group c div 4. -/
def groupOf (c : CageNo) : GroupNo := ⟨c.val / 4, by omega⟩

/-- Cage c is served by bus engine c div 8. -/
def engineOf (c : CageNo) : EngineNo := ⟨c.val / 8, by omega⟩

/-- The four cages of a group, lowest first. -/
def cagesOf (g : GroupNo) : List CageNo :=
  [⟨4 * g.val, by omega⟩, ⟨4 * g.val + 1, by omega⟩, ⟨4 * g.val + 2, by omega⟩, ⟨4 * g.val + 3, by omega⟩]

/-- The cages, lowest first. -/
def allCages : List CageNo := List.finRange 32

/-- The groups, lowest first. -/
def allGroups : List GroupNo := List.finRange 8

/-- The engines, lowest first. -/
def allEngines : List EngineNo := List.finRange 4

/-- One step made for each cage of a list in turn. -/
def State.each (s : State) (cs : List CageNo) (f : CageNo → State → State) : State :=
  cs.foldl (fun s c => f c s) s

/-- R186: while the reset pin is asserted the part takes no request and no event. -/
def event (s : State) (f : State → State) : Out := .next (if s.inReset then s else f s)

/-! ### Attention lists (R182) -/

/-- R185: the cage kinds, in the order of their bits. -/
inductive CageKind where
  | inserted
  | removed
  | decisionNeeded
  | hostSideNeeded
  | restored
  | degraded
  | parked
  | fault
  | linkChange
  | laneLoss
  | moduleAlert
  | profileChanged
deriving DecidableEq, Repr

/-- R185: the DEVICE kinds, in the order of their bits. -/
inductive DeviceKind where
  | streamLost
  | streamBack
  | portOverrun
  | overcommit
  | restarted
deriving DecidableEq, Repr

/-- R185: the bit of a cage kind in a kind set and in the cage-kind mask. -/
def CageKind.bit : CageKind → BitVec 16
  | .inserted => 0x0001
  | .removed => 0x0002
  | .decisionNeeded => 0x0004
  | .hostSideNeeded => 0x0008
  | .restored => 0x0010
  | .degraded => 0x0020
  | .parked => 0x0040
  | .fault => 0x0080
  | .linkChange => 0x0100
  | .laneLoss => 0x0200
  | .moduleAlert => 0x0400
  | .profileChanged => 0x0800

/-- R185: the bit of a DEVICE kind in a kind set and in the device-kind mask. -/
def DeviceKind.bit : DeviceKind → BitVec 16
  | .streamLost => 0x0001
  | .streamBack => 0x0002
  | .portOverrun => 0x0004
  | .overcommit => 0x0008
  | .restarted => 0x0010

/-- R182: a kind is added to the entry of a cage or of DEVICE, which keeps its place; without an entry a new one is
appended at the tail. RESTARTED brings the reset cause. -/
def addKind (list : List AttEntry) (who : Option CageNo) (kind : BitVec 16) (cause : Option ResetCause) :
    List AttEntry :=
  match list with
  | [] => [⟨who, kind, cause⟩]
  | e :: rest =>
    if e.who = who then { e with kinds := e.kinds ||| kind, cause := cause.or e.cause } :: rest
    else e :: addKind rest who kind cause

/-- R182: a posting of a cage kind to one port. -/
def State.postTo (s : State) (p : Port) (c : CageNo) (k : CageKind) : State :=
  s.modPort p fun q => { q with list := addKind q.list (some c) k.bit none }

/-- R182: a posting of a cage kind to both ports. -/
def State.post (s : State) (c : CageNo) (k : CageKind) : State := (s.postTo .A c k).postTo .B c k

/-- R182: a posting of a DEVICE kind to one port. -/
def State.postDeviceTo (s : State) (p : Port) (k : DeviceKind) : State :=
  s.modPort p fun q =>
    { q with list := addKind q.list none k.bit (if k = .restarted then some s.cause else none) }

/-- R182: a posting of a DEVICE kind to both ports. -/
def State.postDevice (s : State) (k : DeviceKind) : State := (s.postDeviceTo .A k).postDeviceTo .B k

/-! ### Outage records (R15 to R17) -/

/-- R15: the record is OPEN. -/
def Outage.isOpen (o : Outage) : Bool := decide (o.result = some .inProgress)

/-- R15: the record is OPEN or CLOSED; without a result it is EMPTY or WAITING. -/
def Outage.hasResult (o : Outage) : Bool := o.result.isSome

/-- R17: a write of a restore field, made while the record is OPEN. -/
def State.writeOpen (s : State) (c : CageNo) (f : Outage → Outage) : State :=
  s.modOutage c fun o => if o.isOpen then f o else o

/-- R17: the record closes with a result and a reason; the restore duration runs from its insertion time, retries
used is the retry count. -/
def State.closeRecord (s : State) (c : CageNo) (result : Result) (reason : Option Reason) : State :=
  s.writeOpen c fun o =>
    { o with
      result := some result
      restoreDur := o.insertion.map (since s.now)
      retries := some (s.cage c).seq.retry
      reason := reason }

/-- R16: a confirmed removal clears the record and writes its removal time. -/
def State.recordRemoval (s : State) (c : CageNo) (t : Stamp) : State :=
  s.modOutage c fun _ => { emptyOutage with removal := some t }

/-- R16: a confirmed insertion; a record found OPEN or CLOSED is cleared first. -/
def State.recordInsertion (s : State) (c : CageNo) (t : Stamp) : State :=
  s.modOutage c fun o =>
    let o := if o.hasResult then emptyOutage else o
    { o with
      insertion := some t
      duration := o.removal.map (since t)
      result := some .inProgress }

/-! ### Profiles and images -/

/-- R22: the profile the part uses: the cage's own, or the built-in one if that is invalid. -/
def Profile.inForce (p : Profile) : Profile := if p.valid then p else builtinProfile

/-- The profile in force of a cage. -/
def State.profile (s : State) (c : CageNo) : Profile := (s.cage c).profile.inForce

/-- R20, R21, R29, R37: a lane pair with its numbers held to their ranges, eq 0 to 15 and amplitude 0 to 3. -/
def LanePair.clamp (e : LanePair) : LanePair := ⟨min 15 e.eq, min 3 e.amp⟩

/-- R20: the lane list entry of a lane. -/
def Profile.lane (p : Profile) (k : Nat) : LaneEntry := p.lanes.getD k ⟨0, 8, 1, .follow⟩

/-- R166: the image becomes EMPTY. -/
def State.emptyImage (s : State) (c : CageNo) : State := s.modImage c fun _ => Machine.emptyImage

/-- The module's lane count, as the identity section holds it (R51). -/
def State.laneCount (s : State) (c : CageNo) : Nat := (s.cage c).image.identity.laneCount.getD 0

/-- R52: the declared grade power, as the identity section holds it. -/
def State.declared (s : State) (c : CageNo) : Nat :=
  match (s.cage c).image.identity.declared with
  | some (mw, _) => mw
  | none => 1500

/-- The charge of a cage at low power, in mW (R116). -/
def lowPowerCharge : Nat := 1500

/-- R52: the declared power of a grade code, with the note GRADE_UNKNOWN. -/
def gradePower (code : Nat) : Nat × Bool :=
  match code with
  | 0 => (1500, false)
  | 1 => (3000, false)
  | 2 => (5000, false)
  | 3 => (7500, false)
  | 4 => (10000, false)
  | 5 => (12500, false)
  | 6 => (15000, false)
  | 7 => (18000, false)
  | _ => (18000, true)

/-- R82: the duration in ms of an HP duration code. -/
def hpDuration (code : Nat) : Nat :=
  match code with
  | 0 => 100
  | 1 => 200
  | 2 => 500
  | 3 => 1000
  | 4 => 2000
  | 5 => 5000
  | 6 => 10000
  | _ => 20000

/-- R17: the decision source of a port. -/
def portSource : Port → Source
  | .A => .portA
  | .B => .portB

/-! ### Answers (R174) -/

/-- R174, R178: the request being served is answered: PENDING gives way to the outcome's status and data. -/
def State.answer (s : State) (p : Port) (status : ReplyStatus) (data : List Byte) : State :=
  s.modPort p fun q =>
    match q.reply with
    | .pending code target => { q with reply := .answered status code target data, request := none }
    | _ => q

/-! ### Bits and bytes -/

/-- The value of bit `n` of a byte. -/
def bitOf (b : Byte) (n : Nat) : Bool := b.getLsbD n

/-- The byte with the one bit `n` set. -/
def bitMask (n : Nat) : Byte := BitVec.ofNat 8 (2 ^ n)

/-- The byte of a set of lanes, from lane 0 up. -/
def laneSet (lanes : List Bool) : Byte := BitVec.ofNat 8 (lanes.foldr (fun b n => (if b then 1 else 0) + 2 * n) 0)

/-- The bits of the lanes below a lane count. -/
def lanesBelow (n : Nat) : Byte := BitVec.ofNat 8 (2 ^ n - 1)

/-- R51: a number held in the low four bits of a byte. -/
def lowNibble (b : Byte) : Nat := b.toNat % 16

end Sys2Proof.Machine
end

