-- ==== Sys2Proof/Machine/Rails.lean ====
section
/-! DEFINITION. The cage output lines (R3, R4, R6), the charge of a cage (R116, R117) and the Rail Monitor: power
from codes, the judgement of a pair, the limit basis (R132 to R144). -/

namespace Sys2Proof.Machine

/-! ### The limit basis (R137, R138) -/

/-- R138: the target of the limit basis changes to `target` at `now`. -/
def Rlm.follow (r : Rlm) (target : Nat) (now : Stamp) : Rlm :=
  match r.basis with
  | none => r
  | some b =>
    if target = 0 then r
    else if b < target then { r with basis := some target, pending := none }
    else if target < b then { r with pending := some ⟨target, now⟩ }
    else { r with pending := none }

/-- R138: a change of the charge ends the 18000 target of a reset release and is a change of the target. -/
def Rlm.chargeChange (r : Rlm) (charge : Nat) (now : Stamp) : Rlm :=
  ({ r with reset18 := false }).follow charge now

/-- R138: the 18000 target of a reset release ends, and the target is the charge again. -/
def Rlm.endReset18 (r : Rlm) (charge : Nat) (now : Stamp) : Rlm :=
  if r.reset18 then r.chargeChange charge now else r

/-- R137: what RAIL_ON does to the RLM, with the charge the grant has set. -/
def Rlm.railOn (r : Rlm) (charge : Nat) : Rlm :=
  { r with
    window := []
    pg := .notYet
    run := 0
    reported := false
    basis := some charge
    pending := none
    reset18 := false }

/-- R137, R133: what RAIL_OFF does to the RLM; a pair under way is not evaluated. -/
def Rlm.railOff (r : Rlm) : Rlm :=
  { r with window := [], pg := .off, run := 0, basis := none, pending := none, reset18 := false, onPair := false }

/-! ### Charges (R116, R117) -/

/-- R116, R117: the charge of a cage changes, and the committed charge of its group by the difference. -/
def State.setCharge (s : State) (c : CageNo) (charge : Nat) : State :=
  (s.modGroup (groupOf c) fun g => { g with committed := g.committed + charge - (s.cage c).charge }).modCage c
    fun k =>
      { k with
        charge := charge
        rlm := if charge = k.charge then k.rlm else k.rlm.chargeChange charge s.now }

/-! ### The output lines (R3) -/

/-- R3, R6: command RAIL_ON with its rail change report. -/
def State.railOn (s : State) (c : CageNo) : State :=
  if (s.cage c).ciu.lines.rail then s
  else
    (s.modLines c fun l => { l with rail := true }).modRlm c fun r => r.railOn (s.cage c).charge

/-- R147: a segment becomes DISCONNECTED: the page shadow is UNKNOWN and the hold-off expiry none. -/
def Bus.disconnect (b : Bus) : Bus := { b with seg := .disconnected, shadow := none, hold := none, recovery := false }

/-- R3, R4, R6, R14: command RAIL_OFF, which asserts module reset with it, and its rail change report: the RLM and
the PAU take it, the attention latch is cleared and a STUCK mark of the segment goes. -/
def State.railOff (s : State) (c : CageNo) : State :=
  if (s.cage c).ciu.lines.rail then
    (((s.modCiu c fun k =>
        { k with lines := { k.lines with rail := false, reset := true }, latch := none }).setCharge c 0).modRlm c
          Rlm.railOff).modBus c fun b => if b.seg = .stuck then b.disconnect else b
  else s.modLines c fun l => { l with reset := true }

/-- R3: command RESET_ASSERT. -/
def State.resetAssert (s : State) (c : CageNo) : State := s.modLines c fun l => { l with reset := true }

/-- R3: command RESET_RELEASE, not applied while the rail is off. -/
def State.resetRelease (s : State) (c : CageNo) : State :=
  s.modLines c fun l => if l.rail then { l with reset := false } else l

/-- R3, R116: command LP_ASSERT: a charge that was the declared power becomes 1500; the part no longer holds high
power enabled (R100, R191). -/
def State.lpAssert (s : State) (c : CageNo) : State :=
  let s1 := (s.modLines c fun l => { l with lp := true }).modSeq c fun q => { q with hpOn := false }
  if lowPowerCharge < (s.cage c).charge then s1.setCharge c lowPowerCharge else s1

/-- R3: command LP_RELEASE. -/
def State.lpRelease (s : State) (c : CageNo) : State := s.modLines c fun l => { l with lp := false }

/-! ### Judging a pair (R133 to R142) -/

/-- R134: the power of a pair in mW. -/
def pairPower (vc ic : BitVec 10) : Nat := vc.toNat * ic.toNat * 20 / 1000

/-- R135: the window with a new power value, at most the four latest. -/
def pushWindow (w : List Nat) (p : Nat) : List Nat := (w ++ [p]).drop (w.length + 1 - 4)

/-- R135: the average, which exists while the window holds four values. -/
def averageOf (w : List Nat) : Option Nat := if w.length = 4 then some ((w.sum + 2) / 4) else none

/-- R139: the overdraw limit of a basis and a margin. -/
def overdrawLimit (basis margin : Nat) : Nat := basis * (100 + margin) / 100

/-- R136: the voltage code that makes a rail good. -/
def goodCode : Nat := 785

/-- R136: the voltage code below which a good rail is lost. -/
def lostCode : Nat := 760

/-- R141: the instantaneous ceiling in mW. -/
def powerCeiling : Nat := 20000

/-- R140: the overdraw run, evaluated while no report has been made and an average and a basis exist; the flag says
that the run has reached 3. -/
def Rlm.judgeRun (r : Rlm) (margin : Nat) : Rlm × Bool :=
  match r.reported, averageOf r.window, r.basis with
  | false, some avg, some basis =>
    if overdrawLimit basis margin < avg then
      if 3 ≤ r.run + 1 then ({ r with run := r.run + 1, margin := some margin, reported := true }, true)
      else ({ r with run := r.run + 1, margin := some margin }, false)
    else ({ r with run := 0, margin := some margin }, false)
  | _, _, _ => (r, false)

/-- What a judged pair hands to the sequencer. -/
structure Judged where
  rlm : Rlm
  good : Bool
  fault : Option Reason
deriving DecidableEq, Repr

/-- R133: an evaluated pair is used for power-good (R136), the ceiling (R141), the window (R135) and the overdraw
run (R140), in this order, each fault report subject to the report state (R142). -/
def Rlm.judge (r : Rlm) (vc : BitVec 10) (power margin : Nat) : Judged :=
  let good := decide (r.pg = .notYet) && decide (goodCode ≤ vc.toNat)
  let lost := decide (r.pg = .good) && decide (vc.toNat < lostCode)
  let railFail := lost && !r.reported
  let r1 := { r with
    pg := if good then .good else if lost then .lost else r.pg
    reported := r.reported || railFail }
  let ceiling := !r1.reported && decide (powerCeiling < power)
  let r2 := { r1 with reported := r1.reported || ceiling, window := pushWindow r1.window power }
  let (r3, run) := r2.judgeRun margin
  ⟨r3, good, if railFail then some .railFail else if ceiling || run then some .overdraw else none⟩

end Sys2Proof.Machine
end

