-- ==== Sys2Proof/Machine/Engines.lean ====
section
/-! DEFINITION. What the sequencer and the ports do to an engine's items: cancelling, withdrawing and ending the
waiting items of a cage (R146, R147, R154), and the field map an access uses (R161). -/

namespace Sys2Proof.Machine

/-- R161: the values used for a cage whose image holds no map index: page-select offset 127, read burst 8, write
hold-off 0. The other fields are never used. -/
def noMap : FieldMap where
  ident := 0
  pageSel := 127
  laneCount := 1
  burst := 8
  holdOff := 0
  vendor := ⟨0, 0⟩
  part := ⟨0, 0⟩
  serial := ⟨0, 0⟩
  grade := ⟨0, 0⟩
  ready := ⟨⟨0, 0⟩, 0⟩
  hpDuration := ⟨0, 0⟩
  breakouts := ⟨0, 0⟩
  hpEnable := ⟨⟨0, 0⟩, 0⟩
  hpDone := ⟨⟨0, 0⟩, 0⟩
  eqRec := none
  maxAmp := none
  eqControl := ⟨0, 0⟩
  ampControl := ⟨0, 0⟩
  txDisable := ⟨0, 0⟩
  squelch := none
  breakoutSel := ⟨0, 0⟩
  status := ⟨0, 0⟩
  statusLen := 1
  lossPos := 0
  alertPos := 0
  alertBit := 0
  tempPos := 0

/-- R161: the map whose index the image's identity section holds, as the entry stands when it is read: for an item, when
it is posted and when its engine starts it (log entries 49 and 52). -/
def State.mapOf (s : State) (c : CageNo) : FieldMap :=
  match (s.cage c).image.identity.mapIndex with
  | some i => s.fieldMaps[i].getD noMap
  | none => noMap

/-- R148: the upper window. -/
def Item.upper (i : Item) : Bool := decide (128 ≤ i.offset.toNat)

/-- The items of one requester for one cage. -/
def Item.isOf (i : Item) (c : CageNo) (w : Requester) : Bool := decide (i.cage = c) && decide (i.who = w)

/-- R154: a requester cancels its item for a cage: a waiting item is removed without an outcome, a carried item is
finished and its outcome discarded. -/
def Engine.cancel (e : Engine) (c : CageNo) (w : Requester) : Engine :=
  { e with
    waiting := e.waiting.filter fun i => !i.isOf c w
    current := e.current.map fun k => if k.item.isOf c w then { k with cancelled := true } else k }

/-- R154: the sequencer cancels its SEQ item for a cage. -/
def State.cancelSeq (s : State) (c : CageNo) : State := s.modEngine (engineOf c) fun e => e.cancel c .seq

/-- R154, R169: the POLL item of a cage is withdrawn. -/
def State.withdrawPoll (s : State) (c : CageNo) : State := s.modEngine (engineOf c) fun e => e.cancel c .poll

/-- A passthrough of one port for a cage waits at the cage's engine. -/
def State.passWaits (s : State) (c : CageNo) (p : Port) : Bool :=
  (s.engine (engineOf c)).waiting.any fun i => i.isOf c (.port p)

/-- R146, R149, R154: the waiting passthrough of a port for a cage ends with a status (ABSENT, STATE or BUS_STUCK),
and the page shadow is UNKNOWN. -/
def State.endPass (s : State) (c : CageNo) (status : ReplyStatus) (p : Port) : State :=
  if s.passWaits c p then
    ((s.modEngine (engineOf c) fun e =>
      { e with waiting := e.waiting.filter fun i => !i.isOf c (.port p) }).modBus c fun b =>
        { b with shadow := none }).answer p status []
  else s

/-- R98, R154: every waiting passthrough for a cage ends with a status. -/
def State.endPasses (s : State) (c : CageNo) (status : ReplyStatus) : State :=
  (s.endPass c status .A).endPass c status .B

/-- R147: the segment of a cage becomes DISCONNECTED; its waiting items end with STATE, which the sequencer and the
poller discard. -/
def State.disconnect (s : State) (c : CageNo) : State :=
  (((s.modBus c Bus.disconnect).cancelSeq c).withdrawPoll c).endPasses c .state

/-- R44, R114, R147: the segment becomes CONNECTED with the page shadow UNKNOWN. -/
def State.connect (s : State) (c : CageNo) : State :=
  s.modBus c fun b => { b with seg := .connected, shadow := none, recovery := false }

/-- The engine of a cage carries an item for that cage. -/
def State.carries (s : State) (c : CageNo) : Bool :=
  match (s.engine (engineOf c)).current with
  | some k => decide (k.item.cage = c)
  | none => false

/-- R98, R154: a confirmed removal has the carried item of the cage end ABSENT at the next byte boundary. -/
def State.abortCarried (s : State) (c : CageNo) : State :=
  s.modEngine (engineOf c) fun e =>
    { e with current := e.current.map fun k => if k.item.cage = c then { k with ending := true } else k }

/-- R106, R154: a group feed cut ends the carried item of the cage with STATE where it stands; a SEQ or POLL
outcome is discarded. -/
def State.cutCarried (s : State) (c : CageNo) : State :=
  match (s.engine (engineOf c)).current with
  | some k =>
    if k.item.cage = c then
      let s1 := s.modEngine (engineOf c) fun e => { e with current := none, selected := none }
      match k.item.who with
      | .port p => s1.answer p .state []
      | _ => s1
    else s
  | none => s

/-- R168: a POLL item of the cage is waiting or being carried, and has not been withdrawn. -/
def State.pollPending (s : State) (c : CageNo) : Bool :=
  ((s.engine (engineOf c)).waiting.any fun i => i.isOf c .poll) ||
    match (s.engine (engineOf c)).current with
    | some k => k.item.isOf c .poll && !k.cancelled
    | none => false

end Sys2Proof.Machine
end

