-- ==== Sys2Proof/Machine/Teardown.lean ====
section
/-! DEFINITION. Entering a sequencer state and what goes with it, the admission queue (R120 to R122), module faults
(R107), parks (R60), drains (R100 to R104), power faults (R105) and the group feed cut (R106). -/

namespace Sys2Proof.Machine

/-! ### Entering a state -/

/-- R168: the states of the polled set. -/
def SeqState.polled : SeqState → Bool
  | .linkWait => true
  | .inService => true
  | .degraded => true
  | _ => false

/-- R94: the service states. -/
def SeqState.service : SeqState → Bool
  | .inService => true
  | .degraded => true
  | _ => false

/-- R95, R96: the states whose entry ends the blanking window and clears the restore-notice flag. -/
def SeqState.quiets : SeqState → Bool
  | .parked => true
  | .faulted => true
  | .draining => true
  | .identify => true
  | .empty => true
  | _ => false

/-- R26, R35: the states whose entry clears the profile-in-use and learning-pending flags. -/
def SeqState.frees : SeqState → Bool
  | .parked => true
  | .faulted => true
  | .draining => true
  | _ => false

/-- R138: the end of the 18000 target of a reset release, when the sequencer reaches a state other than ADOPTING
after its adoption presence has settled. -/
def State.settleBasis (s : State) (c : CageNo) : State :=
  if (s.cage c).seq.state ≠ .adopting ∧ (s.cage c).ciu.presence ≠ .unsettled then
    s.modCage c fun k => { k with rlm := k.rlm.endReset18 k.charge s.now }
  else s

/-- R169: a state outside the polled set takes the cage out of it and withdraws its POLL item. -/
def State.leavePolls (s : State) (c : CageNo) : State :=
  (s.modCage c fun k => { k with nextPoll := none }).withdrawPoll c

/-- A context with a new state and stage, and the flags that the entry clears (R26, R35, R38, R95, R96). -/
def Ctx.entered (q : Ctx) (st : SeqState) (stage : Stage) : Ctx :=
  { q with
    state := st
    stage := stage
    restoreNotice := q.restoreNotice && !st.quiets
    blank := if st.quiets then none else q.blank
    inUse := q.inUse && !st.frees
    learnPending := q.learnPending && !st.frees
    learning := q.learning && st.service
    learned := if st.service then q.learned else [] }

/-- The sequencer of a cage enters a state at a stage. -/
def State.enter (s : State) (c : CageNo) (st : SeqState) (stage : Stage) : State :=
  let s1 := s.modSeq c fun q => q.entered st stage
  (if st.polled then s1 else s1.leavePolls c).settleBasis c

/-- R100, R105, R107: every timer of the context stops and the pending SEQ item is cancelled. -/
def State.stopWork (s : State) (c : CageNo) : State :=
  (s.modSeq c fun q => { q with timers := {}, access := .none }).cancelSeq c

/-- R41, R98, R99, R114: the results of a restore that the context holds are cleared. -/
def Ctx.clearRestore (q : Ctx) : Ctx :=
  { q with reason := none, cls := none, decision := none, source := none, retry := 0 }

/-! ### Parks (R60) -/

/-- R60, R79: the cage parks with a reason at a stage; a decision source is written into an open record first where
the park gives one (R56, R57). -/
def State.parkNow (s : State) (c : CageNo) (reason : Reason) (stage : Stage) (src : Option Source) : State :=
  let s1 := ((s.stopWork c).enter c .parked stage).modSeq c fun q =>
    { q with reason := some reason, source := src.or q.source, parkAs := none }
  let s2 := s1.post c .parked
  let s3 := s2.writeOpen c fun o => { o with source := src.or o.source }
  s3.closeRecord c .parked (some reason)

/-! ### The admission queue (R120 to R122) -/

/-- R120: `e` stands ahead of the queued entry `x`: `x` has lower priority, or the same one and joined in the same
millisecond with a higher cage number. The millisecond is told by the count that does not wrap (log entry 47), so an
entry never passes one that joined earlier. -/
def Entry.ahead (e x : Entry) : Bool :=
  decide (x.priority < e.priority) ||
    (decide (x.priority = e.priority) && decide (x.joined = e.joined) && decide (e.cage < x.cage))

/-- R120: an entry joins a queue. -/
def joinQueue (e : Entry) : List Entry → List Entry
  | [] => [e]
  | x :: rest => if e.ahead x then e :: x :: rest else x :: joinQueue e rest

/-- R120, R121: a cage asks for an admission: an entry that never fits the budget parks its cage at a stage, any
other joins the group's queue with the profile's priority and the present time. -/
def State.enqueue (s : State) (c : CageNo) (kind : QueueKind) (requested : Nat) (stage : Stage) : State :=
  if (s.group (groupOf c)).budget < requested then s.parkNow c .budget stage none
  else
    s.modGroup (groupOf c) fun g =>
      { g with queue := joinQueue ⟨c, kind, requested, (s.profile c).priority, s.now, s.elapsed⟩ g.queue }

/-- R122: the cage's entry leaves its group's queue. -/
def State.withdrawEntry (s : State) (c : CageNo) : State :=
  s.modGroup (groupOf c) fun g => { g with queue := g.queue.filter fun e => decide (e.cage ≠ c) }

/-- R41, R102: the cage enters ADMIT_WAIT, the insertion time kept, and asks for low power. -/
def State.enterAdmit (s : State) (c : CageNo) : State :=
  let s1 := ((s.stopWork c).enter c .admitWait .none).modSeq c fun q =>
    { q.clearRestore with
      reinsertion := false, dest := none, busRelease := false, sinceAdoption := false, adopted := false }
  s1.enqueue c .lowPower lowPowerCharge .lowPowerStage

/-- R102, R109, R110: the cage returns to ADMIT_WAIT from a drain or from a power fault, its image EMPTY. -/
def State.readmit (s : State) (c : CageNo) : State := (s.emptyImage c).enterAdmit c

/-- R99, R102: the cage enters EMPTY; the restore's results and the insertion time are cleared. -/
def State.enterEmpty (s : State) (c : CageNo) : State :=
  ((s.stopWork c).enter c .empty .none).modSeq c fun q =>
    { q.clearRestore with
      insertion := none
      reinsertion := false, dest := none, busRelease := false, sinceAdoption := false, adopted := false }

/-! ### Module faults (R107) -/

/-- R107: the cage takes a module fault. -/
def State.moduleFault (s : State) (c : CageNo) (reason : Reason) : State :=
  let s1 := ((s.stopWork c).resetAssert c).lpAssert c
  let s2 := (s1.enter c .faulted .module).modSeq c fun q =>
    { q with reason := some reason, adopted := false, parkAs := none }
  (s2.post c .fault).closeRecord c .faulted (some reason)

/-! ### Drains (R100 to R104) -/

/-- R100: the table a cage is drained with. -/
def Ctx.drainTable (q : Ctx) : SlotTable := q.table.getD builtinSlots

/-- R100: the first slot of a drain: the slot of the last step performed, or the highest one of the built-in table
for a cage with no active slot table. -/
def Ctx.firstDrainSlot (q : Ctx) : Nat :=
  match q.table with
  | some _ => q.topSlot
  | none => builtinSlots.ready

/-- R101, R147: the BUS_CONNECT undo: waiting passthroughs are answered STATE; a segment whose cage has an item on
the bus is disconnected at the end of that item, any other at once. -/
def State.busUndo (s : State) (c : CageNo) : State :=
  match (s.cage c).bus.seg with
  | .disconnected => s
  | .stuck => s.disconnect c
  | .connected =>
    if s.carries c then
      (s.endPasses c .state).modSeq c fun q => { q with busRelease := true, stage := .busRelease }
    else s.disconnect c

/-- R101: the steps of one slot are undone. -/
def State.undoSlot (s : State) (c : CageNo) (n : Nat) : State :=
  let t := (s.cage c).seq.drainTable
  let s1 := if t.reset = n then s.resetAssert c else s
  let s2 := if t.bus = n then s1.busUndo c else s1
  if t.rail = n then s2.railOff c else s2

/-- R101: a drain slot starts: its length counts from now, and its steps are undone. -/
def State.startDrainSlot (s : State) (c : CageNo) (n : Nat) : State :=
  let s1 := s.modSeq c fun q =>
    { q with
      slot := n
      stage := .slot n
      timers := { q.timers with slot := some ⟨s.now, q.drainTable.len⟩ } }
  s1.undoSlot c n

/-- R100: a drain starts, with a destination and, for destination FAULTED, the pending fault reason. -/
def State.startDrain (s : State) (c : CageNo) (dest : Dest) (reason : Option Reason) : State :=
  let first := (s.cage c).seq.firstDrainSlot
  let s1 := ((s.stopWork c).withdrawEntry c).enter c .draining (.slot first)
  let s2 := s1.modSeq c fun q =>
    { q with
      dest := some dest
      reason := reason
      adopted := false
      parkAs := none
      reinsertion := false
      busRelease := false }
  (s2.lpAssert c).startDrainSlot c first

/-- R17, R102, R108: the cage enters FAULTED with a power fault; an open record closes. -/
def State.enterPowerFault (s : State) (c : CageNo) (reason : Reason) (stage : Stage) : State :=
  let s1 := ((s.stopWork c).enter c .faulted stage).modSeq c fun q =>
    { q with reason := some reason, dest := none, busRelease := false, adopted := false, parkAs := none }
  s1.closeRecord c .faulted (some reason)

/-- R102: the drain ends: the image is EMPTY and the cage goes to its destination. -/
def State.endDrain (s : State) (c : CageNo) : State :=
  match (s.cage c).seq.dest with
  | some .admitWait => s.readmit c
  | some .faulted => (s.emptyImage c).enterPowerFault c ((s.cage c).seq.reason.getD .railFail) .power
  | _ => if (s.cage c).seq.reinsertion then s.readmit c else (s.emptyImage c).enterEmpty c

/-! ### Power faults (R104, R105) -/

/-- R104, R105: a cage takes RAIL_FAIL or OVERDRAW. -/
def State.powerFault (s : State) (c : CageNo) (reason : Reason) : State :=
  if (s.cage c).ciu.lines.rail then
    match (s.cage c).seq.state with
    | .draining =>
      match (s.cage c).seq.dest with
      | some .admitWait =>
        (s.modSeq c fun q => { q with dest := some .faulted, reason := some reason }).post c .fault
      | _ => s
    | _ => (s.post c .fault).startDrain c .faulted (some reason)
  else s

/-! ### Group feed cut (R106) -/

/-- R110: the length of the feed-clear timer in ms. -/
def feedClearTime : Nat := 1000

/-- R106, R108, R110: the cage enters FAULTED with GROUP_FEED; its feed-clear timer starts at once if the input is
inactive. -/
def State.enterGroupFeed (s : State) (c : CageNo) : State :=
  let s1 := s.enterPowerFault c .groupFeed .feedActive
  if (s.group (groupOf c)).feedActive then s1
  else
    s1.modSeq c fun q =>
      { q with stage := .feedClearing, timers := { q.timers with feedClear := some ⟨s.now, feedClearTime⟩ } }

/-- R106: a group feed fault cuts a cage whose rail enable is ON: the carried item ends, the segment is
DISCONNECTED, the lines and the charge fall, a queue entry goes, and the cage goes where its state says. -/
def State.cut (s : State) (c : CageNo) : State :=
  let q := (s.cage c).seq
  let s1 := ((s.cutCarried c).disconnect c).withdrawEntry c
  let s2 := (s1.railOff c).lpAssert c
  match q.state with
  | .draining =>
    match q.dest with
    | some .admitWait => (s2.emptyImage c).enterGroupFeed c
    | _ => s2.endDrain c
  | .faulted => s2.enterGroupFeed c
  | _ => (s2.post c .fault).enterGroupFeed c

end Sys2Proof.Machine
end

