-- ==== Sys2Proof/Machine/Posting.lean ====
section
/-! DEFINITION. The values the sequencer writes (the lane plan of R70 to R73, the tx controls of R75, the breakout of
R76), the items it and the poller post (R145, R168), and the outcomes a posting gives at once (R147). -/

namespace Sys2Proof.Machine

/-! ### The lane plan (R70 to R73) -/

/-- R70: one entry of the lane plan, with the clamped flags that go with it (R74). -/
structure LanePlan where
  eq : Nat
  amp : Nat
  eqClamped : Bool
  ampClamped : Bool
deriving DecidableEq, Repr

/-- R71: the raw eq saturated to 0 to 15, with the EQ clamped flag. -/
def saturateEq (raw : Int) : Nat × Bool :=
  if raw < 0 then (0, true) else if 15 < raw then (15, true) else (raw.toNat, false)

/-- R73: the requested amplitude held to the module's advertised maximum, with the AMPLITUDE clamped flag. -/
def limitAmp (request : Nat) (max : Option Nat) : Nat × Bool :=
  match max with
  | some m => if m < request then (m, true) else (request, false)
  | none => (request, false)

/-- R70: the tuned pair a restore of the same unit takes for a lane, if the profile holds a tuned list. -/
def Profile.tunedPair (p : Profile) (k : Nat) : Option LanePair :=
  p.tuned.map fun l => l.getD k ⟨8, 1⟩

/-- R70: the pair of the tuned list, where the decision and the class take it. An absent decision (a matched
adoption, R113) counts as RESTORE. -/
def Ctx.tunedPair (q : Ctx) (p : Profile) (k : Nat) : Option LanePair :=
  if q.decision ≠ some .adoptNew ∧ q.cls = some .sameUnit then p.tunedPair k else none

/-- R71: the raw eq of a lane. -/
def rawEq (q : Ctx) (p : Profile) (img : Identity) (k : Nat) : Int :=
  match q.tunedPair p k with
  | some t => t.eq
  | none =>
    if q.decision = some .adoptNew then
      match img.eqRec with
      | some l => (l.getD k 8 : Nat)
      | none => 8
    else
      match img.eqRec with
      | some l => (l.getD k 8 : Nat) + (p.lane k).trim
      | none => ((p.lane k).eq : Nat) + (p.lane k).trim

/-- R72: the requested amplitude of a lane. -/
def requestedAmp (q : Ctx) (p : Profile) (k : Nat) : Nat :=
  match q.tunedPair p k with
  | some t => t.amp
  | none => (p.lane k).amp

/-- R70: the plan of one lane. -/
def State.lanePlan (s : State) (c : CageNo) (k : Nat) : LanePlan :=
  let q := (s.cage c).seq
  let p := s.profile c
  let img := (s.cage c).image.identity
  let e := saturateEq (rawEq q p img k)
  let a := limitAmp (requestedAmp q p k) img.maxAmp
  ⟨e.1, a.1, e.2, a.2⟩

/-- R75: the tx control of a lane as applied, with its TX flag. -/
def resolveTx (tx : TxControl) (squelchField : Bool) : TxControl × Bool :=
  match tx with
  | .forceOn => if squelchField then (.forceOn, false) else (.follow, true)
  | t => (t, false)

/-- R75: the tx control of a lane of the cage, resolved. -/
def State.laneTx (s : State) (c : CageNo) (k : Nat) : TxControl × Bool :=
  resolveTx ((s.profile c).lane k).tx (s.mapOf c).squelch.isSome

/-- R88: the squelch-disable byte: the lanes applied as FORCE_ON. -/
def State.squelchByte (s : State) (c : CageNo) : Byte :=
  laneSet ((List.range (s.laneCount c)).map fun k => decide ((s.laneTx c k).1 = .forceOn))

/-- R88: the tx-disable byte: the lanes applied as SQUELCH and every lane at or above the lane count. -/
def State.txDisableByte (s : State) (c : CageNo) : Byte :=
  laneSet ((List.range 8).map fun k =>
    decide (s.laneCount c ≤ k) || decide ((s.laneTx c k).1 = .squelch))

/-- R54, R76: a breakout is in a module's supported set and not greater than its lane count. -/
def breakoutFits (supported : Byte) (lanes p : Nat) : Bool :=
  (decide (p = 1) || decide (p = 2) || decide (p = 4) || decide (p = 8)) &&
    decide (supported.toNat / p % 2 = 1) && decide (p ≤ lanes)

/-- R76: the breakout to write: the profile's, or where that does not fit the module the one of the earlier restore
in the applied-settings section. -/
def State.breakoutToWrite (s : State) (c : CageNo) : Nat :=
  let img := (s.cage c).image
  let p := (s.profile c).breakout
  if breakoutFits (img.identity.breakouts.getD 0) (s.laneCount c) p then p else img.breakout.getD p

/-! ### Items -/

/-- A read item. -/
def readItem (c : CageNo) (l : Loc) (len : Nat) (who : Requester) (now : Stamp) (joined : Nat) : Item :=
  ⟨c, l.page, l.offset, len, false, [], who, now, false, joined⟩

/-- A SEQ write item. -/
def writeItem (c : CageNo) (l : Loc) (data : List Byte) (now : Stamp) (joined : Nat) : Item :=
  ⟨c, l.page, l.offset, data.length, true, data, .seq, now, false, joined⟩

/-- R85: the location of a lane's byte in a control field of one byte per lane. A lane past the field's end, under a map of fewer
lanes loaded meanwhile (R161), lies at the field's offset plus the lane number too, modulo 256 (DESIGN CHOICE, log entry 54). -/
def Loc.lane (l : Loc) (k : Nat) : Loc := { l with offset := l.offset + BitVec.ofNat 8 k }

/-- R51, R159: the location of an identity field, if the map has it. -/
def FieldMap.identityLoc (m : FieldMap) : IdField → Option Loc
  | .vendor => some m.vendor
  | .part => some m.part
  | .serial => some m.serial
  | .grade => some m.grade
  | .hpDuration => some m.hpDuration
  | .breakouts => some m.breakouts
  | .eqRec => m.eqRec
  | .maxAmp => m.maxAmp

/-- R51, R159: the width of an identity field in bytes. -/
def IdField.width : IdField → Nat
  | .vendor => 16
  | .part => 16
  | .serial => 16
  | .grade => 1
  | .hpDuration => 1
  | .breakouts => 1
  | .eqRec => 8
  | .maxAmp => 1

/-- R47 to R51, R81 to R88, R37, R189, R191: the SEQ item of an access. -/
def State.accessItem (s : State) (c : CageNo) (a : Access) : Item :=
  let m := s.mapOf c
  let read (l : Loc) (n : Nat) : Item := readItem c l n .seq s.now s.elapsed
  let write (l : Loc) (b : Byte) : Item := writeItem c l [b] s.now s.elapsed
  match a with
  | .none => read ⟨0, 0⟩ 1
  | .ident => read ⟨0, 0⟩ 1
  | .readyFlag => read m.ready.loc 1
  | .identity f => read ((m.identityLoc f).getD ⟨0, 0⟩) f.width
  | .adoptHp => read m.hpEnable.loc 1
  | .adoptTx => read m.txDisable 1
  | .adoptBreakout => read m.breakoutSel 1
  | .txFirst => write m.txDisable 0xFF
  | .hpRead => read m.hpEnable.loc 1
  | .hpWrite v => write m.hpEnable.loc v
  | .hpDone => read m.hpDone.loc 1
  | .breakout => write m.breakoutSel (BitVec.ofNat 8 (s.breakoutToWrite c))
  | .txAll => write m.txDisable 0xFF
  | .laneEq k => write (m.eqControl.lane k) (BitVec.ofNat 8 (s.lanePlan c k).eq)
  | .laneAmp k => write (m.ampControl.lane k) (BitVec.ofNat 8 (s.lanePlan c k).amp)
  | .squelch => write (m.squelch.getD ⟨0, 0⟩) (s.squelchByte c)
  | .txDisable => write m.txDisable (s.txDisableByte c)
  | .learnEq k => read (m.eqControl.lane k) 1
  | .learnAmp k _ => read (m.ampControl.lane k) 1
  | .hpOffRead => read m.hpEnable.loc 1
  | .hpOffWrite v => write m.hpEnable.loc v

/-- R145, R147: an item joins the waiting items of its engine. -/
def State.addItem (s : State) (i : Item) : State :=
  s.modEngine (engineOf i.cage) fun e => { e with waiting := e.waiting ++ [i] }

/-- R145, R147: the sequencer posts the SEQ item of an access. On a STUCK segment it ends BUS_STUCK at its posting,
the module fault BUS_STUCK (R53, R80, R38, R189, R191); on a DISCONNECTED one it ends STATE, which is discarded. -/
def State.postSeq (s : State) (c : CageNo) (a : Access) : State :=
  match (s.cage c).bus.seg with
  | .connected => (s.modSeq c fun q => { q with access := a }).addItem (s.accessItem c a)
  | .stuck => s.moduleFault c .busStuck
  | .disconnected => s.modSeq c fun q => { q with access := .none }

/-! ### The poller (R168 to R172) -/

/-- R172: a failed poll. -/
def State.pollFailed (s : State) (c : CageNo) : State :=
  let img := (s.cage c).image
  let s1 := s.modImage c fun i =>
    { i with
      status := { i.status with failures := min 3 (i.status.failures + 1) }
      state := if i.status.failures = 2 ∧ i.state = .valid then .stale else i.state }
  if img.status.failures = 2 ∧ img.state = .valid then s1.post c .moduleAlert else s1

/-- R168: the item that reads the status block. -/
def State.pollItem (s : State) (c : CageNo) : Item :=
  readItem c (s.mapOf c).status (s.mapOf c).statusLen .poll s.now s.elapsed

/-- R168, R147: the poller posts a POLL item unless one is pending; on a STUCK segment it fails at its posting, on a
DISCONNECTED one its outcome is discarded. -/
def State.postPoll (s : State) (c : CageNo) : State :=
  if s.pollPending c then s
  else
    match (s.cage c).bus.seg with
    | .connected => s.addItem (s.pollItem c)
    | .stuck => s.pollFailed c
    | .disconnected => s

/-- R168: the cage joins the polled set: a POLL item is posted, a held latch is taken and the next poll time set. -/
def State.joinPolls (s : State) (c : CageNo) : State :=
  ((s.postPoll c).modCiu c fun k => { k with latch := none }).modCage c fun k =>
    { k with nextPoll := some ⟨s.now, s.settings.pollInterval⟩ }

/-- R13, R170: the attention latch is offered to the poller, which takes it for a cage in the polled set. -/
def State.offerLatch (s : State) (c : CageNo) : State :=
  match (s.cage c).nextPoll with
  | some _ => (s.modCiu c fun k => { k with latch := none }).postPoll c
  | none => s

/-- R165, R171: the reading a successful poll brings. -/
structure Reading where
  temperature : BitVec 16
  laneLoss : Byte
  alert : Bool
deriving DecidableEq, Repr

/-- R165: the reading of a status block. A byte beyond the data read is taken as 0 (log entry 49). -/
def readingOf (m : FieldMap) (lanes : Nat) (data : List Byte) : Reading :=
  ⟨data.getD m.tempPos 0 ++ data.getD (m.tempPos + 1) 0, data.getD m.lossPos 0 &&& lanesBelow lanes,
    bitOf (data.getD m.alertPos 0) m.alertBit⟩

/-- R171: a successful poll, read by the positions of the map its item was carried with (log entry 49). -/
def State.pollTaken (s : State) (c : CageNo) (m : FieldMap) (data : List Byte) : State :=
  let old := (s.cage c).image.status
  let r := readingOf m (s.laneCount c) data
  let lost := decide (r.laneLoss &&& ~~~(old.laneLoss.getD 0) ≠ 0)
  let blanked := match (s.cage c).seq.blank with
    | some b => b.inForce s.now
    | none => false
  let s1 := s.modImage c fun i =>
    { i with
      status := ⟨some r.temperature, some r.laneLoss, some r.alert, some s.now, 0⟩
      state := if i.state = .stale then .valid else i.state }
  let s2 := if lost && !blanked then s1.post c .laneLoss else s1
  if r.alert && !(old.alert.getD false) then s2.post c .moduleAlert else s2

end Sys2Proof.Machine
end

