-- ==== Sys2Proof/Machine/Link.lean ====
section
/-! DEFINITION. The link summary (R91), link verification (R92, R93, R190), the end of a restore (R96), following the
link in service (R94), and learning (R37, R38). -/

namespace Sys2Proof.Machine

/-- R91: the used link slots of a breakout and a lane count. -/
def usedSlots (lanes breakout : Nat) : List Nat := (List.range breakout).map fun k => k * (lanes / breakout)

/-- The stream index of link slot s of cage c. -/
def streamIndex (c : CageNo) (slot : Nat) : Nat := c.val * 8 + slot

/-- R91: the link summary of a cage with a breakout. -/
def linkSummary (l : Lsr) (c : CageNo) (lanes breakout : Nat) : Summary :=
  match l.live, l.accepted with
  | true, some up =>
    let used := (usedSlots lanes breakout).map fun k => up.getLsbD (streamIndex c k)
    if used.all id then .allUp else if used.any id then .someUp else .noneUp
  | _, _ => .unknown

/-- R91: the link summary of a cage, as its image stands. -/
def State.summary (s : State) (c : CageNo) : Summary :=
  linkSummary s.lsr c (s.laneCount c) ((s.cage c).image.breakout.getD 1)

/-- R96: RESTORED is posted at an entry to IN_SERVICE while the restore-notice flag is set, and the flag cleared. -/
def State.noticeRestored (s : State) (c : CageNo) : State :=
  if (s.cage c).seq.restoreNotice then
    (s.post c .restored).modSeq c fun q => { q with restoreNotice := false }
  else s

/-! ### Learning (R37, R38) -/

/-- R38: a read-back that fails abandons the learning, and the profile leaves use. -/
def State.abandonLearning (s : State) (c : CageNo) : State :=
  s.modSeq c fun q =>
    { q with learning := false, learned := [], inUse := false, access := .none, stage := .none }

/-- R37 steps 1 and 2: the tuned list, the read pairs, a value above its bound taken as the bound, and for the lanes
the module has not the lane list's values. -/
def tunedList (p : Profile) (learned : List LanePair) : List LanePair :=
  (List.range 8).map fun k => (learned.getD k ⟨(p.lane k).eq, (p.lane k).amp⟩).clamp

/-- R37 step 3, R51: the last unit, from the identity section, whose grade code is of four bits. -/
def Identity.lastUnit (i : Identity) : LastUnit :=
  ⟨i.ident.getD 0, i.vendor.getD [], i.part.getD [], i.serial.getD [], min 15 (i.grade.getD 0)⟩

/-- R37 step 4: the profile with what was learned. -/
def Profile.withLearned (p : Profile) (unit : LastUnit) (tuned : List LanePair) : Profile :=
  { p.inForce with
    valid := true
    revision := p.revision + 1
    lastUnit := some unit
    tuned := some tuned }

/-- R37 steps 2 to 5: what was read back is stored and the learning ends. -/
def State.storeLearned (s : State) (c : CageNo) : State :=
  let q := (s.cage c).seq
  let s1 := s.modProfile c fun p =>
    p.withLearned (s.cage c).image.identity.lastUnit (tunedList p.inForce q.learned)
  (s1.post c .profileChanged).abandonLearning c

/-- R37 step 1: the read-back of a lane, or the store after the last lane. -/
def State.learnLane (s : State) (c : CageNo) (k : Nat) : State :=
  if k < s.laneCount c then s.postSeq c (.learnEq k) else s.storeLearned c

/-- R37: learning starts. -/
def State.startLearning (s : State) (c : CageNo) : State :=
  (s.modSeq c fun q =>
    { q with learnPending := false, learning := true, learned := [], stage := .learning }).learnLane c 0

/-! ### The end of a restore (R96) -/

/-- R92, R94, R96: entry to IN_SERVICE from LINK_WAIT. -/
def State.restoreUp (s : State) (c : CageNo) : State :=
  let s1 := (s.enter c .inService .none).modSeq c fun q =>
    { q with
      timers := { q.timers with link := none }
      reason := none
      lastKnown := some .allUp
      adopted := false }
  let s2 := (s1.closeRecord c .inService none).noticeRestored c
  if (s2.cage c).seq.learnPending then s2.startLearning c
  else s2.modSeq c fun q => { q with inUse := false }

/-- R93, R96, R190: entry to DEGRADED at the expiry of the link timer. -/
def State.restoreDegraded (s : State) (c : CageNo) (reason : Reason) (known : Option Summary) : State :=
  let s1 := (s.enter c .degraded .none).modSeq c fun q =>
    { q with
      timers := { q.timers with link := none }
      reason := some reason
      lastKnown := known
      adopted := false
      inUse := false
      learnPending := false }
  (s1.closeRecord c .degraded (some reason)).post c .degraded

/-! ### Following the link (R92, R94) -/

/-- R94: the state and the reason a summary gives a cage in service. -/
def serviceState : Summary → SeqState × Option Reason
  | .allUp => (.inService, none)
  | .someUp => (.degraded, some .partialLink)
  | .noneUp => (.degraded, some .linkDown)
  | .unknown => (.degraded, none)

/-- R94, R95, R96: an evaluation in IN_SERVICE or DEGRADED. -/
def State.followLink (s : State) (c : CageNo) : State :=
  let q := (s.cage c).seq
  let sum := s.summary c
  if sum = .unknown then s
  else if q.lastKnown = some sum ∧ q.reason ≠ some .streamLost then s
  else
    let blanked := match q.blank with
      | some b => b.inForce s.now
      | none => false
    let s1 := s.modSeq c fun q =>
      { q with state := (serviceState sum).1, reason := (serviceState sum).2, lastKnown := some sum }
    let s2 := if q.lastKnown ≠ some sum ∧ blanked = false then s1.post c .linkChange else s1
    if (serviceState sum).1 = .inService then s2.noticeRestored c else s2

/-- R91: the sequencer evaluates the summary and acts on it in LINK_WAIT, IN_SERVICE and DEGRADED. -/
def State.evalLink (s : State) (c : CageNo) : State :=
  match (s.cage c).seq.state with
  | .linkWait => if s.summary c = .allUp then s.restoreUp c else s
  | .inService => s.followLink c
  | .degraded => s.followLink c
  | _ => s

/-- R92, R190: entry to LINK_WAIT with the profile's link timeout; the cage joins the polled set (R168) and the
summary is evaluated. `limit` is the retry limit, `none` where the cage does not retry (R190, R191). -/
def State.enterLinkWait (s : State) (c : CageNo) (limit : Option Nat) : State :=
  let s1 := (s.enter c .linkWait .none).modSeq c fun q =>
    { q with
      timers := { link := some ⟨s.now, (s.profile c).linkTimeout * 100⟩ }
      access := .none
      retryLimit := limit }
  (s1.joinPolls c).evalLink c

/-- R94: a summary acted on is the last known one. -/
def State.recordSummary (s : State) (c : CageNo) (sum : Summary) : State :=
  s.modSeq c fun q => { q with lastKnown := some sum }

/-- R93: a link retry: the retry count goes up and the cage enters CONFIGURE at LANE_SETTINGS. -/
def State.retryLink (s : State) (c : CageNo) : State :=
  let s1 := (s.enter c .configure .laneSettings).modSeq c fun q =>
    { q with timers := { q.timers with link := none }, retry := q.retry + 1 }
  s1.postSeq c .txAll

/-- R93, R190: the expiry of the link timer, by the summary as it then stands. A retry and LINK_FAIL act on NONE_UP, which
becomes the last known summary (R94, log entry 44). -/
def State.linkExpired (s : State) (c : CageNo) : State :=
  match s.summary c with
  | .someUp => s.restoreDegraded c .partialLink (some .someUp)
  | .unknown => s.restoreDegraded c .streamLost none
  | .noneUp =>
    match (s.cage c).seq.retryLimit with
    | none => s.restoreDegraded c .linkDown (some .noneUp)
    | some limit =>
      let s1 := s.recordSummary c .noneUp
      if (s.cage c).seq.retry < limit then s1.retryLink c else s1.moduleFault c .linkFail
  | .allUp => s.restoreUp c

end Sys2Proof.Machine
end

