-- ==== Sys2Proof/Machine/Decide.lean ====
section
/-! DEFINITION. Classification (R64 to R67), the DECIDE evaluation (R54, R55), leaving DECIDE to proceed (R59, R191),
the park of a cage in DECIDE (R60, R191), and the resumption of a parked cage (R61, R111). -/

namespace Sys2Proof.Machine

/-! ### Classification (R64 to R67) -/

/-- R64: the type, identifier, vendor name and part code, equals the last unit's. -/
def Identity.typeEqual (i : Identity) (u : LastUnit) : Bool :=
  decide (i.ident = some u.ident) && decide (i.vendor = some u.vendor) && decide (i.part = some u.part)

/-- R64: the serial equals the last unit's. -/
def Identity.serialEqual (i : Identity) (u : LastUnit) : Bool := decide (i.serial = some u.serial)

/-- R65: the reseat window test over the removal and the insertion time, with the window in seconds. -/
def withinReseat (removal insertion : Option Stamp) (window : Nat) : Bool :=
  match removal, insertion with
  | some r, some i => decide (since i r ≤ window * 1000)
  | _, _ => false

/-- R66: the match class with the note TUNED_EXPIRED, the first row of the table that applies. -/
def classOf (p : Profile) (i : Identity) (window : Bool) : MatchClass × Bool :=
  if p.valid then
    match p.lastUnit with
    | none => (.newType, false)
    | some u =>
      if i.typeEqual u then
        if i.serialEqual u && p.tuned.isSome then
          if window then (.sameUnit, false) else (.sameType, true)
        else (.sameType, false)
      else (.newType, false)
  else (.noProfile, false)

/-- R65: the window test of a cage; a restore that began at adoption takes it as met. -/
def State.windowMet (s : State) (c : CageNo) : Bool :=
  (s.cage c).seq.sinceAdoption ||
    withinReseat (s.cage c).outage.removal (s.cage c).seq.insertion s.settings.reseatWindow

/-- R64 to R66: the classification of a cage. -/
def State.classify (s : State) (c : CageNo) : MatchClass × Bool :=
  classOf (s.cage c).profile (s.cage c).image.identity (s.windowMet c)

/-- R67: the class is written into the context, and with the note into an OPEN record. -/
def State.recordClass (s : State) (c : CageNo) (k : MatchClass × Bool) : State :=
  (s.modSeq c fun q => { q with cls := some k.1 }).writeOpen c fun o =>
    { o with cls := some k.1, tunedExpired := k.2 }

/-! ### The outcome of an evaluation (R54, R55) -/

/-- R54, R55: the ways an evaluation ends. -/
inductive Verdict where
  | park (r : Reason)
  | proceed
  | waitWindow
  | wait
deriving DecidableEq, Repr

/-- R55: the policy table. -/
def policyTable (p : Policy) (k : MatchClass) : Verdict :=
  match k, p with
  | .noProfile, _ => .wait
  | _, .manual => .wait
  | .sameUnit, _ => .proceed
  | .sameType, .auto => .proceed
  | .sameType, .confirm => .waitWindow
  | .newType, _ => .waitWindow

/-- R54: the checks in their order, then the policy. -/
def State.verdict (s : State) (c : CageNo) (k : MatchClass) : Verdict :=
  let p := s.profile c
  let img := (s.cage c).image.identity
  if p.maxGrade < min 7 (img.grade.getD 0) then .park .gradeLimit
  else if breakoutFits (img.breakouts.getD 0) (s.laneCount c) p.breakout = false then .park .breakoutUnsupported
  else if (s.group (groupOf c)).budget < s.declared c then .park .budget
  else policyTable p.policy k

/-! ### Parks from DECIDE (R60, R191) -/

/-- R60, R191: the cage parks from DECIDE; an adopted module at high power has its HP enable cleared first. The decision
source is written when the decision is taken (R17, R57). -/
def State.parkFromDecide (s : State) (c : CageNo) (reason : Reason) (src : Option Source) : State :=
  if (s.cage c).seq.adopted && (s.cage c).seq.hpOn then
    let s1 := (s.stopWork c).modSeq c fun q =>
      { q with stage := .hpDisable, source := src.or q.source, parkAs := some reason }
    let s2 := s1.writeOpen c fun o => { o with source := src.or o.source }
    (s2.lpAssert c).postSeq c .hpOffRead
  else s.parkNow c reason .decideStage src

/-! ### Leaving DECIDE to proceed (R59, R191) -/

/-- R59 steps 1 to 4: decision, source and flags; the window stops (R56). -/
def State.commit (s : State) (c : CageNo) (d : Decision) (src : Source) : State :=
  let learn := (s.profile c).learn
  (s.modSeq c fun q =>
    { q with
      decision := some d
      source := some src
      timers := { q.timers with window := none }
      inUse := true
      learnPending := decide (d = .adoptNew) || learn
      restoreNotice := true }).writeOpen c fun o => { o with source := some src }

/-- R59 step 5, R78, R40: the cage leaves DECIDE, whose timers stop, for HP_WAIT and asks for its declared power. -/
def State.enterHpWait (s : State) (c : CageNo) : State :=
  ((s.stopWork c).enter c .hpWait .queued).enqueue c .highPower (s.declared c) .hpStage

/-- R113, R191: the cage enters CONFIGURE at LANE_MAP, where the all-set tx-disable write comes first. -/
def State.enterLaneMap (s : State) (c : CageNo) : State := (s.enter c .configure .laneMap).postSeq c .txFirst

/-- R59, R191: the cage leaves DECIDE with a decision and its source. -/
def State.proceed (s : State) (c : CageNo) (d : Decision) (src : Source) : State :=
  let s1 := s.commit c d src
  if (s.cage c).seq.adopted && (s.cage c).seq.hpOn then
    match d with
    | .restore => s1.enterLaneMap c
    | .adoptNew => s1.enterLinkWait c none
  else s1.enterHpWait c

/-! ### The evaluation (R54, R33) -/

/-- R55: the cage waits in DECIDE, with or without a decision window. -/
def State.waitDecision (s : State) (c : CageNo) (window : Bool) : State :=
  let len := (s.profile c).window * 100
  (s.modSeq c fun q =>
    { q with
      stage := if window then .window else .noWindow
      timers := { q.timers with window := if window then some ⟨s.now, len⟩ else none } }).post c .decisionNeeded

/-- R54, R33: a DECIDE evaluation of a cage in state DECIDE. A running window stops first. -/
def State.decideEval (s : State) (c : CageNo) : State :=
  let k := s.classify c
  let s1 := (s.modTimers c fun t => { t with window := none }).recordClass c k
  match s1.verdict c k.1 with
  | .park r => s1.parkFromDecide c r none
  | .proceed => s1.proceed c .restore .policy
  | .waitWindow => s1.waitDecision c true
  | .wait => s1.waitDecision c false

/-- R54: entry to DECIDE, with the image made VALID, and the evaluation. -/
def State.enterDecide (s : State) (c : CageNo) : State :=
  ((s.enter c .decide .none).modImage c fun i => { i with state := .valid }).decideEval c

/-- R57, R33: the cage waits in DECIDE at stage WINDOW or NO_WINDOW. -/
def Ctx.waiting (q : Ctx) : Bool :=
  decide (q.state = .decide) && (decide (q.stage = .window) || decide (q.stage = .noWindow))

/-! ### Resumption (R61, R111, R114) -/

/-- R47, R163: the identifier poll starts: the image goes from EMPTY to IDENTIFYING and the identifier is read. An image
in another state stays as it is (log entry 22): one that is IDENTIFYING is that of a cage parked with NO_FIELD_MAP; a VALID
or STALE one is met at a poll's start in no run, since every way there from DECIDE empties it. -/
def State.startIdentPoll (s : State) (c : CageNo) : State :=
  (s.modImage c fun i => { i with state := if i.state = .empty then .identifying else i.state }).postSeq c .ident

/-- R61, R111, R114: the cage enters IDENTIFY at FIND with the init timer started afresh. -/
def State.enterFind (s : State) (c : CageNo) : State :=
  let len := (s.profile c).initTimeout
  let s1 := (s.enter c .identify .find).modTimers c fun t => { t with init := some ⟨s.now, len⟩ }
  s1.startIdentPoll c

/-- R61, R111: a parked cage resumes by its reason and its rail; the reason is cleared. -/
def State.resume (s : State) (c : CageNo) : State :=
  let reason := (s.cage c).seq.reason
  let s1 := s.modSeq c fun q => { q with reason := none }
  if (s.cage c).ciu.lines.rail = false then s1.enterAdmit c
  else if reason = some .noFieldMap then s1.enterFind c
  else (s1.enter c .decide .none).decideEval c

end Sys2Proof.Machine
end

