-- ==== Sys2Proof/Machine/Outcomes.lean ====
section
/-! DEFINITION. What the sequencer does with the outcome of each SEQ item: identification (R47 to R53), adoption reading
(R189, R190), the stages of CONFIGURE (R80 to R88), learning (R37, R38) and HP_DISABLE (R191). -/

namespace Sys2Proof.Machine

/-- R146: how an item ends. -/
inductive Ending where
  | ok (data : List Byte)
  | noResponse
  | busStuck
  | absent
  | state
deriving DecidableEq, Repr

/-- R47, R49, R83, R189: the poll timer runs for 10 ms. -/
def pollTime : Nat := 10

/-- R47, R49, R83, R189: the same read is made again when the poll timer expires. -/
def State.pollAgain (s : State) (c : CageNo) (a : Access) : State :=
  s.modSeq c fun q => { q with access := a, timers := { q.timers with poll := some ⟨s.now, pollTime⟩ } }

/-! ### Identification (R48 to R52) -/

/-- R48: the entry of the field map table that holds an identifier. -/
def State.lookup (s : State) (ident : Byte) : Option (Fin 8) :=
  (List.finRange 8).find? fun i => (s.fieldMaps[i].map FieldMap.ident) == some ident

/-- R48, R164: the identifier is written into the image, and the index of its map where an entry matches. Where none
does, an index the image holds would stay, since only emptying clears it (R161); no run looks up with one (log
entry 22). -/
def State.writeIdent (s : State) (c : CageNo) (ident : Byte) : State :=
  s.modImage c fun i =>
    { i with identity := { i.identity with ident := some ident, mapIndex := (s.lookup ident).or i.identity.mapIndex } }

/-- R51: the identity fields in the order of their reads. -/
def identityOrder : List IdField := [.vendor, .part, .serial, .grade, .hpDuration, .breakouts, .eqRec, .maxAmp]

/-- R51: the fields after one field. -/
def fieldsAfter (f : IdField) : List IdField :=
  match f with
  | .vendor => [.part, .serial, .grade, .hpDuration, .breakouts, .eqRec, .maxAmp]
  | .part => [.serial, .grade, .hpDuration, .breakouts, .eqRec, .maxAmp]
  | .serial => [.grade, .hpDuration, .breakouts, .eqRec, .maxAmp]
  | .grade => [.hpDuration, .breakouts, .eqRec, .maxAmp]
  | .hpDuration => [.breakouts, .eqRec, .maxAmp]
  | .breakouts => [.eqRec, .maxAmp]
  | .eqRec => [.maxAmp]
  | .maxAmp => []

/-- R51: the next field the map locates. -/
def nextField (m : FieldMap) (f : IdField) : Option IdField :=
  (fieldsAfter f).find? fun g => (m.identityLoc g).isSome

/-- R51: a field as read is written into the identity section; the lane count comes with the first field. -/
def Identity.store (i : Identity) (f : IdField) (data : List Byte) (lanes : Nat) : Identity :=
  let b := data.getD 0 0
  match f with
  | .vendor => { i with vendor := some data, laneCount := some lanes }
  | .part => { i with part := some data }
  | .serial => { i with serial := some data }
  | .grade => { i with grade := some (lowNibble b) }
  | .hpDuration => { i with hpDuration := some (lowNibble b) }
  | .breakouts => { i with breakouts := some (b &&& 0x0F) }
  | .eqRec => { i with eqRec := some (data.map fun b => min 15 b.toNat) }
  | .maxAmp => { i with maxAmp := some (min 3 b.toNat) }

/-- R52: the declared grade power of the grade code read. -/
def Identity.declare (i : Identity) : Identity := { i with declared := i.grade.map gradePower }

/-- R51, R54, R189: the last identity read is done. -/
def State.identityDone (s : State) (c : CageNo) : State :=
  let s1 := s.modImage c fun i => { i with identity := i.identity.declare }
  if (s.cage c).seq.state = .adopting then s1.postSeq c .adoptHp else s1.enterDecide c

/-- R51: an identity field has been read. -/
def State.tookField (s : State) (c : CageNo) (f : IdField) (data : List Byte) : State :=
  let m := s.mapOf c
  let s1 := s.modImage c fun i => { i with identity := i.identity.store f data m.laneCount }
  match nextField m f with
  | some g => s1.postSeq c (.identity g)
  | none => s1.identityDone c

/-- R48, R189: the identifier has been read and is looked up. -/
def State.tookIdent (s : State) (c : CageNo) (ident : Byte) : State :=
  let s1 := s.writeIdent c ident
  let stop := s1.modTimers c fun t => { t with init := none }
  match s.lookup ident, (s.cage c).seq.state with
  | some _, .adopting => stop.postSeq c (.identity .vendor)
  | none, .adopting => (stop.lpAssert c).parkNow c .noFieldMap .identifyStage none
  | some _, _ => (s1.modSeq c fun q => { q with stage := .ready }).postSeq c .readyFlag
  | none, _ => stop.parkNow c .noFieldMap .identifyStage none

/-- R49: the ready flag has been read. -/
def State.tookReady (s : State) (c : CageNo) (b : Byte) : State :=
  if bitOf b (s.mapOf c).ready.bit then
    ((s.modTimers c fun t => { t with init := none, poll := none }).modSeq c fun q =>
      { q with stage := .identity }).postSeq c (.identity .vendor)
  else s.pollAgain c .readyFlag

/-! ### Adoption (R189, R190) -/

/-- R119: OVERCOMMIT is posted if the committed charge of a group exceeds its budget. -/
def State.overcommit (s : State) (g : GroupNo) : State :=
  if (s.group g).budget < (s.group g).committed then s.postDevice .overcommit else s

/-- R189: the breakout a breakout-select byte holds: exactly one of its four lowest bits, fitting the module. -/
def breakoutOf (b : Byte) (supported : Byte) (lanes : Nat) : Option Nat :=
  let n := (b &&& 0x0F).toNat
  if breakoutFits supported lanes n then some n else none

/-- R190: the module matches the last unit of a valid profile. -/
def matchesUnit (p : Profile) (i : Identity) : Bool :=
  p.valid &&
    match p.lastUnit with
    | some u => i.typeEqual u && i.serialEqual u
    | none => false

/-- R190: a matched module resumes without a decision or a write. -/
def State.adoptMatched (s : State) (c : CageNo) : State :=
  let learn := (s.profile c).learn
  let s1 := s.modSeq c fun q =>
    { q with
      cls := some .sameUnit
      source := some .adopted
      decision := none
      inUse := true
      restoreNotice := true
      learnPending := learn }
  (s1.writeOpen c fun o => { o with cls := some .sameUnit, source := some .adopted }).enterLinkWait c none

/-- R189 to R191: the state bytes have been read; the image is VALID, the charge follows what was found. -/
def State.adoptDone (s : State) (c : CageNo) (sel : Byte) : State :=
  let q := (s.cage c).seq
  let img := (s.cage c).image.identity
  let s1 := s.modImage c fun i =>
    { i with
      state := .valid
      breakout := some ((breakoutOf sel (img.breakouts.getD 0) (s.laneCount c)).getD (s.profile c).breakout) }
  let s2 := if q.hpOn then (s1.setCharge c (s1.declared c)).overcommit (groupOf c) else s1.lpAssert c
  if matchesUnit (s.cage c).profile img && q.hpOn && q.txOn then s2.adoptMatched c else s2.enterDecide c

/-- R189: the HP enable byte has been read. -/
def State.tookAdoptHp (s : State) (c : CageNo) (b : Byte) : State :=
  let on := bitOf b (s.mapOf c).hpEnable.bit && !(s.cage c).ciu.lines.lp
  (s.modSeq c fun q => { q with hpOn := on }).postSeq c .adoptTx

/-- R189: the tx-disable byte has been read. -/
def State.tookAdoptTx (s : State) (c : CageNo) (b : Byte) : State :=
  let on := (List.range (s.laneCount c)).any fun k => !bitOf b k
  (s.modSeq c fun q => { q with txOn := on }).postSeq c .adoptBreakout

/-! ### CONFIGURE (R81 to R88) -/

/-- R82: the HP settle timeout. -/
def State.settleTime (s : State) (c : CageNo) : Nat :=
  min 30000 (hpDuration ((s.cage c).image.identity.hpDuration.getD 0) + (s.profile c).hpMargin)

/-- R81, R83: the HP enable write is done and HP_SETTLE starts. -/
def State.enterHpSettle (s : State) (c : CageNo) : State :=
  let len := s.settleTime c
  (s.modSeq c fun q =>
    { q with stage := .hpSettle, timers := { q.timers with settle := some ⟨s.now, len⟩ } }).postSeq c .hpDone

/-- R83: the HP-done flag has been read. -/
def State.tookHpDone (s : State) (c : CageNo) (b : Byte) : State :=
  if bitOf b (s.mapOf c).hpDone.bit then
    (s.modSeq c fun q =>
      { q with stage := .laneMap, timers := { q.timers with settle := none, poll := none } }).postSeq c .breakout
  else s.pollAgain c .hpDone

/-- R84, R85: the breakout write is done and LANE_SETTINGS starts. -/
def State.wroteBreakout (s : State) (c : CageNo) : State :=
  ((s.modImage c fun i => { i with breakout := some (s.breakoutToWrite c) }).modSeq c fun q =>
    { q with stage := .laneSettings }).postSeq c .txAll

/-- R86: stage HOST_SIDE. -/
def State.enterHostSide (s : State) (c : CageNo) : State :=
  let len := (s.profile c).hostWindow * 10
  (s.modSeq c fun q =>
    { q with stage := .hostSide, timers := { q.timers with hostSide := some ⟨s.now, len⟩ } }).postTo .A c
      .hostSideNeeded

/-- A change of one lane's applied settings. -/
def Image.modLane (i : Image) (k : Nat) (f : LaneApplied → LaneApplied) : Image :=
  { i with lanes := i.lanes.modify k f }

/-- R85, R74: a lane's write is complete. -/
def State.laneDone (s : State) (c : CageNo) (k : Nat) : State :=
  let p := s.lanePlan c k
  let s1 := s.modImage c fun i => i.modLane k fun l =>
    { l with pair := some ⟨p.eq, p.amp⟩, eqClamped := p.eqClamped, ampClamped := p.ampClamped }
  if p.eqClamped || p.ampClamped then
    s1.writeOpen c fun o => { o with clamped := o.clamped ||| bitMask k }
  else s1

/-- R85: the next lane of the plan is written, or the stage ends after the last. -/
def State.writeLane (s : State) (c : CageNo) (k : Nat) : State :=
  if k < s.laneCount c then s.postSeq c (.laneEq k) else s.enterHostSide c

/-- R86 to R88: stage DATAPATH_ENABLE starts; the host-side window stops. -/
def State.enterDatapath (s : State) (c : CageNo) : State :=
  let s1 := s.modSeq c fun q =>
    { q with stage := .datapathEnable, timers := { q.timers with hostSide := none } }
  match (s.mapOf c).squelch with
  | some _ => s1.postSeq c .squelch
  | none => s1.postSeq c .txDisable

/-- R88: the lanes below a lane count take their tx control and TX flag. -/
def applyTx (lanes : List LaneApplied) (n : Nat) (tx : Nat → TxControl × Bool) : List LaneApplied :=
  lanes.mapIdx fun k l => if k < n then { l with tx := some (tx k).1, txClamped := (tx k).2 } else l

/-- R88, R95, R92: the tx-disable write is complete: the image takes the tx controls, the blanking window opens and
the cage enters LINK_WAIT. -/
def State.datapathDone (s : State) (c : CageNo) : State :=
  let p := s.profile c
  let s1 := s.modImage c fun i => { i with lanes := applyTx i.lanes (s.laneCount c) (s.laneTx c) }
  (s1.modSeq c fun q => { q with blank := some ⟨s.now, p.blankStart, p.blankStop⟩ }).enterLinkWait c
    (some p.retryLimit)

/-! ### Learning (R37) -/

/-- R37 step 1: a lane's pair has been read back; its values are held to their bounds as they are stored (tunedList). -/
def State.learnedLane (s : State) (c : CageNo) (k eq : Nat) (b : Byte) : State :=
  (s.modSeq c fun q => { q with learned := q.learned ++ [⟨eq, b.toNat⟩] }).learnLane c (k + 1)

/-! ### HP_DISABLE (R191) -/

/-- R191: the HP enable bit of an adopted module is cleared, and the park is made. -/
def State.parkAdopted (s : State) (c : CageNo) : State :=
  match (s.cage c).seq.parkAs with
  | some r => s.parkNow c r .decideStage none
  | none => s

/-! ### The outcomes -/

/-- The outcome OK of an access, with the bytes read. -/
def State.seqOk (s : State) (c : CageNo) (a : Access) (data : List Byte) : State :=
  let b := data.getD 0 0
  match a with
  | .none => s
  | .ident => s.tookIdent c b
  | .readyFlag => s.tookReady c b
  | .identity f => s.tookField c f data
  | .adoptHp => s.tookAdoptHp c b
  | .adoptTx => s.tookAdoptTx c b
  | .adoptBreakout => s.adoptDone c b
  | .txFirst => if (s.cage c).seq.stage = .hpEnable then s.postSeq c .hpRead else s.postSeq c .breakout
  | .hpRead => s.postSeq c (.hpWrite (b ||| bitMask (s.mapOf c).hpEnable.bit))
  | .hpWrite _ => s.enterHpSettle c
  | .hpDone => s.tookHpDone c b
  | .breakout => s.wroteBreakout c
  | .txAll => s.writeLane c 0
  | .laneEq k => s.postSeq c (.laneAmp k)
  | .laneAmp k => (s.laneDone c k).writeLane c (k + 1)
  | .squelch => s.postSeq c .txDisable
  | .txDisable => s.datapathDone c
  | .learnEq k => s.postSeq c (.learnAmp k b.toNat)
  | .learnAmp k eq => s.learnedLane c k eq b
  | .hpOffRead => s.postSeq c (.hpOffWrite (b &&& ~~~(bitMask (s.mapOf c).hpEnable.bit)))
  | .hpOffWrite _ => s.parkAdopted c

/-- R47, R49, R53, R80, R83, R38, R189, R191: the outcome NO_RESPONSE of an access. -/
def State.seqNoResponse (s : State) (c : CageNo) (a : Access) : State :=
  match a with
  | .none => s
  | .ident => s.pollAgain c .ident
  | .readyFlag => s.pollAgain c .readyFlag
  | .hpDone => s.pollAgain c .hpDone
  | .identity _ => s.moduleFault c .idRead
  | .adoptHp => s.moduleFault c .idRead
  | .adoptTx => s.moduleFault c .idRead
  | .adoptBreakout => s.moduleFault c .idRead
  | .learnEq _ => s.abandonLearning c
  | .learnAmp _ _ => s.abandonLearning c
  | .txFirst => s.moduleFault c .configWrite
  | .hpRead => s.moduleFault c .configWrite
  | .hpWrite _ => s.moduleFault c .configWrite
  | .breakout => s.moduleFault c .configWrite
  | .txAll => s.moduleFault c .configWrite
  | .laneEq _ => s.moduleFault c .configWrite
  | .laneAmp _ => s.moduleFault c .configWrite
  | .squelch => s.moduleFault c .configWrite
  | .txDisable => s.moduleFault c .configWrite
  | .hpOffRead => s.moduleFault c .configWrite
  | .hpOffWrite _ => s.moduleFault c .configWrite

/-- R146: the sequencer takes the outcome of its item. ABSENT and STATE are discarded. -/
def State.seqOutcome (s : State) (c : CageNo) (o : Ending) : State :=
  let a := (s.cage c).seq.access
  let s1 := s.modSeq c fun q => { q with access := .none }
  match o with
  | .ok data => s1.seqOk c a data
  | .noResponse => s1.seqNoResponse c a
  | .busStuck => if a = .none then s1 else s1.moduleFault c .busStuck
  | .absent => s1
  | .state => s1

end Sys2Proof.Machine
end

