-- ==== Sys2Proof/Machine/Carry.lean ====
section
/-! DEFINITION. How an engine carries an item: the choice of the next item (R155), the transactions of an item (R149,
R150), its end and the hand-over of its outcome (R146, R149, R151), the NACKs (R152), the stuck clock (R153) and the
disconnection that a drain waits for (R101). -/

namespace Sys2Proof.Machine

/-! ### The choice (R155) -/

/-- R155, R151: an item can be started: its segment is CONNECTED and its cage has no hold-off that has not passed. -/
def State.canStart (s : State) (i : Item) : Bool :=
  let b := (s.cage i.cage).bus
  decide (b.seg = .connected) &&
    match b.hold with
    | none => true
    | some t => t.due s.now

/-- R155: the item posted earliest, the waiting items standing in the order of their posting; among items of the same
millisecond the one of the lowest cage. -/
def earliest : List Item → Option Item
  | [] => none
  | i :: rest => some (rest.foldl (fun best j =>
      if j.joined = best.joined ∧ j.cage < best.cage then j else best) i)

/-- R155: how long a POLL item waits before it goes ahead of passthroughs, in ms. -/
def agedPoll : Nat := 500

/-- R155: the passthrough to serve, given the one of each port. -/
def choosePass (last : Option Port) (a b : Option Item) : Option Item :=
  if last = some .A then b.or a else a.or b

/-- R155: the first waiting item that can be started, by the order of the rule. -/
def chooseItem (now : Stamp) (last : Option Port) (ready : List Item) : Option Item :=
  let of (w : Requester) := ready.filter fun i => decide (i.who = w)
  let aged := (of .poll).filter fun i => decide (agedPoll ≤ since now i.posted)
  (earliest (of .seq)).or ((earliest aged).or
    ((choosePass last (earliest (of (.port .A))) (earliest (of (.port .B)))).or (earliest (of .poll))))

/-- R149: an item begins with a page-select write when it addresses the upper window and the shadow is UNKNOWN or
another page. -/
def firstPhase (i : Item) (shadow : Option Byte) : Phase :=
  if i.upper && decide (shadow ≠ some i.page) then .pageSelect else .burst

/-- R145: an item as its engine begins to carry it, with the map its transactions use (R161, log entry 52). -/
def beginCarry (i : Item) (shadow : Option Byte) (m : FieldMap) : Carry :=
  ⟨i, shadow, m, firstPhase i shadow, [], 0, 0, none, none, none, false, false⟩

/-- R145, R155: an engine starts an item: it leaves the waiting items, its segment is selected, and a passthrough
makes its port the last served. -/
def State.startItem (s : State) (e : EngineNo) (i : Item) : State :=
  let shadow := (s.cage i.cage).bus.shadow
  (s.modEngine e fun g =>
    { current := some (beginCarry i shadow (s.mapOf i.cage))
      selected := some i.cage
      waiting := g.waiting.erase i
      lastServed := match i.who with
        | .port p => some p
        | _ => g.lastServed }).modBus i.cage fun b => { b with hold := none }

/-- R155: a free engine chooses its next item. -/
def State.chooseNext (s : State) (e : EngineNo) : State :=
  match (s.engine e).current with
  | some _ => s
  | none =>
    match chooseItem s.now (s.engine e).lastServed ((s.engine e).waiting.filter s.canStart) with
    | some i => s.startItem e i
    | none => s

/-- R155: every engine makes its choice. -/
def State.chooseAll (s : State) : State := allEngines.foldl State.chooseNext s

/-! ### The end of an item (R146, R149, R151) -/

/-- R149: a passthrough write whose range includes the page-select offset. -/
def Item.hitsPageSelect (i : Item) (pageSel : Byte) : Bool :=
  i.write && decide (i.offset.toNat ≤ pageSel.toNat) && decide (pageSel.toNat < i.offset.toNat + i.len) &&
    match i.who with
    | .port _ => true
    | _ => false

/-- R149: an upper-window read with the restore-page flag. -/
def Item.restores (i : Item) : Bool := i.restore && i.upper && !i.write

/-- R149: the page shadow an item leaves when none of its own transactions failed: of the upper window its page, or for a
read with the restore-page flag the prior page where there is one; a lower-window item leaves the shadow as it is. -/
def Carry.leaves (k : Carry) (shadow : Option Byte) : Option Byte :=
  if k.item.upper then some (if k.item.restores then k.prior.getD k.item.page else k.item.page) else shadow

/-- R149: the page shadow after an item that ends with an outcome, from the shadow before its end. -/
def endShadow (k : Carry) (shadow : Option Byte) (o : Ending) : Option Byte :=
  if k.item.hitsPageSelect k.map.pageSel then none
  else
    match o with
    | .ok _ => k.leaves shadow
    | .noResponse => if k.phase = .pageSelect || k.item.restores then none else k.leaves shadow
    | .busStuck => none
    | .absent => none
    | .state => none

/-- R151: the hold-off that a write ended OK or NO_RESPONSE starts. -/
def endHold (i : Item) (holdOff : Nat) (hold : Option Timer) (now : Stamp) (o : Ending) : Option Timer :=
  if i.write && decide (0 < holdOff) then
    match o with
    | .ok _ => some ⟨now, holdOff⟩
    | .noResponse => some ⟨now, holdOff⟩
    | _ => hold
  else hold

/-- R146, R156: the reply status and data of a passthrough's outcome. -/
def Ending.reply : Ending → ReplyStatus × List Byte
  | .ok data => (.ok, data)
  | .noResponse => (.noResponse, [])
  | .busStuck => (.busStuck, [])
  | .absent => (.absent, [])
  | .state => (.state, [])

/-- R171: the poller takes the outcome of its item, which was carried with a map. -/
def State.pollOutcome (s : State) (c : CageNo) (m : FieldMap) (o : Ending) : State :=
  match o with
  | .ok data => s.pollTaken c m data
  | .noResponse => s.pollFailed c
  | .busStuck => s.pollFailed c
  | .absent => s
  | .state => s

/-- R146: the outcome goes to the item's requester; one of a cancelled item is discarded. -/
def State.handOver (s : State) (k : Carry) (o : Ending) : State :=
  match k.item.who with
  | .port p => s.answer p o.reply.1 o.reply.2
  | .seq => if k.cancelled then s else s.seqOutcome k.item.cage o
  | .poll => if k.cancelled then s else s.pollOutcome k.item.cage k.map o

/-- R101: a drain slot is followed by the next lower one. -/
def State.nextDrainSlot (s : State) (c : CageNo) : State := s.startDrainSlot c ((s.cage c).seq.slot - 1)

/-- R101: the disconnection that a drain waits for is made at the end of the carried item; the next slot starts then
if its time has come. -/
def State.drainRelease (s : State) (c : CageNo) : State :=
  let q := (s.cage c).seq
  if q.state = .draining ∧ q.busRelease = true then
    let s1 := (s.disconnect c).modSeq c fun q => { q with busRelease := false, stage := .slot q.slot }
    if dueTimer q.timers.slot s.now && decide (0 < q.slot) then s1.nextDrainSlot c else s1
  else s

/-- R145, R149, R151: the engine puts the item down: no segment is selected, the shadow and the hold-off are set. -/
def State.putDown (s : State) (e : EngineNo) (k : Carry) (o : Ending) : State :=
  (s.modEngine e fun g => { g with current := none, selected := none }).modBus k.item.cage fun b =>
    { b with shadow := endShadow k b.shadow o, hold := endHold k.item k.map.holdOff b.hold s.now o }

/-- R146: the current item of an engine ends with an outcome. -/
def State.endItem (s : State) (e : EngineNo) (o : Ending) : State :=
  match (s.engine e).current with
  | none => s
  | some k => ((s.putDown e k o).handOver k o).drainRelease k.item.cage

/-! ### Transactions (R149, R150) -/

/-- A change of the current item of an engine. -/
def State.modCarry (s : State) (e : EngineNo) (f : Carry → Carry) : State :=
  s.modEngine e fun g => { g with current := g.current.map f }

/-- R150: the length of the burst at hand. -/
def Carry.burstLen (k : Carry) : Nat := min k.map.burst (k.item.len - k.done)

/-- R149: the page a restore write puts back. -/
def Carry.restorePage (k : Carry) : Option Byte :=
  if k.item.restores then
    match k.prior with
    | some p => if p = k.item.page then none else some p
    | none => none
  else none

/-- R149, R150: every byte of the item has been transferred: it ends, or the restore write comes first. -/
def State.burstsDone (s : State) (e : EngineNo) (k : Carry) : State :=
  match k.restorePage with
  | some _ => s.modCarry e fun k => { k with phase := .restorePage, attempts := 0 }
  | none => s.endItem e (.ok k.got)

/-- R150, R151: a burst is complete. -/
def State.burstDone (s : State) (e : EngineNo) (k : Carry) (data : List Byte) : State :=
  let k1 := { k with
    got := if k.item.write then k.got else k.got ++ data
    done := k.done + k.burstLen
    attempts := 0 }
  let s1 := s.modCarry e fun _ => k1
  if k1.done < k.item.len then
    if k.item.write && decide (0 < k.map.holdOff) then
      s.modCarry e fun _ => { k1 with holdWait := some ⟨s.now, k.map.holdOff⟩ }
    else s1
  else s1.burstsDone e k1

/-- R150: the engine is in a transaction of its item: not in a retry pause, not in a hold-off, and the clock is not
held low. -/
def Carry.inTransaction (k : Carry) : Bool := k.pause.isNone && k.holdWait.isNone && k.clockLow.isNone

/-- R149, R150: the transaction at hand completes. A read burst brings as many bytes as it is long. -/
def State.transactionDone (s : State) (e : EngineNo) (data : List Byte) : State :=
  match (s.engine e).current with
  | none => s
  | some k =>
    if k.inTransaction then
      if k.ending then s.endItem e .absent
      else
        match k.phase with
        | .pageSelect =>
          (s.modBus k.item.cage fun b => { b with shadow := some k.item.page }).modCarry e fun k =>
            { k with phase := .burst, attempts := 0 }
        | .burst =>
          if k.item.write || decide (data.length = k.burstLen) then s.burstDone e k data
          else s
        | .restorePage => s.endItem e (.ok k.got)
    else s

/-! ### NACKs (R152) -/

/-- R152: the attempts at a burst's address. -/
def maxAttempts : Nat := 3

/-- R152: the pause between two attempts in ms. -/
def retryPause : Nat := 1

/-- R149, R152: the transaction at hand has failed. A failed restore write leaves the read's outcome as it is, and the page
shadow UNKNOWN. -/
def State.transactionFailed (s : State) (e : EngineNo) (k : Carry) : State :=
  match k.phase with
  | .restorePage => (s.endItem e (.ok k.got)).modBus k.item.cage fun b => { b with shadow := none }
  | .pageSelect => s.endItem e .noResponse
  | .burst => s.endItem e .noResponse

/-- R152: the module does not acknowledge its address. -/
def State.addressNacked (s : State) (e : EngineNo) : State :=
  match (s.engine e).current with
  | none => s
  | some k =>
    if k.inTransaction then
      if k.ending then s.endItem e .absent
      else if maxAttempts ≤ k.attempts + 1 then s.transactionFailed e k
      else s.modCarry e fun k => { k with attempts := k.attempts + 1, pause := some s.now }
    else s

/-- R152: the retry pause has passed, and the burst is attempted again. -/
def State.retryBurst (s : State) (e : EngineNo) : State :=
  match (s.engine e).current with
  | none => s
  | some k =>
    match k.pause with
    | none => s
    | some t =>
      if retryPause ≤ since s.now t then
        if k.ending then s.endItem e .absent else s.modCarry e fun k => { k with pause := none }
      else s

/-- R152: the transaction at hand writes data: a burst of a write, a page-select or a restore write. -/
def Carry.writing (k : Carry) : Bool := k.item.write || decide (k.phase ≠ .burst)

/-- R152: the module refuses a data byte of a write. -/
def State.dataNacked (s : State) (e : EngineNo) : State :=
  match (s.engine e).current with
  | none => s
  | some k =>
    if k.inTransaction && k.writing then
      if k.ending then s.endItem e .absent else s.transactionFailed e k
    else s

/-! ### The stuck clock (R153) -/

/-- R153: the stuck limit in ms; the clock is stuck when it has been low for more than this. -/
def stuckLimit : Nat := 25

/-- R153: the engine finds the clock held low. -/
def State.clockLow (s : State) (e : EngineNo) : State :=
  s.modCarry e fun k => if k.inTransaction then { k with clockLow := some s.now } else k

/-- R153: the module releases the clock. -/
def State.clockFree (s : State) (e : EngineNo) : State := s.modCarry e fun k => { k with clockLow := none }

/-- R147, R153: a waiting POLL item of a cage ends BUS_STUCK. -/
def State.stickPoll (s : State) (c : CageNo) : State :=
  if (s.engine (engineOf c)).waiting.any fun i => i.isOf c .poll then (s.withdrawPoll c).pollFailed c else s

/-- R147, R153: a waiting SEQ item of a cage ends BUS_STUCK. -/
def State.stickSeq (s : State) (c : CageNo) : State :=
  if (s.engine (engineOf c)).waiting.any fun i => i.isOf c .seq then s.moduleFault c .busStuck else s

/-- R153: the steps taken when the clock has been held low too long. -/
def State.stick (s : State) (e : EngineNo) : State :=
  match (s.engine e).current with
  | none => s
  | some k =>
    match k.clockLow with
    | none => s
    | some t =>
      if stuckLimit < since s.now t then
        let c := k.item.cage
        let s1 := (s.putDown e k .busStuck).modBus c fun b => { b with seg := .stuck, recovery := true }
        (((((s1.handOver k .busStuck).endPasses c .busStuck).stickPoll c).stickSeq c).drainRelease c)
      else s

/-! ### Removal and hold-off (R151, R154) -/

/-- R154: the item of a removed cage ends ABSENT at a byte boundary. -/
def State.endAtBoundary (s : State) (e : EngineNo) : State :=
  match (s.engine e).current with
  | none => s
  | some k => if k.ending && k.clockLow.isNone then s.endItem e .absent else s

/-- R151: the engine that carries an item of the cage goes on to its next burst once the hold-off has passed. -/
def State.resumeWrite (s : State) (e : EngineNo) (c : CageNo) : State :=
  match (s.engine e).current with
  | none => s
  | some k =>
    if k.item.cage = c ∧ dueTimer k.holdWait s.now = true then
      if k.ending then s.endItem e .absent else s.modCarry e fun k => { k with holdWait := none }
    else s

/-- R151: the hold-off of a cage has passed. -/
def State.holdOver (s : State) (c : CageNo) : State :=
  let s1 := s.modBus c fun b => { b with hold := if dueTimer b.hold s.now then none else b.hold }
  s1.resumeWrite (engineOf c) c

end Sys2Proof.Machine
end

