-- ==== Sys2Proof/Machine/Admission.lean ====
section
/-! DEFINITION. The Power Admission Unit's grants: the conditions and the arbitration (R123, R126, R127), the two grants
(R42, R79, R124), the last inrush records (R125), the budget change (R118, R119, R121), and the end of every step that
changes state, at which waiting heads are tested and free engines choose. -/

namespace Sys2Proof.Machine

/-! ### Conditions (R123, R126) -/

/-- R123: the rise of the committed charge that a grant of the entry makes. -/
def State.delta (s : State) (e : Entry) : Nat :=
  match e.kind with
  | .lowPower => lowPowerCharge
  | .highPower => e.requested - (s.cage e.cage).charge

/-- R126: a last inrush record allows an inrush event now, with a spacing. -/
def Inrush.allows (r : Inrush) (spacing : Nat) (now : Stamp) : Bool :=
  match r with
  | .none => true
  | .lapsed _ => true
  | .active t => decide (spacing ≤ since now t)

/-- R123: the committed charge plus the entry's delta does not exceed the budget. -/
def State.budgetAllows (s : State) (g : GroupNo) (e : Entry) : Bool :=
  decide (s.delta e = 0) || decide ((s.group g).committed + s.delta e ≤ (s.group g).budget)

/-- R126: the group spacing allows a grant in the group. -/
def State.groupAllows (s : State) (g : GroupNo) : Bool :=
  (s.group g).last.allows s.settings.groupSpacing s.now

/-- R126: the device spacing allows a grant. -/
def State.deviceAllows (s : State) : Bool := s.deviceLast.allows s.settings.deviceSpacing s.now

/-- R41, R78: the entry's cage waits for the kind of admission the entry asks for. -/
def State.entryWaits (s : State) (e : Entry) : Bool :=
  match e.kind, (s.cage e.cage).seq.state with
  | .lowPower, .admitWait => true
  | .highPower, .hpWait => true
  | _, _ => false

/-- R123, R127: the head of a group that is grantable under every condition but the device spacing. -/
def State.readyHead (s : State) (g : GroupNo) : Option Entry :=
  match (s.group g).queue with
  | [] => none
  | e :: _ =>
    if !(s.group g).feedActive && s.entryWaits e && s.budgetAllows g e && s.groupAllows g then some e else none

/-- R127: the candidate `b` of a higher group is chosen before the candidate `a`: by priority, then by wait. -/
def Entry.beats (b a : Entry) (now : Stamp) : Bool :=
  decide (a.priority < b.priority) ||
    (decide (a.priority = b.priority) && decide (since now a.time < since now b.time))

/-- R127: the head the PAU chooses among the groups' grantable heads. -/
def State.bestHead (s : State) : Option (GroupNo × Entry) :=
  allGroups.foldl (fun best g =>
    match best, s.readyHead g with
    | none, some e => some (g, e)
    | some (h, a), some b => if b.beats a s.now then some (g, b) else some (h, a)
    | best, none => best) none

/-- R123, R127: the head the PAU grants now. -/
def State.winner (s : State) : Option (GroupNo × Entry) := if s.deviceAllows then s.bestHead else none

/-! ### Grants (R42, R79, R124) -/

/-- R45, R187: the power-good limit in ms. -/
def pgLimit : Nat := 50

/-- R124 steps 1 and 3: the head leaves its queue, and the grant time is recorded as the last inrush. -/
def State.takeHead (s : State) (g : GroupNo) : State :=
  { s.modGroup g fun x => { x with queue := x.queue.tail, last := .active s.now } with
    deviceLast := .active s.now }

/-- R42 to R45: the low-power grant: the charge, the copy of the slot table, slot 0 with the rail on and low-power
asserted, the slot timer and the power-good limit. -/
def State.grantLow (s : State) (g : GroupNo) (c : CageNo) : State :=
  let t := (s.profile c).slots
  let s1 := ((s.takeHead g).setCharge c lowPowerCharge).modSeq c fun q =>
    { q with
      table := some t
      slot := 0
      topSlot := 0
      pgHeld := false
      timers := { slot := some ⟨s.now, t.len⟩, pgLimit := some ⟨s.now, pgLimit⟩ } }
  ((s1.enter c .powering (.slot 0)).railOn c).lpAssert c

/-- R79, R81, R191: the high-power grant: the declared charge, low-power released, and CONFIGURE at HP_ENABLE, where
an adopted module gets the all-set tx-disable write first. -/
def State.grantHigh (s : State) (g : GroupNo) (c : CageNo) (requested : Nat) : State :=
  let s1 := (((s.takeHead g).setCharge c requested).lpRelease c).enter c .configure .hpEnable
  s1.postSeq c (if (s.cage c).seq.adopted then .txFirst else .hpRead)

/-- R124: the grant of an entry. -/
def State.grant (s : State) (g : GroupNo) (e : Entry) : State :=
  match e.kind with
  | .lowPower => s.grantLow g e.cage
  | .highPower => s.grantHigh g e.cage e.requested

/-- R123: the head that the PAU may grant now is granted. -/
def State.pauTest (s : State) : State :=
  match s.winner with
  | some (g, e) => s.grant g e
  | none => s

/-- The end of a step: waiting heads are tested (R123), then the free engines choose their next items (R155). -/
def State.settle (s : State) : State := s.pauTest.chooseAll

/-- R186: a step that any state of the part may follow from, not taken while the reset pin is asserted. -/
def act (s : State) (f : State → State) : Out := event s fun s => (f s).settle

/-! ### Last inrush records (R125) -/

/-- R125: the time after which a record lapses, in ms. -/
def lapseTime : Nat := 255

/-- R125: a record is marked LAPSED. -/
def Inrush.lapse (r : Inrush) (now : Stamp) : Inrush :=
  match r with
  | .active t => if lapseTime ≤ since now t then .lapsed t else .active t
  | r => r

/-! ### Budget changes (R118, R119, R121, R111) -/

/-- R121: the stage a never-fit entry's cage parks at. -/
def QueueKind.parkStage : QueueKind → Stage
  | .lowPower => .lowPowerStage
  | .highPower => .hpStage

/-- R121: the never-fit test of one entry at a budget change. -/
def State.neverFit (s : State) (g : GroupNo) (e : Entry) : State :=
  if (s.group g).budget < e.requested then
    (s.withdrawEntry e.cage).parkNow e.cage .budget e.kind.parkStage none
  else s

/-- R111: the cage was parked with BUDGET before the change, and the budget now covers it. -/
def State.budgetCovers (s : State) (g : GroupNo) (c : CageNo) : Bool :=
  let k := s.cage c
  decide (k.seq.state = .parked) && decide (k.seq.reason = some .budget) &&
    if k.ciu.lines.rail then decide (s.declared c ≤ (s.group g).budget)
    else decide (lowPowerCharge ≤ (s.group g).budget)

/-- R118: the steps of a budget change before the head is tested. The entries that no longer fit are parked from the head
of the queue to its tail (DESIGN CHOICE, log entry 53: R118 gives no order among them). -/
def State.changeBudget (s : State) (g : GroupNo) (budget : Nat) : State :=
  let s1 := s.modGroup g fun x => { x with budget := budget }
  let resumed := (cagesOf g).filter fun c => s1.budgetCovers g c
  let s2 := (s.group g).queue.foldl (fun s e => s.neverFit g e) s1
  (s2.each resumed fun c s => s.resume c).overcommit g

/-- R118: a requested budget as it is stored, with the mark that it was changed. -/
def storeBudget (v : Nat) : Nat × Bool :=
  if 60000 < v then (60000, true) else (v / 250 * 250, decide (v % 250 ≠ 0))

end Sys2Proof.Machine
end

