-- ==== Sys2Proof/Machine/Presence.lean ====
section
/-! DEFINITION. Presence debounce (R7 to R12), module attention (R13, R14), what the sequencer does with INSERTED and
REMOVED (R41, R98, R99, R103), and the adoption presence (R187, R188). -/

namespace Sys2Proof.Machine

/-! ### INSERTED and REMOVED at the sequencer -/

/-- R98: the teardown of a powered cage whose module was removed. -/
def State.tearDown (s : State) (c : CageNo) : State :=
  let s1 := (s.abortCarried c).endPasses c .absent
  let s2 := (s1.emptyImage c).modSeq c fun q => { q.clearRestore with insertion := none }
  s2.startDrain c .empty none

/-- R99: a cage whose rail is off, or that drains, takes a removal. -/
def State.removedUnpowered (s : State) (c : CageNo) : State :=
  let s1 := (s.abortCarried c).emptyImage c
  if (s.cage c).seq.state = .draining then
    s1.modSeq c fun q =>
      { q.clearRestore with dest := some .empty, reinsertion := false, insertion := none }
  else (s1.withdrawEntry c).enterEmpty c

/-- R98, R99: the sequencer takes a REMOVED report. -/
def State.removed (s : State) (c : CageNo) : State :=
  if (s.cage c).ciu.lines.rail = true ∧ (s.cage c).seq.state ≠ .draining then s.tearDown c
  else s.removedUnpowered c

/-- R41, R103: the sequencer takes an INSERTED report with its event time. -/
def State.inserted (s : State) (c : CageNo) (t : Stamp) : State :=
  match (s.cage c).seq.state with
  | .empty => (s.modSeq c fun q => { q with insertion := some t }).enterAdmit c
  | .draining => s.modSeq c fun q => { q with insertion := some t, reinsertion := true }
  | _ => s

/-! ### Debounce (R7 to R9) -/

/-- R7, R8: a raw level against the accepted presence. -/
def Presence.is (p : Presence) (level : Bool) : Bool :=
  match p with
  | .present => level
  | .absent => !level
  | .unsettled => false

/-- R7, R8, R12: a raw change of the present line outside a reset. -/
def Ciu.rawChange (k : Ciu) (level : Bool) (now : Stamp) : Ciu :=
  match k.settle with
  | some _ => { k with presentPin := level, settle := some now }
  | none =>
    match k.candidate with
    | some _ => { k with presentPin := level, candidate := none }
    | none =>
      { k with
        presentPin := level
        candidate := if k.presence.is level then none else some ⟨level, now⟩ }

/-- R9: the cage's candidate can be accepted. -/
def State.candidateDue (s : State) (c : CageNo) : Bool :=
  match (s.cage c).ciu.candidate with
  | none => false
  | some k => decide (s.settings.debounce ≤ since s.now k.capture) && decide ((s.cage c).ciu.presentPin = k.level)

/-- R9, R14, R16: a candidate is accepted: presence, record, report, notice. -/
def State.accept (s : State) (c : CageNo) (k : Candidate) : State :=
  if k.level then
    let s1 := s.modCiu c fun x => { x with presence := .present, candidate := none }
    ((s1.recordInsertion c k.capture).inserted c k.capture).post c .inserted
  else
    let s1 := s.modCiu c fun x => { x with presence := .absent, candidate := none, latch := none }
    ((s1.recordRemoval c k.capture).removed c).post c .removed

/-- R9, R10: the cage's candidate is accepted if its time has come. -/
def State.acceptDue (s : State) (c : CageNo) : State :=
  match (s.cage c).ciu.candidate with
  | some k => if s.candidateDue c then s.accept c k else s
  | none => s

/-! ### Adoption presence (R12, R187, R188) -/

/-- R188 A: an OPEN or CLOSED record becomes WAITING with the settle time as its removal time. -/
def State.recordA (s : State) (c : CageNo) : State :=
  if (s.cage c).outage.hasResult then s.recordRemoval c s.now else s

/-- R188 A: REMOVED is posted where the record was written. -/
def State.noticeA (s : State) (c : CageNo) (written : Bool) : State := if written then s.post c .removed else s

/-- R188 B: the record is opened with the reset release time; the context's insertion time equals it. -/
def State.recordB (s : State) (c : CageNo) : State :=
  (s.modOutage c fun _ =>
    { emptyOutage with insertion := some s.releaseTime, result := some .inProgress }).modSeq c fun q =>
      { q with insertion := some s.releaseTime }

/-- R188 C: an OPEN record is kept, any other is opened as in B; the context's insertion time equals it. -/
def State.recordC (s : State) (c : CageNo) : State :=
  if (s.cage c).outage.isOpen then
    s.modSeq c fun q => { q with insertion := (s.cage c).outage.insertion }
  else s.recordB c

/-- R188, R187: a drain that adoption starts, with the built-in table; the power-good limit keeps running. -/
def State.drainAdoption (s : State) (c : CageNo) (dest : Dest) : State :=
  let limit := (s.cage c).seq.timers.pgLimit
  (s.startDrain c dest none).modTimers c fun t => { t with pgLimit := limit }

/-- R189: the reading of a running module starts: the timeout runs from the first read. -/
def State.startReading (s : State) (c : CageNo) : State :=
  let len := (s.profile c).initTimeout
  (s.modTimers c fun t => { t with init := some ⟨s.now, len⟩ }).startIdentPoll c

/-- R188 row C: the cage is adopted; it reads its module once POWER_GOOD is held (R189). -/
def State.adopt (s : State) (c : CageNo) : State :=
  let s1 := (s.recordC c).modSeq c fun q => { q with adopted := true, sinceAdoption := true }
  if (s.cage c).seq.pgHeld then s1.startReading c else s1

/-- R188: the adoption presence of a cage that waits for it in ADOPTING. -/
def State.adoptionRow (s : State) (c : CageNo) (present : Bool) : State :=
  let l := (s.cage c).ciu.lines
  if present then
    if l.rail = false then (s.recordB c).enterAdmit c
    else if l.reset then (s.recordB c).drainAdoption c .admitWait
    else s.adopt c
  else
    let s1 := s.recordA c
    let s2 := if l.rail then s1.drainAdoption c .empty else s1.enterEmpty c
    s2.noticeA c (s.cage c).outage.hasResult

/-- R187: the adoption presence of a cage found DRAINING or FAULTED. -/
def State.adoptionLate (s : State) (c : CageNo) (present : Bool) : State :=
  if present then
    let s1 := s.recordB c
    if (s.cage c).seq.state = .faulted then s1.closeRecord c .faulted (s.cage c).seq.reason else s1
  else ((s.recordA c).removed c).noticeA c (s.cage c).outage.hasResult

/-- R12, R187, R188: the sequencer takes the adoption presence, and the 18000 target of the limit basis ends where
the cage is in another state than ADOPTING (R138), for one already DRAINING at the settling itself (log entry 48). -/
def State.adoptionPresence (s : State) (c : CageNo) (present : Bool) : State :=
  if (s.cage c).seq.state = .adopting then s.adoptionRow c present
  else (s.adoptionLate c present).settleBasis c

/-- R12: the settle interval of a cage has held the debounce time. -/
def State.settleDue (s : State) (c : CageNo) : Bool :=
  match (s.cage c).ciu.settle with
  | some t => decide (s.settings.debounce ≤ since s.now t)
  | none => false

/-- R12: the settle interval ends: the accepted presence takes the line's level and is handed to the sequencer. -/
def State.endSettle (s : State) (c : CageNo) : State :=
  let level := (s.cage c).ciu.presentPin
  (s.modCiu c fun k =>
    { k with settle := none, presence := if level then .present else .absent }).adoptionPresence c level

/-! ### Module attention (R13, R170) -/

/-- R13: the three conditions under which a falling edge is latched. -/
def Ciu.latches (k : Ciu) : Bool := decide (k.presence = .present) && k.lines.rail && !k.lines.reset

/-- R13: a falling edge is latched, merged into a held latch, or discarded. -/
def State.latchEdge (s : State) (c : CageNo) : State :=
  if (s.cage c).ciu.latches then
    match (s.cage c).ciu.latch with
    | some _ => s
    | none => (s.modCiu c fun k => { k with latch := some s.now }).offerLatch c
  else s

/-! ### Meanings -/

/-- R7, R8, R11, R12: PRESENT_LINE_CHANGE. The line's level is the outside's; during a reset it is not acted on. -/
def execPresentLineChange (c : CageNo) (level : Bool) (s : State) : Out :=
  .next
    (if level = (s.cage c).ciu.presentPin then s
     else if s.inReset then s.modCiu c fun k => { k with presentPin := level }
     else s.modCiu c fun k => k.rawChange level s.now)

/-- R9: CANDIDATE_ACCEPTED, when the candidate has held the debounce time. -/
def execCandidateAccepted (c : CageNo) (s : State) : Out :=
  if s.candidateDue c then act s fun s => s.acceptDue c else .next s

/-- R12: SETTLE_INTERVAL_END, when the line has held one level for the debounce time. -/
def execSettleIntervalEnd (c : CageNo) (s : State) : Out :=
  if s.settleDue c then act s fun s => s.endSettle c else .next s

/-- R13: ATTENTION_EDGE. A falling edge is latched and offered to the poller; a rising edge is not latched. -/
def execAttentionEdge (c : CageNo) (low : Bool) (s : State) : Out :=
  let s1 := s.modCiu c fun k => { k with attentionPin := low }
  if s.inReset then .next s1
  else if low && !(s.cage c).ciu.attentionPin then .next (s1.latchEdge c).settle
  else .next s1

end Sys2Proof.Machine
end

