-- ==== Sys2Proof/Machine/Power.lean ====
section
/-! DEFINITION. The commands of the Power Admission Unit: grants, spacing bounds, lapses of the last inrush records and
the changes of a feed-fault input (R123 to R129, R42, R79, R106, R110). -/

namespace Sys2Proof.Machine

/-- R123, R127: the PAU grants the head of the group now, and it is of the kind. -/
def State.granting (s : State) (g : GroupNo) (kind : QueueKind) : Option Entry :=
  match s.winner with
  | some (h, e) => if h = g ∧ e.kind = kind then some e else none
  | none => none

/-- R42: LOW_POWER_GRANT, when every condition of R123 holds for the group's head. -/
def execLowPowerGrant (g : GroupNo) (s : State) : Out :=
  match s.granting g .lowPower with
  | some e => act s fun s => s.grantLow g e.cage
  | none => .next s

/-- R79: HIGH_POWER_GRANT, when every condition of R123 holds for the group's head. -/
def execHighPowerGrant (g : GroupNo) (s : State) : Out :=
  match s.granting g .highPower with
  | some e => act s fun s => s.grantHigh g e.cage e.requested
  | none => .next s

/-- R126: SPACING_BOUND_REACHED: the waiting heads are tested. -/
def execSpacingBoundReached (s : State) : Out := event s State.settle

/-- R125: INRUSH_RECORD_LAPSE, which goes on during a reset. -/
def execInrushRecordLapse (r : Option GroupNo) (s : State) : Out :=
  .next
    (match r with
     | none => { s with deviceLast := s.deviceLast.lapse s.now }
     | some g => s.modGroup g fun x => { x with last := x.last.lapse s.now })

/-- R108: the cage is FAULTED with GROUP_FEED. -/
def Ctx.feedFaulted (q : Ctx) : Bool := decide (q.state = .faulted) && decide (q.reason = some .groupFeed)

/-- R110, R128: the feed-clear timer of a GROUP_FEED cage stops. -/
def State.stopFeedClear (s : State) (c : CageNo) : State :=
  if (s.cage c).seq.feedFaulted then
    s.modSeq c fun q => { q with stage := .feedActive, timers := { q.timers with feedClear := none } }
  else s

/-- R110, R129: the feed-clear timer of a GROUP_FEED cage starts. -/
def State.startFeedClear (s : State) (c : CageNo) : State :=
  if (s.cage c).seq.feedFaulted then
    s.modSeq c fun q =>
      { q with
        stage := .feedClearing
        timers := { q.timers with feedClear := some ⟨s.now, feedClearTime⟩ } }
  else s

/-- R106, R128: what a feed fault does to one cage: a powered one is cut, a GROUP_FEED one stops its timer. -/
def State.feedFault (s : State) (c : CageNo) : State :=
  if (s.cage c).ciu.lines.rail then s.cut c else s.stopFeedClear c

/-- R128: the group's level becomes ACTIVE: grants are suspended, and each cage takes the report, the lowest cage first
(DESIGN CHOICE, log entry 53: R106 and R128 give no order among the cages of one cut). -/
def State.feedActivates (s : State) (g : GroupNo) : State :=
  (s.modGroup g fun x => { x with feedActive := true }).each (cagesOf g) fun c s => s.feedFault c

/-- R129: the group's level becomes INACTIVE: each GROUP_FEED cage starts its feed-clear timer. -/
def State.feedClears (s : State) (g : GroupNo) : State :=
  (s.modGroup g fun x => { x with feedActive := false }).each (cagesOf g) fun c s => s.startFeedClear c

/-- R128, R129: a change of the input's level; during a reset only the pin moves (R131). -/
def feedChange (g : GroupNo) (level : Bool) (f : State → State) (s : State) : Out :=
  if (s.group g).feedPin = level then .next s
  else
    let s1 := s.modGroup g fun x => { x with feedPin := level }
    if s.inReset then .next s1 else .next (f s1).settle

/-- R128: GROUP_FEED_FAULT_ACTIVE. -/
def execGroupFeedFaultActive (g : GroupNo) (s : State) : Out := feedChange g true (fun s => s.feedActivates g) s

/-- R129: GROUP_FEED_FAULT_INACTIVE. -/
def execGroupFeedFaultInactive (g : GroupNo) (s : State) : Out := feedChange g false (fun s => s.feedClears g) s

end Sys2Proof.Machine
end

