-- ==== Sys2Proof/Machine/Sequence.lean ====
section
/-! DEFINITION. The sequencer's timed events: bring-up slots (R44 to R46), the power-good limits (R45, R187), the poll,
init, decision, settle, host-side and link timers (R47 to R50, R56, R83, R86, R93, R189), the blanking window (R95),
drain slots (R101, R102) and the feed-clear timer (R110). An expiry is taken when its timer runs, its time has come and
the cage is in a state the timer belongs to; otherwise nothing happens. -/

namespace Sys2Proof.Machine

/-! ### Bring-up slots (R44 to R46) -/

/-- R46: the slot at which POWERING ends. -/
def SlotTable.last (t : SlotTable) : Nat := max t.bus t.ready

/-- R44: the slot holds a step of the table. -/
def SlotTable.holds (t : SlotTable) (n : Nat) : Bool :=
  decide (t.rail = n) || decide (t.bus = n) || decide (t.reset = n) || decide (t.ready = n)

/-- R62: the stage of a bring-up slot. -/
def SlotTable.stageAt (t : SlotTable) (n : Nat) : Stage :=
  if t.ready ≤ n ∧ n < t.bus then .busWait else .slot n

/-- R44: the READY_POLL step starts the init timer. -/
def State.startInit (s : State) (c : CageNo) : State :=
  let len := (s.profile c).initTimeout
  s.modTimers c fun t => { t with init := some ⟨s.now, len⟩ }

/-- R44: the steps of one slot, in the order of the table. -/
def State.slotSteps (s : State) (c : CageNo) (n : Nat) : State :=
  let t := (s.cage c).seq.drainTable
  let s1 := if t.bus = n then s.connect c else s
  let s2 := if t.reset = n then s1.resetRelease c else s1
  if t.ready = n then s2.startInit c else s2

/-- R46: POWERING ends: the cage enters IDENTIFY at FIND, the init timer running. -/
def State.endPowering (s : State) (c : CageNo) : State :=
  ((s.enter c .identify .find).modTimers c fun t => { t with slot := none, pgLimit := none }).startIdentPoll c

/-- R44, R46: a bring-up slot starts, and ends POWERING if it is the last. -/
def State.startSlot (s : State) (c : CageNo) (n : Nat) : State :=
  let t := (s.cage c).seq.drainTable
  let s1 := s.modSeq c fun q =>
    { q with
      slot := n
      stage := t.stageAt n
      topSlot := if t.holds n then n else q.topSlot
      timers := { q.timers with slot := some ⟨s.now, t.len⟩ } }
  let s2 := s1.slotSteps c n
  if t.last ≤ n then s2.endPowering c else s2

/-- R45: the slot length has passed: the next slot starts, or slot 1 waits for power-good in PG_WAIT. -/
def State.slotOver (s : State) (c : CageNo) : State :=
  let q := (s.cage c).seq
  if q.slot = 0 ∧ q.pgHeld = false then s.modSeq c fun q => { q with stage := .pgWait }
  else s.startSlot c (q.slot + 1)

/-- R45, R187, R189: the sequencer takes POWER_GOOD. -/
def State.powerGood (s : State) (c : CageNo) : State :=
  let q := (s.cage c).seq
  let held := s.modSeq c fun q => { q with pgHeld := true, timers := { q.timers with pgLimit := none } }
  match q.state with
  | .powering =>
    if q.slot = 0 ∧ dueTimer q.timers.slot s.now = true then held.startSlot c 1 else held
  | .adopting => if q.adopted && !q.pgHeld then held.startReading c else held
  | _ => s

/-- R187: the adoption limit has expired: RAIL_FAIL is taken in the state the cage has reached. -/
def State.adoptionLimit (s : State) (c : CageNo) : State :=
  (s.modTimers c fun t => { t with pgLimit := none }).powerFault c .railFail

/-! ### Timers of the restore -/

/-- R47, R49, R83, R189: the read that the poll timer stood for is posted. -/
def State.pollDue (s : State) (c : CageNo) : State :=
  (s.modTimers c fun t => { t with poll := none }).postSeq c (s.cage c).seq.access

/-- R56: the decision window expires and the profile's fallback applies. -/
def State.windowOver (s : State) (c : CageNo) : State :=
  let s1 := s.modTimers c fun t => { t with window := none }
  match (s.profile c).fallback with
  | .proceed => s1.proceed c .restore .fallback
  | .park => s1.parkFromDecide c .windowExpired (some .fallback)

/-- R86: the host-side window expires. -/
def State.hostSideOver (s : State) (c : CageNo) : State :=
  (s.writeOpen c fun o => { o with hostSideTimeout := true }).enterDatapath c

/-! ### Guards -/

/-- The cage is in a state and one of its timers has expired. -/
def State.expired (s : State) (c : CageNo) (inState : SeqState → Bool) (t : Timers → Option Timer) : Bool :=
  inState (s.cage c).seq.state && dueTimer (t (s.cage c).seq.timers) s.now

/-- An expiry taken when its guard holds. -/
def expiry (s : State) (guard : Bool) (f : State → State) : Out := if guard then act s f else .next s

/-! ### Meanings -/

/-- R44, R45: BRING_UP_SLOT_START. -/
def execBringUpSlotStart (c : CageNo) (s : State) : Out :=
  expiry s (s.expired c (fun x => decide (x = .powering)) Timers.slot) fun s => s.slotOver c

/-- R45: POWER_GOOD_LIMIT_EXPIRY. -/
def execPowerGoodLimitExpiry (c : CageNo) (s : State) : Out :=
  expiry s (s.expired c (fun x => decide (x = .powering)) Timers.pgLimit) fun s => s.powerFault c .railFail

/-- R187: ADOPTION_PG_LIMIT_EXPIRY. -/
def execAdoptionPgLimitExpiry (c : CageNo) (s : State) : Out :=
  expiry s (s.expired c (fun x => decide (x ≠ .powering)) Timers.pgLimit) fun s => s.adoptionLimit c

/-- R47, R49, R83, R189: SEQ_POLL_TIMER_EXPIRY. -/
def execSeqPollTimerExpiry (c : CageNo) (s : State) : Out :=
  expiry s (s.expired c (fun _ => true) Timers.poll) fun s => s.pollDue c

/-- R46, R50: the states the init timer of a bring-up runs in. -/
def SeqState.initRuns : SeqState → Bool
  | .powering => true
  | .identify => true
  | _ => false

/-- R50, R46: INIT_TIMER_EXPIRY. -/
def execInitTimerExpiry (c : CageNo) (s : State) : Out :=
  expiry s (s.expired c SeqState.initRuns Timers.init) fun s => s.moduleFault c .notReady

/-- R189: ADOPTION_INIT_TIMEOUT. -/
def execAdoptionInitTimeout (c : CageNo) (s : State) : Out :=
  expiry s (s.expired c (fun x => decide (x = .adopting)) Timers.init) fun s => s.moduleFault c .notReady

/-- R56: DECISION_WINDOW_EXPIRY. -/
def execDecisionWindowExpiry (c : CageNo) (s : State) : Out :=
  expiry s (s.expired c (fun x => decide (x = .decide)) Timers.window) fun s => s.windowOver c

/-- R83: HP_SETTLE_TIMEOUT. -/
def execHpSettleTimeout (c : CageNo) (s : State) : Out :=
  expiry s (s.expired c (fun x => decide (x = .configure)) Timers.settle) fun s => s.moduleFault c .hpTimeout

/-- R86: HOST_SIDE_WINDOW_EXPIRY. -/
def execHostSideWindowExpiry (c : CageNo) (s : State) : Out :=
  expiry s (s.expired c (fun x => decide (x = .configure)) Timers.hostSide) fun s => s.hostSideOver c

/-- R93, R190: LINK_TIMER_EXPIRY. -/
def execLinkTimerExpiry (c : CageNo) (s : State) : Out :=
  expiry s (s.expired c (fun x => decide (x = .linkWait)) Timers.link) fun s => s.linkExpired c

/-- R95: the blanking window has reached its stop. -/
def Blank.over (b : Blank) (now : Stamp) : Bool := decide (b.stop ≤ since now b.datapath)

/-- R95: BLANKING_WINDOW_END. -/
def execBlankingWindowEnd (c : CageNo) (s : State) : Out :=
  event s fun s =>
    match (s.cage c).seq.blank with
    | some b => if b.over s.now then s.modSeq c fun q => { q with blank := none } else s
    | none => s

/-- R101: a slot of the drain has lasted its length and its disconnection is made. -/
def State.drainSlotOver (s : State) (c : CageNo) : Bool :=
  s.expired c (fun x => decide (x = .draining)) Timers.slot && !(s.cage c).seq.busRelease

/-- R101: DRAIN_SLOT_START, for a slot above 0. -/
def execDrainSlotStart (c : CageNo) (s : State) : Out :=
  expiry s (s.drainSlotOver c && decide (0 < (s.cage c).seq.slot)) fun s => s.nextDrainSlot c

/-- R102: DRAIN_END, when slot 0 has lasted its length. -/
def execDrainEnd (c : CageNo) (s : State) : Out :=
  expiry s (s.drainSlotOver c && decide ((s.cage c).seq.slot = 0)) fun s => s.endDrain c

/-- R110: FEED_CLEAR_TIMER_EXPIRY. -/
def execFeedClearTimerExpiry (c : CageNo) (s : State) : Out :=
  expiry s (s.expired c (fun x => decide (x = .faulted)) Timers.feedClear) fun s => s.readmit c

end Sys2Proof.Machine
end

