-- ==== Sys2Proof/Machine/Monitor.lean ====
section
/-! DEFINITION. The events of the Rail Monitor (R132 to R142) and of the Link Status Receiver (R89, R90). -/

namespace Sys2Proof.Machine

/-! ### The scan (R132, R133) -/

/-- R132: the cage after a cage in the scan. -/
def nextCage (c : CageNo) : CageNo := ⟨(c.val + 1) % 32, by omega⟩

/-- R132, R133: the scan goes on to the next cage, whose rail enable level is taken as its voltage conversion starts. -/
def State.advanceScan (s : State) : State :=
  ({ s with scanCage := nextCage s.scanCage } : State).modCage (nextCage s.scanCage) fun k =>
    { k with rlm := { k.rlm with onPair := k.ciu.lines.rail } }

/-- R132: a completed pair becomes the cage's latest values. -/
def Rlm.latest (r : Rlm) (vc ic : BitVec 10) : Rlm :=
  { r with vc := some vc, ic := some ic, power := some (pairPower vc ic) }

/-- R133, R142: an evaluated pair: the judgement, then POWER_GOOD and the fault report handed to the sequencer. -/
def State.evaluatePair (s : State) (c : CageNo) (vc ic : BitVec 10) : State :=
  let j := (s.cage c).rlm.judge vc (pairPower vc ic) (s.profile c).overdraw
  let s1 := s.modRlm c fun _ => j.rlm
  let s2 := if j.good then s1.powerGood c else s1
  match j.fault with
  | some r => s2.powerFault c r
  | none => s2

/-- R132, R133: the pair of the cage at which the scan stands completes. -/
def State.pairDone (s : State) (vc ic : BitVec 10) : State :=
  let c := s.scanCage
  let s1 := s.modRlm c fun r => r.latest vc ic
  (if (s.cage c).rlm.onPair && (s.cage c).ciu.lines.rail then s1.evaluatePair c vc ic else s1).advanceScan

/-- R138: the fall hold in ms. -/
def fallHold : Nat := 50

/-- R138: a pending basis that is due becomes the basis. -/
def Rlm.basisDue (r : Rlm) (now : Stamp) : Rlm :=
  match r.pending with
  | some p => if fallHold ≤ since now p.since then { r with basis := some p.value, pending := none } else r
  | none => r

/-- R133: PAIR_COMPLETE. -/
def execPairComplete (vc ic : BitVec 10) (s : State) : Out := act s fun s => s.pairDone vc ic

/-- R138: PENDING_BASIS_DUE. -/
def execPendingBasisDue (c : CageNo) (s : State) : Out := event s fun s => s.modRlm c fun r => r.basisDue s.now

/-! ### The link stream (R89, R90) -/

/-- R89: the bits of a frame, the first for stream index 0. -/
def frameBits (bits : List Bool) : BitVec 256 :=
  BitVec.ofNat 256 (bits.foldr (fun b n => (if b then 1 else 0) + 2 * n) 0)

/-- R90: the debounce of every slot in LIVE: it takes the bit on which the new and the previous frame agree. -/
def debounceSlots (accepted previous new : BitVec 256) : BitVec 256 :=
  (new &&& previous) ||| (accepted &&& (new ^^^ previous))

/-- R91: one of the cage's used slots differs between two accepted values. -/
def State.slotsChanged (s : State) (a b : BitVec 256) (c : CageNo) : Bool :=
  (usedSlots (s.laneCount c) ((s.cage c).image.breakout.getD 1)).any fun k =>
    a.getLsbD (streamIndex c k) != b.getLsbD (streamIndex c k)

/-- R90: a valid frame in STALE: every slot is set from it, the stream is LIVE, STREAM_BACK is posted, and every cage is
told, lowest first (log entry 46). -/
def State.frameStale (s : State) (new : BitVec 256) : State :=
  let l := { s.lsr with live := true, accepted := some new, previous := some new, lastValid := some s.now }
  let s1 := { s with lsr := l }
  (s1.postDevice .streamBack).each allCages fun c s => s.evalLink c

/-- R90: a valid frame in LIVE. The changed cages are told lowest first (log entry 46). -/
def State.frameLive (s : State) (new : BitVec 256) : State :=
  let old := s.lsr.accepted.getD 0
  let acc := debounceSlots old (s.lsr.previous.getD new) new
  let l := { s.lsr with accepted := some acc, previous := some new, lastValid := some s.now }
  let s1 := { s with lsr := l }
  s1.each (allCages.filter fun c => s.slotsChanged old acc c) fun c s => s.evalLink c

/-- R89, R90: a run of bits closed by a marker: valid when it holds exactly 256 bits, discarded otherwise. -/
def State.frameClosed (s : State) (run : List Bool) : State :=
  if run.length = 256 then
    if s.lsr.live then s.frameLive (frameBits run) else s.frameStale (frameBits run)
  else s

/-- R89: a start marker closes the run before it, if one was in reception, and opens the next. -/
def State.marker (s : State) (bits : List Bool) : State :=
  let s1 := { s with lsr := { s.lsr with reception := some [] } }
  match s.lsr.reception with
  | none => s1
  | some run => s1.frameClosed (run ++ bits)

/-- R90: the stale limit in ms. -/
def staleTime : Nat := 50

/-- R90: the stale limit has been reached in LIVE. -/
def Lsr.staleDue (l : Lsr) (now : Stamp) : Bool :=
  l.live &&
    match l.lastValid with
    | some t => decide (staleTime ≤ since now t)
    | none => false

/-- R90: the stream goes STALE: every slot UNKNOWN, STREAM_LOST posted, every cage told, lowest first (log entry 46). -/
def State.streamLost (s : State) : State :=
  let l := { s.lsr with live := false, accepted := none, previous := none }
  let s1 := { s with lsr := l }
  (s1.postDevice .streamLost).each allCages fun c s => s.evalLink c

/-- R89, R90: LINK_STREAM_FRAME: the given bits and then a start marker arrive. -/
def execLinkStreamFrame (bits : List Bool) (s : State) : Out := act s fun s => s.marker bits

/-- R90: STREAM_STALE_TIMEOUT. -/
def execStreamStaleTimeout (s : State) : Out := expiry s (s.lsr.staleDue s.now) State.streamLost

/-- R89: LINK_STREAM_RUN_DISCARD: the run in reception has grown beyond 256 bits. -/
def execLinkStreamRunDiscard (s : State) : Out :=
  event s fun s => { s with lsr := { s.lsr with reception := none } }

end Sys2Proof.Machine
end

