-- ==== Sys2Proof/Machine/Bus.lean ====
section
/-! DEFINITION. The events of the module bus engines (R149 to R155) and of the poll schedule (R168). -/

namespace Sys2Proof.Machine

/-- R150: BUS_TRANSACTION_COMPLETE. -/
def execBusTransactionComplete (e : EngineNo) (data : List Byte) (s : State) : Out :=
  act s fun s => s.transactionDone e data

/-- R152: ADDRESS_NACK. -/
def execAddressNack (e : EngineNo) (s : State) : Out := act s fun s => s.addressNacked e

/-- R152: NACK_RETRY_EXPIRY. -/
def execNackRetryExpiry (e : EngineNo) (s : State) : Out := act s fun s => s.retryBurst e

/-- R152: DATA_NACK. -/
def execDataNack (e : EngineNo) (s : State) : Out := act s fun s => s.dataNacked e

/-- R153: CLOCK_HELD_LOW. -/
def execClockHeldLow (e : EngineNo) (s : State) : Out := event s fun s => s.clockLow e

/-- R153: CLOCK_RELEASED. -/
def execClockReleased (e : EngineNo) (s : State) : Out := event s fun s => s.clockFree e

/-- R153: STUCK_LIMIT_EXPIRY. -/
def execStuckLimitExpiry (e : EngineNo) (s : State) : Out := act s fun s => s.stick e

/-- R151: HOLD_OFF_EXPIRY. -/
def execHoldOffExpiry (c : CageNo) (s : State) : Out := act s fun s => s.holdOver c

/-- R154: ITEM_END_AT_BYTE_BOUNDARY. -/
def execItemEndAtByteBoundary (e : EngineNo) (s : State) : Out := act s fun s => s.endAtBoundary e

/-- R168: the next poll time advances by the poll interval in force. -/
def Timer.advance (t : Timer) (interval : Nat) : Timer := ⟨t.deadline, interval⟩

/-- R168: the next poll time of a cage is reached. -/
def State.pollTimeReached (s : State) (c : CageNo) : State :=
  let interval := s.settings.pollInterval
  (s.postPoll c).modCage c fun k => { k with nextPoll := k.nextPoll.map fun t => t.advance interval }

/-- R168: NEXT_POLL_TIME_REACHED. -/
def execNextPollTimeReached (c : CageNo) (s : State) : Out :=
  expiry s (dueTimer (s.cage c).nextPoll s.now) fun s => s.pollTimeReached c

end Sys2Proof.Machine
end

