-- ==== Sys2Proof/Machine/Resets.lean ====
section
/-! DEFINITION. The three resets (R186): power-on, the assertion and the release of the reset pin, and the restart that
is both in one step; with the values each block takes (R5, R11, R12, R40, R89, R131, R143, R158, R166, R173, R174, R182,
R184, R187). -/

namespace Sys2Proof.Machine

/-! ### Power-on -/

/-- R186: the part after the application of supply: every block at its power-on values, the input lines at the levels
the outside holds them at. The commands that wait are the outside's and stay. -/
def State.poweredOn (s : State) : State :=
  { State.reset with
    cages := onEach (fun k => powerOnCage k.ciu.presentPin k.ciu.attentionPin) s.cages
    groups := onEach (fun g => powerOnGroup g.feedPin) s.groups
    pending := s.pending }

/-! ### Assertion -/

/-- R12, R14: what the assertion does to a cage's CIU part. The output lines are held (R5). -/
def Ciu.assertReset (k : Ciu) : Ciu :=
  { k with presence := .unsettled, candidate := none, settle := none, latch := none }

/-- R143: what the assertion does to the RLM: windows empty, latest values absent. -/
def Rlm.assertReset (r : Rlm) : Rlm := { r with window := [], vc := none, ic := none, power := none }

/-- R158: what the assertion does to the engine's records of a cage. -/
def Bus.assertReset (b : Bus) : Bus := { b with shadow := none, recovery := false }

/-- R186: what the assertion does to a cage. The outage record and the profile are retained (R18, R39). -/
def Cage.assertReset (k : Cage) : Cage :=
  { k with
    ciu := k.ciu.assertReset
    seq := clearCtx .empty
    rlm := k.rlm.assertReset
    bus := k.bus.assertReset
    image := emptyImage
    nextPoll := none }

/-- R186: the assertion of the reset pin, and the first half of a RESTART. -/
def State.assertReset (s : State) : State :=
  { s with
    cages := onEach Cage.assertReset s.cages
    groups := onEach (fun g => { g with queue := [] }) s.groups
    engines := Vector.replicate 4 idleEngine
    lsr := resetLsr
    portA := resetPort
    portB := resetPort }

/-! ### Release -/

/-- R138: the target of the limit basis from the release of a reset, the largest declared grade power. -/
def resetBasis : Nat := 18000

/-- R143: the RLM of a cage at the release, by its rail enable level. -/
def Rlm.releaseReset (r : Rlm) (rail : Bool) : Rlm :=
  { r with
    window := []
    pg := if rail then .notYet else .off
    basis := if rail then some resetBasis else none
    pending := none
    run := 0
    reported := false
    reset18 := rail
    onPair := rail }

/-- R158: the engine's records of a cage at the release. -/
def Bus.releaseReset (rail : Bool) : Bus := ⟨if rail then .connected else .disconnected, none, none, false⟩

/-- R187: the sequencer context at the release: ADOPTING, with the power-good limit for a rail that is on. -/
def adoptingCtx (rail : Bool) (now : Stamp) : Ctx :=
  { clearCtx .adopting with timers := { pgLimit := if rail then some ⟨now, pgLimit⟩ else none } }

/-- R131: the charge of a cage at the release. -/
def releaseCharge (rail : Bool) : Nat := if rail then lowPowerCharge else 0

/-- R186: a cage at the release; its settle interval starts (R12), and it is not in the polled set (R168). -/
def Cage.releaseReset (k : Cage) (now : Stamp) : Cage :=
  { k with
    ciu := { k.ciu with settle := some now }
    seq := adoptingCtx k.ciu.lines.rail now
    charge := releaseCharge k.ciu.lines.rail
    rlm := k.rlm.releaseReset k.ciu.lines.rail
    bus := Bus.releaseReset k.ciu.lines.rail
    nextPoll := none }

/-- R117: the sum of the charges of the cages of a group. -/
def State.chargeSum (s : State) (g : GroupNo) : Nat := ((cagesOf g).map fun c => (s.cage c).charge).sum

/-- R131: the committed charge and the feed-fault level of a group at the release. -/
def State.releaseGroup (s : State) (g : GroupNo) : State :=
  s.modGroup g fun x => { x with committed := s.chargeSum g, feedActive := x.feedPin }

/-- R131: the cages of a group whose feed-fault level is ACTIVE at the release are cut, the lowest cage first and, by
`releaseReset`, the groups from 0 to 7 (DESIGN CHOICE, log entry 53: R131 gives no order among them). -/
def State.releaseCuts (s : State) (g : GroupNo) : State :=
  if (s.group g).feedActive then
    s.each (cagesOf g) fun c s => if (s.cage c).ciu.lines.rail then s.cut c else s
  else s

/-- R186: the release of the reset pin, and the second half of a RESTART. RESTARTED is the first posting; OVERCOMMIT is
judged before the groups whose feed is in fault are cut, in the order in which R131 lists the two (log entry 38). -/
def State.releaseReset (s : State) (cause : ResetCause) : State :=
  let s1 := { s with
    cause := cause
    releaseTime := s.now
    scanCage := 0
    cages := onEach (fun (k : Cage) => k.releaseReset s.now) s.cages }
  let s2 := allGroups.foldl State.releaseGroup (s1.postDevice .restarted)
  let s3 := allGroups.foldl State.overcommit s2
  allGroups.foldl State.releaseCuts s3

/-- R186: a RESTART is the assertion and the release in one step. -/
def State.restarted (s : State) : State := s.assertReset.releaseReset .restart

/-! ### Meanings -/

/-- R186: POWER_ON. -/
def execPowerOn (s : State) : Out := .next s.poweredOn

/-- R186: RESET_PIN_ASSERT. -/
def execResetPinAssert (s : State) : Out :=
  .next (if s.inReset then s else { s.assertReset with inReset := true })

/-- R186: RESET_PIN_RELEASE. -/
def execResetPinRelease (s : State) : Out :=
  .next (if s.inReset then (({ s with inReset := false }).releaseReset .resetPin).settle else s)

end Sys2Proof.Machine
end

