-- ==== Sys2Proof/Machine/Flags.lean ====
section
/-! DEFINITION. The codes, marks and flag bytes of the records that cross the ports: the enumeration table (R185), the
statuses (R179), the presence maps and the flag bytes (R185), and the attention line (R184). -/

namespace Sys2Proof.Machine

/-! ### Numbers (R185) -/

/-- R185: a number in one byte. -/
def u8 (n : Nat) : List Byte := [BitVec.ofNat 8 n]

/-- R185: a number in two bytes, first byte most significant. -/
def u16 (n : Nat) : List Byte := [BitVec.ofNat 8 (n / 256), BitVec.ofNat 8 n]

/-- R185: a number in four bytes, first byte most significant. -/
def u32 (n : Nat) : List Byte :=
  [BitVec.ofNat 8 (n / 16777216), BitVec.ofNat 8 (n / 65536), BitVec.ofNat 8 (n / 256), BitVec.ofNat 8 n]

/-- R185: a time stamp in four bytes. -/
def stampBytes (t : Stamp) : List Byte := u32 t.toNat

/-- A list of bytes of a given length: cut off or filled up with 0 at its end. -/
def fill (n : Nat) (l : List Byte) : List Byte := (l ++ List.replicate n 0).take n

/-- R185: a yes or no, an absent or present mark. -/
def mark (b : Bool) : List Byte := if b then [1] else [0]

/-- R185: a presence map of four bytes; the head of the list is P0. -/
def presenceMap (l : List Bool) : List Byte := u32 (l.foldr (fun b n => (if b then 1 else 0) + 2 * n) 0)

/-- R185: the flags of a byte, the head of the list being bit 0. -/
def flagByte (l : List Bool) : List Byte := [laneSet l]

/-- R185: an optional field of `n` bytes; an absent one reads 0. -/
def optBytes {α : Type} (n : Nat) (f : α → List Byte) (o : Option α) : List Byte :=
  match o with
  | some a => fill n (f a)
  | none => List.replicate n 0

/-! ### Enumeration codes (R185) -/

/-- R185: the codes of the sequencer states. -/
def SeqState.code : SeqState → Nat
  | .empty => 0
  | .admitWait => 1
  | .powering => 2
  | .identify => 3
  | .decide => 4
  | .hpWait => 5
  | .configure => 6
  | .linkWait => 7
  | .inService => 8
  | .degraded => 9
  | .parked => 10
  | .faulted => 11
  | .draining => 12
  | .adopting => 13

/-- R185: the codes of the stages. -/
def Stage.code : Stage → Nat
  | .none => 0
  | .slot n => 1 + n
  | .pgWait => 17
  | .busWait => 18
  | .find => 19
  | .ready => 20
  | .identity => 21
  | .window => 22
  | .noWindow => 23
  | .lowPowerStage => 24
  | .decideStage => 25
  | .identifyStage => 26
  | .hpStage => 27
  | .queued => 28
  | .hpEnable => 29
  | .hpSettle => 30
  | .laneMap => 31
  | .laneSettings => 32
  | .hostSide => 33
  | .datapathEnable => 34
  | .learning => 35
  | .module => 36
  | .power => 37
  | .feedActive => 38
  | .feedClearing => 39
  | .busRelease => 40
  | .hpDisable => 41

/-- R185: the codes of the reasons. -/
def Reason.code : Reason → Nat
  | .budget => 0
  | .noFieldMap => 1
  | .gradeLimit => 2
  | .breakoutUnsupported => 3
  | .windowExpired => 4
  | .master => 5
  | .railFail => 6
  | .overdraw => 7
  | .groupFeed => 8
  | .notReady => 9
  | .idRead => 10
  | .hpTimeout => 11
  | .configWrite => 12
  | .busStuck => 13
  | .linkFail => 14
  | .partialLink => 15
  | .streamLost => 16
  | .linkDown => 17

/-- R185: the codes of the match classes. -/
def MatchClass.code : MatchClass → Nat
  | .noProfile => 0
  | .sameUnit => 1
  | .sameType => 2
  | .newType => 3

/-- R185: the codes of the proceeding decisions. -/
def Decision.code : Decision → Nat
  | .restore => 0
  | .adoptNew => 1

/-- R185: the codes of the decision sources. -/
def Source.code : Source → Nat
  | .policy => 0
  | .portA => 1
  | .portB => 2
  | .fallback => 3
  | .adopted => 4

/-- R185: the codes of the results. -/
def Result.code : Result → Nat
  | .inProgress => 0
  | .inService => 1
  | .degraded => 2
  | .parked => 3
  | .faulted => 4

/-- R185: the codes of the link summaries. -/
def Summary.code : Summary → Nat
  | .allUp => 0
  | .someUp => 1
  | .noneUp => 2
  | .unknown => 3

/-- R185: the codes of the policies. -/
def Policy.code : Policy → Nat
  | .auto => 0
  | .confirm => 1
  | .manual => 2

/-- R185: the codes of the fallbacks. -/
def Fallback.code : Fallback → Nat
  | .proceed => 0
  | .park => 1

/-- R185: the codes of the tx controls. -/
def TxControl.code : TxControl → Nat
  | .follow => 0
  | .squelch => 1
  | .forceOn => 2

/-- R185: the codes of the accepted presence. -/
def Presence.code : Presence → Nat
  | .absent => 0
  | .present => 1
  | .unsettled => 2

/-- R185: the codes of the segment states. -/
def Segment.code : Segment → Nat
  | .disconnected => 0
  | .connected => 1
  | .stuck => 2

/-- R185: the codes of the drain destinations. -/
def Dest.code : Dest → Nat
  | .empty => 0
  | .admitWait => 1
  | .faulted => 2

/-- R185: the codes of the image states. -/
def ImageState.code : ImageState → Nat
  | .empty => 0
  | .identifying => 1
  | .valid => 2
  | .stale => 3

/-- R185: the codes of the power-good states. -/
def PowerGood.code : PowerGood → Nat
  | .off => 0
  | .notYet => 1
  | .good => 2
  | .lost => 3

/-- R185: the codes of the queue kinds. -/
def QueueKind.code : QueueKind → Nat
  | .lowPower => 0
  | .highPower => 1

/-- R185: the inrush mark of a record. -/
def Inrush.markCode : Inrush → Nat
  | .none => 0
  | .active _ => 1
  | .lapsed _ => 2

/-- R185: the time of an inrush record; one whose mark is NONE reads 0. -/
def Inrush.time : Inrush → Stamp
  | .none => 0
  | .active t => t
  | .lapsed t => t

/-- R123: why a group's head waits. -/
inductive WaitCause where
  | none
  | feed
  | budget
  | groupSpacing
  | deviceSpacing
deriving DecidableEq, Repr

/-- R185: the codes of the wait causes. -/
def WaitCause.code : WaitCause → Nat
  | .none => 0
  | .feed => 1
  | .budget => 2
  | .groupSpacing => 3
  | .deviceSpacing => 4

/-- R185: the codes of the reset causes. -/
def ResetCause.code : ResetCause → Nat
  | .powerOn => 0
  | .resetPin => 1
  | .restart => 2

/-- R179: the codes of the reply statuses. -/
def ReplyStatus.code : ReplyStatus → Nat
  | .ok => 0
  | .pending => 1
  | .idle => 2
  | .clamped => 3
  | .stale => 4
  | .collision => 5
  | .notWaiting => 6
  | .noProfile => 7
  | .notPermitted => 8
  | .badRequest => 9
  | .badLength => 10
  | .badCage => 11
  | .invalid => 12
  | .state => 13
  | .absent => 14
  | .noResponse => 15
  | .busStuck => 16
  | .duplicate => 17

/-! ### The attention line (R184) -/

/-- R184: an entry holds a kind that is not masked. -/
def AttEntry.drives (a : AttEntry) (cageMask : BitVec 16) (deviceMask : Byte) : Bool :=
  match a.who with
  | some _ => decide (a.kinds &&& ~~~cageMask ≠ 0)
  | none => decide (a.kinds &&& ~~~(deviceMask.setWidth 16) ≠ 0)

/-- R184: the port's attention line is driven low. -/
def State.attentionLine (s : State) (p : Port) : Bool :=
  (s.port p).list.any fun a => a.drives (s.port p).cageMask (s.port p).deviceMask

end Sys2Proof.Machine
end

