-- ==== Sys2Proof/Machine/Operands.lean ====
section
/-! DEFINITION. The records that cross the ports (R185): the profile record and its checks (R28, R29), the field-map
record and its checks (R162), the read replies, and the reply record a master reads (R174). -/

namespace Sys2Proof.Machine

/-! ### Reading bytes -/

/-- The byte at an offset of a record. -/
def byteAt (b : List Byte) (n : Nat) : Byte := b.getD n 0

/-- The one-byte number at an offset. -/
def num8 (b : List Byte) (n : Nat) : Nat := (byteAt b n).toNat

/-- R185: the two-byte number at an offset. -/
def num16 (b : List Byte) (n : Nat) : Nat := num8 b n * 256 + num8 b (n + 1)

/-- The bytes of a field of characters. -/
def chars (b : List Byte) (n len : Nat) : List Byte := (b.drop n).take len

/-- R185: a presence mark, 0 or 1. -/
def markOf (n : Nat) : Option Bool :=
  match n with
  | 0 => some false
  | 1 => some true
  | _ => none

/-! ### The profile record (R185, R28, R29) -/

/-- R185: the policy of a code. -/
def policyOf (n : Nat) : Option Policy :=
  match n with
  | 0 => some .auto
  | 1 => some .confirm
  | 2 => some .manual
  | _ => none

/-- R185: the fallback of a code. -/
def fallbackOf (n : Nat) : Option Fallback :=
  match n with
  | 0 => some .proceed
  | 1 => some .park
  | _ => none

/-- R185: the tx control of a code. -/
def txOf (n : Nat) : Option TxControl :=
  match n with
  | 0 => some .follow
  | 1 => some .squelch
  | 2 => some .forceOn
  | _ => none

/-- R19: a breakout is 1, 2, 4 or 8. -/
def breakoutField (n : Nat) : Option Nat := if n = 1 ∨ n = 2 ∨ n = 4 ∨ n = 8 then some n else none

/-- R19: the slot constraints, every slot from 0 to 15. -/
def SlotTable.legal (t : SlotTable) : Bool :=
  decide (t.rail = 0) && decide (1 ≤ t.bus) && decide (t.rail < t.reset) && decide (t.reset ≤ t.ready) &&
    decide (t.bus ≤ 15) && decide (t.reset ≤ 15) && decide (t.ready ≤ 15)

/-- R185: the lane entry at an offset of a profile record, unless its tx control is no value. -/
def laneEntryOf (b : List Byte) (n : Nat) : Option LaneEntry := do
  let tx ← txOf (num8 b (n + 3))
  pure ⟨(byteAt b n).toInt, num8 b (n + 1), num8 b (n + 2), tx⟩

/-- R185: the last unit of a profile record. -/
def lastUnitOf (b : List Byte) : LastUnit :=
  ⟨byteAt b 61, chars b 62 16, chars b 78 16, chars b 94 16, num8 b 110⟩

/-- R185: the tuned list of a profile record. -/
def tunedOf (b : List Byte) : List LanePair :=
  (List.range 8).map fun k => ⟨num8 b (112 + 2 * k), num8 b (113 + 2 * k)⟩

/-- R28 check 1: a profile record as written, its numbers not yet clamped; `none` for a record that breaks a
constraint. Its revision, valid and in-use fields are ignored on write. -/
def profileOf (b : List Byte) : Option Profile := do
  let policy ← policyOf (num8 b 4)
  let fallback ← fallbackOf (num8 b 6)
  let learn ← markOf (num8 b 9)
  let breakout ← breakoutField (num8 b 10)
  let slots : SlotTable := ⟨num8 b 11, num8 b 12, num8 b 13, num8 b 14, num8 b 15⟩
  let lanes ← (List.range 8).mapM fun k => laneEntryOf b (28 + 4 * k)
  let hasUnit ← markOf (num8 b 60)
  let hasTuned ← markOf (num8 b 111)
  if slots.legal && (hasUnit || !hasTuned) then
    some {
      valid := true
      revision := 0
      policy := policy
      window := num8 b 5
      fallback := fallback
      priority := num8 b 7
      maxGrade := num8 b 8
      learn := learn
      breakout := breakout
      slots := slots
      initTimeout := num16 b 16
      hpMargin := num16 b 18
      hostWindow := num8 b 20
      linkTimeout := num8 b 21
      retryLimit := num8 b 22
      blankStart := num16 b 24
      blankStop := num16 b 26
      overdraw := num8 b 23
      lanes := lanes
      lastUnit := if hasUnit then some (lastUnitOf b) else none
      tuned := if hasTuned then some (tunedOf b) else none }
  else none

/-- A number held to a range. -/
def clampNat (lo hi n : Nat) : Nat := max lo (min hi n)

/-- R29: a lane entry with its numbers held to their ranges. -/
def LaneEntry.clamp (e : LaneEntry) : LaneEntry :=
  { e with trim := max (-8) (min 7 e.trim), eq := min 15 e.eq, amp := min 3 e.amp }

/-- R29: a profile with every number held to its range. -/
def Profile.clamp (p : Profile) : Profile :=
  { p with
    window := clampNat 1 255 p.window
    priority := min 3 p.priority
    maxGrade := min 7 p.maxGrade
    slots := { p.slots with len := clampNat 1 16 p.slots.len }
    initTimeout := clampNat 100 10000 p.initTimeout
    hpMargin := min 10000 p.hpMargin
    hostWindow := clampNat 1 255 p.hostWindow
    linkTimeout := clampNat 1 255 p.linkTimeout
    retryLimit := min 7 p.retryLimit
    overdraw := min 31 p.overdraw
    lanes := p.lanes.map LaneEntry.clamp
    lastUnit := p.lastUnit.map fun u => { u with grade := min 15 u.grade }
    tuned := p.tuned.map fun l => l.map LanePair.clamp }

/-- R185: a lane entry as it is sent. -/
def LaneEntry.bytes (e : LaneEntry) : List Byte := [BitVec.ofInt 8 e.trim] ++ u8 e.eq ++ u8 e.amp ++ u8 e.tx.code

/-- R185: the last unit as it is sent. -/
def LastUnit.bytes (u : LastUnit) : List Byte :=
  [u.ident] ++ fill 16 u.vendor ++ fill 16 u.part ++ fill 16 u.serial ++ u8 u.grade

/-- R185: the profile record as it is read. -/
def Profile.bytes (p : Profile) (inUse : Bool) : List Byte :=
  u16 p.revision.toNat ++ mark p.valid ++ mark inUse ++ u8 p.policy.code ++ u8 p.window ++ u8 p.fallback.code ++
    u8 p.priority ++ u8 p.maxGrade ++ mark p.learn ++ u8 p.breakout ++
    u8 p.slots.rail ++ u8 p.slots.bus ++ u8 p.slots.reset ++ u8 p.slots.ready ++ u8 p.slots.len ++
    u16 p.initTimeout ++ u16 p.hpMargin ++ u8 p.hostWindow ++ u8 p.linkTimeout ++ u8 p.retryLimit ++
    u8 p.overdraw ++ u16 p.blankStart ++ u16 p.blankStop ++
    fill 32 ((List.range 8).flatMap fun k => (p.lane k).bytes) ++
    mark p.lastUnit.isSome ++ optBytes 50 LastUnit.bytes p.lastUnit ++
    mark p.tuned.isSome ++ optBytes 16 (fun l => l.flatMap fun e => u8 e.eq ++ u8 e.amp) p.tuned

/-! ### The field-map record (R185, R162) -/

/-- R185: the location at an offset of a field-map record. -/
def locOf (b : List Byte) (n : Nat) : Loc := ⟨byteAt b n, byteAt b (n + 1)⟩

/-- R185: the located bit at an offset of a field-map record. -/
def bitLocOf (b : List Byte) (n : Nat) : BitLoc := ⟨locOf b n, num8 b (n + 2)⟩

/-- R185: the optional location at an offset of a field-map record; no value for an invalid presence mark. -/
def optLocOf (b : List Byte) (n : Nat) : Option (Option Loc) :=
  (markOf (num8 b n)).map fun m => if m then some (locOf b (n + 1)) else none

/-- R162: a field-map record as written; `none` where a presence mark is no value. -/
def fieldMapOf (b : List Byte) : Option FieldMap := do
  let eqRec ← optLocOf b 26
  let maxAmp ← optLocOf b 29
  let squelch ← optLocOf b 38
  some {
    ident := byteAt b 0
    pageSel := byteAt b 1
    laneCount := num8 b 2
    burst := num8 b 3
    holdOff := num8 b 4
    vendor := locOf b 5
    part := locOf b 7
    serial := locOf b 9
    grade := locOf b 11
    ready := bitLocOf b 13
    hpDuration := locOf b 16
    breakouts := locOf b 18
    hpEnable := bitLocOf b 20
    hpDone := bitLocOf b 23
    eqRec := eqRec
    maxAmp := maxAmp
    eqControl := locOf b 32
    ampControl := locOf b 34
    txDisable := locOf b 36
    squelch := squelch
    breakoutSel := locOf b 41
    status := locOf b 43
    statusLen := num8 b 45
    lossPos := num8 b 46
    alertPos := num8 b 47
    alertBit := num8 b 48
    tempPos := num8 b 49 }

/-- R162: the lane count and the hold-off held to their ranges before check 2. -/
def FieldMap.clamp (m : FieldMap) : FieldMap :=
  { m with laneCount := clampNat 1 8 m.laneCount, holdOff := min 50 m.holdOff }

/-- R159: the located fields of a map with their widths. -/
def FieldMap.fields (m : FieldMap) : List (Loc × Nat) :=
  [(m.vendor, 16), (m.part, 16), (m.serial, 16), (m.grade, 1), (m.ready.loc, 1), (m.hpDuration, 1),
    (m.breakouts, 1), (m.hpEnable.loc, 1), (m.hpDone.loc, 1), (m.eqControl, m.laneCount),
    (m.ampControl, m.laneCount), (m.txDisable, 1), (m.breakoutSel, 1), (m.status, m.statusLen)] ++
    (m.eqRec.toList.map fun l => (l, 8)) ++ (m.maxAmp.toList.map fun l => (l, 1)) ++
    (m.squelch.toList.map fun l => (l, 1))

/-- R148: a range lies wholly in one window. -/
def inWindow (offset : Byte) (len : Nat) : Bool :=
  if offset.toNat < 128 then decide (offset.toNat + len ≤ 128) else decide (offset.toNat + len ≤ 256)

/-- R162: a lower-window range covers an offset. -/
def covers (offset : Byte) (len : Nat) (x : Byte) : Bool :=
  decide (offset.toNat ≤ x.toNat) && decide (x.toNat < offset.toNat + len)

/-- R162 check 2, R185: what a field-map record must meet. -/
def FieldMap.legal (m : FieldMap) : Bool :=
  (decide (m.burst = 4) || decide (m.burst = 8)) &&
    decide (1 ≤ m.pageSel.toNat) && decide (m.pageSel.toNat ≤ 127) &&
    (m.fields.all fun f => inWindow f.1.offset f.2 && !(decide (f.1.offset.toNat < 128) && covers f.1.offset f.2 m.pageSel)) &&
    decide (1 ≤ m.statusLen) && decide (m.statusLen ≤ 16) &&
    decide (m.lossPos < m.statusLen) && decide (m.alertPos < m.statusLen) && decide (m.tempPos + 1 < m.statusLen) &&
    decide (m.ready.bit ≤ 7) && decide (m.hpEnable.bit ≤ 7) && decide (m.hpDone.bit ≤ 7) && decide (m.alertBit ≤ 7)

/-- R185: a location as it is sent. -/
def Loc.bytes (l : Loc) : List Byte := [l.page, l.offset]

/-- R185: a located bit as it is sent. -/
def BitLoc.bytes (l : BitLoc) : List Byte := l.loc.bytes ++ u8 l.bit

/-- R185: an optional location as it is sent. -/
def optLocBytes (l : Option Loc) : List Byte := mark l.isSome ++ optBytes 2 Loc.bytes l

/-- R185: the field-map record as it is read. -/
def FieldMap.bytes (m : FieldMap) : List Byte :=
  [m.ident, m.pageSel] ++ u8 m.laneCount ++ u8 m.burst ++ u8 m.holdOff ++ m.vendor.bytes ++ m.part.bytes ++
    m.serial.bytes ++ m.grade.bytes ++ m.ready.bytes ++ m.hpDuration.bytes ++ m.breakouts.bytes ++
    m.hpEnable.bytes ++ m.hpDone.bytes ++ optLocBytes m.eqRec ++ optLocBytes m.maxAmp ++ m.eqControl.bytes ++
    m.ampControl.bytes ++ m.txDisable.bytes ++ optLocBytes m.squelch ++ m.breakoutSel.bytes ++ m.status.bytes ++
    u8 m.statusLen ++ u8 m.lossPos ++ u8 m.alertPos ++ u8 m.alertBit ++ u8 m.tempPos

/-! ### Read replies (R185) -/

/-- R185, R18: the READ_OUTAGE data, 27 bytes. -/
def Outage.bytes (o : Outage) : List Byte :=
  presenceMap [o.removal.isSome, o.insertion.isSome, o.duration.isSome, o.cls.isSome, o.source.isSome,
      o.result.isSome, o.restoreDur.isSome, o.retries.isSome, o.reason.isSome] ++
    optBytes 4 stampBytes o.removal ++ optBytes 4 stampBytes o.insertion ++ optBytes 4 u32 o.duration ++
    optBytes 1 (fun k => u8 k.code) o.cls ++ optBytes 1 (fun k => u8 k.code) o.source ++
    optBytes 1 (fun k => u8 k.code) o.result ++ optBytes 4 u32 o.restoreDur ++ optBytes 1 u8 o.retries ++
    [o.clamped] ++ optBytes 1 (fun k => u8 k.code) o.reason ++ flagByte [o.hostSideTimeout, o.tunedExpired]

/-- R130, R131: the position of a cage in its group's queue, 0 for the head. -/
def State.queuePosition (s : State) (c : CageNo) : Option Nat :=
  (s.group (groupOf c)).queue.findIdx? fun e => decide (e.cage = c)

/-- R91, R97: the link summary a READ_STATUS reports, for a cage whose image holds a breakout. -/
def State.reportedSummary (s : State) (c : CageNo) : Option Summary :=
  (s.cage c).image.breakout.map fun b => linkSummary s.lsr c (s.laneCount c) b

/-- R144: the overdraw limit with the margin of the latest evaluated round; before any round the field is a free
value (log entry 6). -/
def State.limitField (s : State) (c : CageNo) : Option (BitVec 16) :=
  (s.cage c).rlm.basis.map fun b =>
    match (s.cage c).rlm.margin with
    | some m => BitVec.ofNat 16 (overdrawLimit b m)
    | none => Config.unevaluatedLimit c s.now

/-- R185, R62, R97: the READ_STATUS data up to the drain destination. -/
def State.statusHead (s : State) (c : CageNo) : List Byte :=
  let k := s.cage c
  let q := k.seq
  u8 q.state.code ++ u8 q.stage.code ++ optBytes 1 (fun r => u8 r.code) q.reason ++ u8 k.ciu.presence.code ++
    flagByte [k.ciu.lines.rail, k.ciu.lines.reset, k.ciu.lines.lp] ++ u8 k.bus.seg.code ++ u16 k.charge ++
    optBytes 1 (fun x => u8 x.code) q.cls ++ optBytes 1 (fun x => u8 x.code) q.decision ++
    optBytes 1 (fun x => u8 x.code) q.source ++ u8 q.retry ++
    flagByte [q.reinsertion, q.learnPending, q.adopted, q.inUse, q.restoreNotice] ++
    optBytes 1 (fun x => u8 x.code) (s.reportedSummary c) ++ optBytes 1 (fun x => u8 x.code) q.lastKnown ++
    optBytes 1 u8 (s.queuePosition c) ++ optBytes 1 (fun x => u8 x.code) q.dest

/-- R185, R144: the READ_STATUS data of the rail monitor. -/
def State.statusRail (s : State) (c : CageNo) : List Byte :=
  let r := (s.cage c).rlm
  optBytes 2 (fun v => u16 v.toNat) r.vc ++ optBytes 2 (fun v => u16 v.toNat) r.ic ++ optBytes 2 u16 r.power ++
    u8 r.window.length ++ optBytes 2 u16 (averageOf r.window) ++ u8 r.pg.code ++ optBytes 2 u16 r.basis ++
    optBytes 2 (fun p => u16 p.value) r.pending ++
    optBytes 4 (fun p => stampBytes (p.since + BitVec.ofNat 32 fallHold)) r.pending ++
    optBytes 2 bytesOf16 (s.limitField c) ++ u8 r.run ++ mark r.reported

/-- R185, R62, R97, R144: the READ_STATUS data, 43 bytes. -/
def State.statusBytes (s : State) (c : CageNo) : List Byte :=
  let q := (s.cage c).seq
  let r := (s.cage c).rlm
  presenceMap [q.reason.isSome, q.cls.isSome, q.decision.isSome, q.source.isSome, (s.reportedSummary c).isSome,
      q.lastKnown.isSome, (s.queuePosition c).isSome, q.dest.isSome, r.vc.isSome, (averageOf r.window).isSome,
      r.basis.isSome, r.pending.isSome] ++ s.statusHead c ++ s.statusRail c

/-- R185, R167: the READ_IMAGE data of a section: the header with its presence map, and the section. -/
def Image.bytes (i : Image) (section_ : Nat) (present : List Bool) (data : List Byte) : List Byte :=
  presenceMap (i.identity.mapIndex.isSome :: present) ++ u8 i.state.code ++
    optBytes 1 (fun x => u8 x.val) i.identity.mapIndex ++ u8 section_ ++ data

/-- R185, R167: the READ_IMAGE data of section IDENTITY, 72 bytes. -/
def Image.identityBytes (i : Image) : List Byte :=
  let d := i.identity
  i.bytes 0
    [d.ident.isSome, d.laneCount.isSome, d.vendor.isSome, d.part.isSome, d.serial.isSome, d.grade.isSome,
      d.declared.isSome, d.hpDuration.isSome, d.breakouts.isSome, d.eqRec.isSome, d.maxAmp.isSome]
    (optBytes 1 (fun b => [b]) d.ident ++ optBytes 1 u8 d.laneCount ++ optBytes 16 id d.vendor ++
      optBytes 16 id d.part ++ optBytes 16 id d.serial ++ optBytes 1 u8 d.grade ++
      optBytes 3 (fun p => u16 p.1 ++ mark p.2) d.declared ++ optBytes 1 u8 d.hpDuration ++
      optBytes 1 (fun b => [b]) d.breakouts ++ optBytes 8 (fun l => l.flatMap u8) d.eqRec ++ optBytes 1 u8 d.maxAmp)

/-- R185, R77: one lane of the applied settings as it is sent. -/
def LaneApplied.bytes (l : LaneApplied) : List Byte :=
  optBytes 2 (fun p => u8 p.eq ++ u8 p.amp) l.pair ++ optBytes 1 (fun t => u8 t.code) l.tx ++
    flagByte [l.eqClamped, l.ampClamped, l.txClamped]

/-- R185, R77: the READ_IMAGE data of section APPLIED, 40 bytes. -/
def Image.appliedBytes (i : Image) : List Byte :=
  i.bytes 1
    ([i.breakout.isSome] ++ (i.lanes.map fun l => l.pair.isSome) ++ (i.lanes.map fun l => l.tx.isSome))
    (optBytes 1 u8 i.breakout ++ i.lanes.flatMap LaneApplied.bytes)

/-- R185, R165: the READ_IMAGE data of section STATUS, 16 bytes. -/
def Image.statusBytes (i : Image) : List Byte :=
  let t := i.status
  i.bytes 2 [t.temperature.isSome, t.laneLoss.isSome, t.alert.isSome, t.lastPoll.isSome]
    (optBytes 2 bytesOf16 t.temperature ++ optBytes 1 (fun b => [b]) t.laneLoss ++ optBytes 1 mark t.alert ++
      optBytes 4 stampBytes t.lastPoll ++ u8 t.failures)

/-- R123: the first condition that fails for a group's head. -/
def State.waitCause (s : State) (g : GroupNo) : WaitCause :=
  match (s.group g).queue with
  | [] => .none
  | e :: _ =>
    if (s.group g).feedActive then .feed
    else if s.budgetAllows g e = false then .budget
    else if s.groupAllows g = false then .groupSpacing
    else if s.deviceAllows = false then .deviceSpacing
    else .none

/-- R185: a queue entry as it is sent. -/
def Entry.bytes (e : Entry) : List Byte :=
  u8 e.cage.val ++ u8 e.kind.code ++ u16 e.requested ++ u8 e.priority ++ stampBytes e.time

/-- R185: the committed charge field; a charge that two bytes cannot carry reads a free value (log entry 5). -/
def committedBytes (n : Nat) : List Byte := if n < 65536 then u16 n else bytesOf16 (Config.committedField n)

/-- R185: a last inrush record as it is sent. -/
def Inrush.bytes (r : Inrush) : List Byte := stampBytes r.time ++ u8 r.markCode

/-- R185, R130: the READ_GROUP data, 65 bytes; the places of entries the queue has not read 0. -/
def State.groupBytes (s : State) (g : GroupNo) : List Byte :=
  let x := s.group g
  u16 x.budget ++ committedBytes x.committed ++ mark (decide (x.budget < x.committed)) ++
    ((cagesOf g).flatMap fun c => u16 (s.cage c).charge) ++ mark x.feedActive ++ mark x.feedActive ++
    x.last.bytes ++ s.deviceLast.bytes ++ u8 s.settings.groupSpacing ++ u8 s.settings.deviceSpacing ++
    u8 (s.waitCause g).code ++ u8 x.queue.length ++ fill 36 (x.queue.flatMap Entry.bytes)

/-- R181, R185: the READ_DEVICE data, 16 bytes. -/
def State.deviceBytes (s : State) : List Byte :=
  u16 0x7320 ++ [Config.siliconRevision] ++ u8 s.cause.code ++ u8 (if s.lsr.live then 0 else 1) ++
    stampBytes s.now ++ u8 s.settings.debounce ++ u8 s.settings.deviceSpacing ++ u8 s.settings.groupSpacing ++
    u16 s.settings.pollInterval ++ u16 s.settings.reseatWindow

/-- R183, R185: the FETCH_ATTENTION data of an entry with the number of entries that remain. -/
def AttEntry.bytes (a : AttEntry) (remaining : Nat) : List Byte :=
  u8 (match a.who with
      | some c => c.val
      | none => 32) ++ bytesOf16 a.kinds ++
    (if a.who = none ∧ a.kinds &&& DeviceKind.restarted.bit ≠ 0 then optBytes 1 (fun r => u8 r.code) a.cause
     else [0]) ++ u8 remaining

/-! ### What a master reads (R174, R185) -/

/-- R174, R185: the reply record of a port. -/
def PortState.replyRecord (p : PortState) : List Byte :=
  match p.reply with
  | .idle => u8 ReplyStatus.idle.code ++ [0, 0] ++ u16 0
  | .pending code target => u8 ReplyStatus.pending.code ++ [code, target] ++ u16 0
  | .answered st code target data => u8 st.code ++ [code, target] ++ u16 data.length ++ data

/-- R174: a read of `n` bytes of the reply; bytes beyond its end read as 0. While the reset pin is asserted the port does not
acknowledge, so nothing is read. -/
def State.readReply (s : State) (p : Port) (n : Nat) : Option (List Byte) :=
  if s.inReset then none else some (fill n (s.port p).replyRecord)

end Sys2Proof.Machine
end

