-- ==== Sys2Proof/Machine/Ports.lean ====
section
/-! DEFINITION. How a port takes a request (R174 to R177), and the answers of the owning blocks. -/

namespace Sys2Proof.Machine

/-- R174: the port's reply slot is PENDING. -/
def PortState.busy (p : PortState) : Bool :=
  match p.reply with
  | .pending _ _ => true
  | _ => false

/-- R175: a request written while the reply slot is PENDING is discarded whole, and PORT_OVERRUN is posted to the
port's own list. -/
def State.overrun (s : State) (p : Port) : State := s.postDeviceTo p .portOverrun

/-- R174: the port takes a request: the previous reply is discarded and the slot is PENDING with code and target. -/
def State.take (s : State) (p : Port) (code target : Byte) (raw : List Byte) : State :=
  s.modPort p fun x => { x with request := some raw, reply := .pending code target }

/-- A request row's fixed part: its code, the selector byte the row stands for, whether the port has the right to it
(R177), and which body lengths it may have (R177). -/
structure Shape where
  code : Byte
  selector : List Byte
  right : Port → Bool
  bodyLen : Nat → Bool

/-- R177: both ports have the right to a request. -/
def bothPorts (_ : Port) : Bool := true

/-- R177: only one port has the right to a request. -/
def onlyPort (p q : Port) : Bool := decide (p = q)

/-- R177: a request with a body of one length and no selector row. -/
def plain (code : Byte) (n : Nat) : Shape := ⟨code, [], bothPorts, fun m => decide (m = n)⟩

/-- R174: the record of a request as the master wrote it. -/
def recordOf (q : Req) (sh : Shape) : List Byte :=
  [sh.code, q.target] ++ bytesOf16 q.len ++ sh.selector ++ q.body

/-- R176 check 4: the body length of the header equals the number of bytes written, and is the length of the code. -/
def lengthOk (q : Req) (sh : Shape) : Bool :=
  decide (q.len.toNat = sh.selector.length + q.body.length) && sh.bodyLen q.len.toNat

/-- R174 to R176: a port takes a request, or discards it as an overrun; checks 3 and 4 of R176 are made, and a request
that passes them goes to `f`. -/
def State.serve (s : State) (q : Req) (sh : Shape) (f : State → State) : State :=
  if (s.port q.port).busy then s.overrun q.port
  else
    let s1 := s.take q.port sh.code q.target (recordOf q sh)
    if sh.right q.port = false then s1.answer q.port .notPermitted []
    else if lengthOk q sh = false then s1.answer q.port .badLength []
    else f s1

/-- R176 check 5: a request that targets a cage goes to `f` with its cage. -/
def State.serveCage (s : State) (q : Req) (sh : Shape) (f : CageNo → State → State) : State :=
  s.serve q sh fun s =>
    if h : q.target.toNat < 32 then f ⟨q.target.toNat, h⟩ s else s.answer q.port .badCage []

/-- R118, R130: a request that targets a group is refused BAD_REQUEST outside 0 to 7. -/
def State.serveGroup (s : State) (q : Req) (sh : Shape) (f : GroupNo → State → State) : State :=
  s.serve q sh fun s =>
    if h : q.target.toNat < 8 then f ⟨q.target.toNat, h⟩ s else s.answer q.port .badRequest []

/-- R162: a request that targets a field-map entry is refused BAD_REQUEST outside 0 to 7. -/
def State.serveEntry (s : State) (q : Req) (sh : Shape) (f : Fin 8 → State → State) : State :=
  s.serve q sh fun s =>
    if h : q.target.toNat < 8 then f ⟨q.target.toNat, h⟩ s else s.answer q.port .badRequest []

/-- A taken request that changes the part: its effect, its answer, and the end of the step. -/
def State.done (s : State) (p : Port) (status : ReplyStatus) (data : List Byte) : State :=
  (s.answer p status data).settle

/-- R176: UNKNOWN_REQUEST: a transaction with a short header, or with a code R177 does not list. -/
def State.unknown (s : State) (p : Port) (raw : List Byte) : State :=
  if raw.isEmpty then s
  else if (s.port p).busy then s.overrun p
  else
    let s1 := s.take p (byteAt raw 0) (byteAt raw 1) raw
    s1.answer p (if raw.length < 4 then .badLength else .badRequest) []

/-- R176: UNKNOWN_REQUEST. -/
def execUnknownRequest (p : Port) (raw : List Byte) (s : State) : Out := event s fun s => s.unknown p raw

/-- R175: PORT_OVERRUN. -/
def execPortOverrun (p : Port) (s : State) : Out :=
  event s fun s => if (s.port p).busy then s.overrun p else s

/-- R183: the port's oldest attention entry is removed and returned; an empty list answers with no data. -/
def State.fetch (s : State) (p : Port) : State :=
  match (s.port p).list with
  | [] => s.answer p .ok []
  | a :: rest => (s.modPort p fun x => { x with list := rest }).answer p .ok (a.bytes rest.length)

/-- R183: FETCH_ATTENTION. -/
def execFetchAttention (q : Req) (s : State) : Out :=
  event s fun s => s.serve q (plain 0x11 0) fun s => s.fetch q.port

/-- R184: the bits of the cage-kind mask that stand for kinds. -/
def cageMaskBits : BitVec 16 := 0x0FFF

/-- R184: the bits of the device-kind mask that stand for kinds. -/
def deviceMaskBits : Byte := 0x1F

/-- R184: both masks of the port are replaced and returned as stored. -/
def State.setMasks (s : State) (p : Port) (body : List Byte) : State :=
  let c := word16 (byteAt body 0) (byteAt body 1) &&& cageMaskBits
  let d := byteAt body 2 &&& deviceMaskBits
  (s.modPort p fun x => { x with cageMask := c, deviceMask := d }).answer p .ok (bytesOf16 c ++ [d])

/-- R184: SET_MASK. -/
def execSetMask (q : Req) (s : State) : Out :=
  event s fun s => s.serve q (plain 0x12 3) fun s => s.setMasks q.port q.body

/-- R186: RESTART. -/
def execRestart (q : Req) (s : State) : Out :=
  event s fun s =>
    s.serve q ⟨0x16, [], onlyPort .B, fun n => decide (n = 0)⟩ fun s => s.restarted.settle

end Sys2Proof.Machine
end

