-- ==== Sys2Proof/Machine/Profiles.lean ====
section
/-! DEFINITION. The profile requests: READ_PROFILE (R27), WRITE_PROFILE (R28 to R30, R33) and INVALIDATE_PROFILE (R31). -/

namespace Sys2Proof.Machine

/-- R28, R31: the revision as reply data. -/
def State.revisionData (s : State) (c : CageNo) : List Byte := bytesOf16 (s.cage c).profile.revision

/-- R30, R31, R33: an accepted change: PROFILE_CHANGED for the other port, and the evaluation of a waiting cage. -/
def State.profileChanged (s : State) (p : Port) (c : CageNo) : State :=
  let s1 := s.postTo p.other c .profileChanged
  if (s.cage c).seq.waiting then s1.decideEval c else s1

/-- R30, R23: the whole record is replaced, valid, with the next revision. -/
def Profile.replace (old new : Profile) : Profile := { new with valid := true, revision := old.revision + 1 }

/-- R29, R30: a profile record that has passed the checks is stored clamped. -/
def State.storeProfile (s : State) (p : Port) (c : CageNo) (new : Profile) : State :=
  let s1 := s.modProfile c fun old => old.replace new.clamp
  (s1.profileChanged p c).done p (if new.clamp = new then .ok else .clamped) (s1.revisionData c)

/-- R28: the checks of a profile write in their order. -/
def State.writeProfile (s : State) (p : Port) (body : List Byte) (c : CageNo) : State :=
  match profileOf (body.drop 2) with
  | none => s.answer p .invalid (s.revisionData c)
  | some new =>
    if word16 (byteAt body 0) (byteAt body 1) ≠ (s.cage c).profile.revision then
      s.answer p .stale (s.revisionData c)
    else if (s.cage c).seq.inUse then s.answer p .collision (s.revisionData c)
    else s.storeProfile p c new

/-- R31, R23: the profile becomes invalid and built-in, with the next revision. -/
def Profile.invalidate (old : Profile) : Profile := { builtinProfile with revision := old.revision + 1 }

/-- R31: an invalidation. -/
def State.invalidate (s : State) (p : Port) (body : List Byte) (c : CageNo) : State :=
  if word16 (byteAt body 0) (byteAt body 1) ≠ (s.cage c).profile.revision then
    s.answer p .stale (s.revisionData c)
  else if (s.cage c).seq.inUse then s.answer p .collision (s.revisionData c)
  else
    let s1 := s.modProfile c Profile.invalidate
    (s1.profileChanged p c).done p .ok (s1.revisionData c)

/-- R27: READ_PROFILE. -/
def execReadProfile (q : Req) (s : State) : Out :=
  event s fun s => s.serveCage q (plain 0x01 0) fun c s =>
    s.answer q.port .ok ((s.cage c).profile.bytes (s.cage c).seq.inUse)

/-- R28 to R30: WRITE_PROFILE. -/
def execWriteProfile (q : Req) (s : State) : Out :=
  event s fun s => s.serveCage q (plain 0x02 130) fun c s => s.writeProfile q.port q.body c

/-- R31: INVALIDATE_PROFILE. -/
def execInvalidateProfile (q : Req) (s : State) : Out :=
  event s fun s => s.serveCage q (plain 0x03 2) fun c s => s.invalidate q.port q.body c

end Sys2Proof.Machine
end

