-- ==== Sys2Proof/Machine/Restore.lean ====
section
/-! DEFINITION. The requests that act on a restore: DECIDE (R57), RELEASE (R61), HOST_SIDE_DONE (R87), CLEAR_FAULT (R109)
and RESET_CAGE (R112 to R115). -/

namespace Sys2Proof.Machine

/-! ### DECIDE (R57) -/

/-- R57: the shape of a DECIDE request with a decision. -/
def decideShape (d : Byte) : Shape := ⟨0x04, [d], bothPorts, fun n => decide (n = 1)⟩

/-- R57: a decision for a cage that is not waiting is answered NOT_WAITING; for a waiting cage it goes to `f`. -/
def State.ifWaiting (s : State) (p : Port) (c : CageNo) (f : State → State) : State :=
  if (s.cage c).seq.waiting then f s else s.answer p .notWaiting []

/-- R57: a decision that is taken to proceed. -/
def State.decideProceed (s : State) (p : Port) (c : CageNo) (d : Decision) : State :=
  (s.proceed c d (portSource p)).done p .ok []

/-- R57: DECIDE RESTORE of a waiting cage. -/
def State.decideRestore (s : State) (p : Port) (c : CageNo) : State :=
  if (s.cage c).profile.valid then s.decideProceed p c .restore else s.answer p .noProfile []

/-- R57, R60: DECIDE PARK of a waiting cage. -/
def State.decidePark (s : State) (p : Port) (c : CageNo) : State :=
  (s.parkFromDecide c .master (some (portSource p))).done p .ok []

/-- R57: DECIDE_RESTORE. -/
def execDecideRestore (q : Req) (s : State) : Out :=
  event s fun s => s.serveCage q (decideShape 0) fun c s => s.ifWaiting q.port c fun s => s.decideRestore q.port c

/-- R57: DECIDE_ADOPT_NEW. -/
def execDecideAdoptNew (q : Req) (s : State) : Out :=
  event s fun s => s.serveCage q (decideShape 1) fun c s =>
    s.ifWaiting q.port c fun s => s.decideProceed q.port c .adoptNew

/-- R57: DECIDE_PARK. -/
def execDecidePark (q : Req) (s : State) : Out :=
  event s fun s => s.serveCage q (decideShape 2) fun c s => s.ifWaiting q.port c fun s => s.decidePark q.port c

/-- R57: DECIDE_BAD_DECISION. -/
def execDecideBadDecision (q : Req) (s : State) : Out :=
  event s fun s => s.serveCage q (plain 0x04 1) fun _ s => s.answer q.port .badRequest []

/-! ### RELEASE and HOST_SIDE_DONE (R61, R87) -/

/-- R61: RELEASE of a cage. -/
def State.release (s : State) (p : Port) (c : CageNo) : State :=
  if (s.cage c).seq.state = .parked then (s.resume c).done p .ok [] else s.answer p .state []

/-- R61: RELEASE. -/
def execRelease (q : Req) (s : State) : Out :=
  event s fun s => s.serveCage q (plain 0x05 0) fun c s => s.release q.port c

/-- R87: HOST_SIDE_DONE for a cage. -/
def State.hostSideDone (s : State) (p : Port) (c : CageNo) : State :=
  if (s.cage c).seq.state = .configure ∧ (s.cage c).seq.stage = .hostSide then
    (s.enterDatapath c).done p .ok []
  else s.answer p .notWaiting []

/-- R87: HOST_SIDE_DONE. -/
def execHostSideDone (q : Req) (s : State) : Out :=
  event s fun s =>
    s.serveCage q ⟨0x06, [], onlyPort .A, fun n => decide (n = 0)⟩ fun c s => s.hostSideDone q.port c

/-! ### CLEAR_FAULT (R109) -/

/-- R108, R109: the reasons of a power fault. -/
def Reason.isPower : Reason → Bool
  | .railFail => true
  | .overdraw => true
  | .groupFeed => true
  | _ => false

/-- R108, R112: the cage is FAULTED with a power fault. -/
def Ctx.powerFaulted (q : Ctx) : Bool :=
  decide (q.state = .faulted) &&
    match q.reason with
    | some r => r.isPower
    | none => false

/-- R108: the cage is FAULTED with a module fault. -/
def Ctx.moduleFaulted (q : Ctx) : Bool := decide (q.state = .faulted) && !q.powerFaulted

/-- R109: CLEAR_FAULT for a cage. -/
def State.clearFault (s : State) (p : Port) (c : CageNo) : State :=
  let q := (s.cage c).seq
  if q.powerFaulted then
    if p = .A then s.answer p .notPermitted [] else (s.readmit c).done p .ok []
  else if q.moduleFaulted then (s.startDrain c .admitWait none).done p .ok []
  else s.answer p .state []

/-- R109: CLEAR_FAULT. -/
def execClearFault (q : Req) (s : State) : Out :=
  event s fun s => s.serveCage q (plain 0x07 0) fun c s => s.clearFault q.port c

/-! ### RESET_CAGE (R112 to R115) -/

/-- R112: the shape of a RESET_CAGE request with a scope. -/
def scopeShape (d : Byte) : Shape := ⟨0x08, [d], bothPorts, fun n => decide (n = 1)⟩

/-- R112: the states RESEQUENCE is taken in. -/
def SeqState.resequences : SeqState → Bool
  | .inService => true
  | .degraded => true
  | .linkWait => true
  | _ => false

/-- R113: RESEQUENCE of a running cage. -/
def State.resequence (s : State) (c : CageNo) : State :=
  let s1 := (s.stopWork c).modSeq c fun q =>
    { q with
      reason := none
      retry := 0
      inUse := true
      restoreNotice := true
      learning := false
      learned := [] }
  s1.enterLaneMap c

/-- R113: RESET_CAGE_RESEQUENCE. -/
def execResetCageResequence (q : Req) (s : State) : Out :=
  event s fun s => s.serveCage q (scopeShape 0) fun c s =>
    if (s.cage c).seq.state.resequences then (s.resequence c).done q.port .ok [] else s.answer q.port .state []

/-- R112: the cage is in a state REIDENTIFY is taken in. -/
def Cage.reidentifies (k : Cage) : Bool :=
  match k.seq.state with
  | .inService => true
  | .degraded => true
  | .parked => k.ciu.lines.rail
  | .faulted => k.seq.moduleFaulted
  | _ => false

/-- R114, R100: REIDENTIFY: the module goes to low power, its image empties, its segment is CONNECTED, and it is identified
again. A cage that faulted in POWERING has now left it, so a later drain starts at the table's highest slot. -/
def State.reidentify (s : State) (c : CageNo) : State :=
  let s1 := (s.stopWork c).modSeq c fun q =>
    { q.clearRestore with
      inUse := false
      learnPending := false
      adopted := false
      parkAs := none
      topSlot := (q.table.map SlotTable.last).getD q.topSlot }
  let s2 := s1.lpAssert c
  let s3 := if (s.cage c).seq.state = .faulted then s2.resetRelease c else s2
  (((s3.emptyImage c).connect c)).enterFind c

/-- R114: RESET_CAGE_REIDENTIFY. -/
def execResetCageReidentify (q : Req) (s : State) : Out :=
  event s fun s => s.serveCage q (scopeShape 1) fun c s =>
    if (s.cage c).reidentifies then (s.reidentify c).done q.port .ok [] else s.answer q.port .state []

/-- R112: the cage is in a state POWER_CYCLE is taken in. -/
def Cage.powerCycles (k : Cage) : Bool :=
  decide (k.ciu.presence = .present) && decide (k.seq.state ≠ .draining) && decide (k.seq.state ≠ .empty) &&
    !k.seq.powerFaulted

/-- R115: POWER_CYCLE by the cage's state: a powered cage drains to ADMIT_WAIT, a waiting one keeps its entry, an
unpowered parked one asks for low power again. -/
def State.powerCycle (s : State) (c : CageNo) : State :=
  if (s.cage c).ciu.lines.rail then s.startDrain c .admitWait none
  else if (s.cage c).seq.state = .admitWait then s
  else s.enterAdmit c

/-- R115: RESET_CAGE_POWER_CYCLE. -/
def execResetCagePowerCycle (q : Req) (s : State) : Out :=
  event s fun s => s.serveCage q (scopeShape 2) fun c s =>
    if (s.cage c).powerCycles then (s.powerCycle c).done q.port .ok [] else s.answer q.port .state []

/-- R112: RESET_CAGE_BAD_SCOPE. -/
def execResetCageBadScope (q : Req) (s : State) : Out :=
  event s fun s => s.serveCage q (plain 0x08 1) fun _ s => s.answer q.port .badRequest []

end Sys2Proof.Machine
end

