-- ==== Sys2Proof/Machine/Reads.lean ====
section
/-! DEFINITION. The requests that read what the part holds (R18, R62, R97, R130, R144, R162, R167, R181), the passthrough
requests (R156, R157) and LOAD_FIELD_MAP (R162). -/

namespace Sys2Proof.Machine

/-! ### Reads -/

/-- R62, R97, R144: READ_STATUS. -/
def execReadStatus (q : Req) (s : State) : Out :=
  event s fun s => s.serveCage q (plain 0x09 0) fun c s => s.answer q.port .ok (s.statusBytes c)

/-- R167: the shape of a READ_IMAGE request with a section. -/
def sectionShape (d : Byte) : Shape := ⟨0x0A, [d], bothPorts, fun n => decide (n = 1)⟩

/-- R167: READ_IMAGE_IDENTITY. -/
def execReadImageIdentity (q : Req) (s : State) : Out :=
  event s fun s => s.serveCage q (sectionShape 0) fun c s => s.answer q.port .ok (s.cage c).image.identityBytes

/-- R167, R77: READ_IMAGE_APPLIED. -/
def execReadImageApplied (q : Req) (s : State) : Out :=
  event s fun s => s.serveCage q (sectionShape 1) fun c s => s.answer q.port .ok (s.cage c).image.appliedBytes

/-- R167: READ_IMAGE_STATUS. -/
def execReadImageStatus (q : Req) (s : State) : Out :=
  event s fun s => s.serveCage q (sectionShape 2) fun c s => s.answer q.port .ok (s.cage c).image.statusBytes

/-- R167: READ_IMAGE_BAD_SECTION. -/
def execReadImageBadSection (q : Req) (s : State) : Out :=
  event s fun s => s.serveCage q (plain 0x0A 1) fun _ s => s.answer q.port .badRequest []

/-- R18: READ_OUTAGE. -/
def execReadOutage (q : Req) (s : State) : Out :=
  event s fun s => s.serveCage q (plain 0x0B 0) fun c s => s.answer q.port .ok (s.cage c).outage.bytes

/-- R130: READ_GROUP. -/
def execReadGroup (q : Req) (s : State) : Out :=
  event s fun s => s.serveGroup q (plain 0x0C 0) fun g s => s.answer q.port .ok (s.groupBytes g)

/-- R181: READ_DEVICE. -/
def execReadDevice (q : Req) (s : State) : Out :=
  event s fun s => s.serve q (plain 0x15 0) fun s => s.answer q.port .ok s.deviceBytes

/-- R162: the READ_FIELD_MAP data of an entry. -/
def entryBytes (m : Option FieldMap) : List Byte :=
  match m with
  | some m => [1] ++ m.bytes
  | none => [0]

/-- R162: READ_FIELD_MAP. -/
def execReadFieldMap (q : Req) (s : State) : Out :=
  event s fun s => s.serveEntry q (plain 0x10 0) fun i s => s.answer q.port .ok (entryBytes s.fieldMaps[i])

/-! ### Passthrough (R156, R157) -/

/-- R156: the item of a MODULE_READ. -/
def passRead (p : Port) (c : CageNo) (body : List Byte) (now : Stamp) (joined : Nat) : Item :=
  ⟨c, byteAt body 0, byteAt body 1, num8 body 2, false, [], .port p, now, decide (num8 body 3 = 1), joined⟩

/-- R157: the item of a MODULE_WRITE. -/
def passWrite (p : Port) (c : CageNo) (body : List Byte) (now : Stamp) (joined : Nat) : Item :=
  ⟨c, byteAt body 0, byteAt body 1, (body.drop 2).length, true, body.drop 2, .port p, now, false, joined⟩

/-- R156, R157: a passthrough that passes its checks is posted, and the reply stays PENDING. -/
def State.postPass (s : State) (i : Item) : State := (s.addItem i).settle

/-- R156: the checks of a MODULE_READ in their order, the restore-page flag (0 or 1) before them. -/
def State.moduleRead (s : State) (p : Port) (body : List Byte) (c : CageNo) : State :=
  let n := num8 body 2
  if 1 < num8 body 3 then s.answer p .badRequest []
  else if n = 0 ∨ 64 < n then s.answer p .badLength []
  else if inWindow (byteAt body 1) n = false then s.answer p .badLength []
  else if (s.cage c).ciu.presence ≠ .present then s.answer p .absent []
  else if (s.cage c).bus.seg ≠ .connected then s.answer p .state []
  else s.postPass (passRead p c body s.now s.elapsed)

/-- R156: MODULE_READ. -/
def execModuleRead (q : Req) (s : State) : Out :=
  event s fun s => s.serveCage q (plain 0x0D 4) fun c s => s.moduleRead q.port q.body c

/-- R157 check 3: the states a MODULE_WRITE is taken in. -/
def Cage.takesWrite (k : Cage) : Bool :=
  match k.seq.state with
  | .inService => true
  | .degraded => true
  | .parked => k.ciu.lines.rail
  | .faulted => k.seq.moduleFaulted
  | _ => false

/-- R157: the checks of a MODULE_WRITE in their order. -/
def State.moduleWrite (s : State) (p : Port) (body : List Byte) (c : CageNo) : State :=
  let n := (body.drop 2).length
  if n = 0 ∨ 8 < n then s.answer p .badLength []
  else if inWindow (byteAt body 1) n = false then s.answer p .badLength []
  else if (s.cage c).takesWrite = false then s.answer p .state []
  else if (s.cage c).bus.seg ≠ .connected then s.answer p .state []
  else s.postPass (passWrite p c body s.now s.elapsed)

/-- R157: MODULE_WRITE. -/
def execModuleWrite (q : Req) (s : State) : Out :=
  event s fun s =>
    s.serveCage q ⟨0x0E, [], bothPorts, fun n => decide (2 ≤ n)⟩ fun c s => s.moduleWrite q.port q.body c

/-! ### LOAD_FIELD_MAP (R161, R162) -/

/-- R161: the cage holds its map fixed. -/
def Ctx.holdsMap (q : Ctx) : Bool :=
  q.learning ||
    match q.state with
    | .identify => true
    | .decide => true
    | .hpWait => true
    | .configure => true
    | .linkWait => true
    | .adopting => true
    | _ => false

/-- R162 check 4: a cage that holds its map fixed uses the entry. -/
def State.entryHeld (s : State) (i : Fin 8) : Bool :=
  allCages.any fun c => (s.cage c).seq.holdsMap && decide ((s.cage c).image.identity.mapIndex = some i)

/-- R162 check 3: another entry holds the identifier. -/
def State.duplicateIdent (s : State) (i : Fin 8) (ident : Byte) : Bool :=
  (List.finRange 8).any fun j =>
    decide (j ≠ i) && ((s.fieldMaps[j].map FieldMap.ident) == some ident)

/-- R111: the cage is PARKED with NO_FIELD_MAP and its image holds the identifier. -/
def Cage.wantsMap (k : Cage) (ident : Byte) : Bool :=
  decide (k.seq.state = .parked) && decide (k.seq.reason = some .noFieldMap) &&
    decide (k.image.identity.ident = some ident)

/-- R162, R111: an accepted load: the record is stored, and the cages that wait for it resume, the lowest cage first
(DESIGN CHOICE, log entry 53: the rules give no order among them). -/
def State.storeMap (s : State) (i : Fin 8) (m : FieldMap) : State :=
  let s1 := { s with fieldMaps := s.fieldMaps.set i (some m) }
  s1.each (allCages.filter fun c => (s.cage c).wantsMap m.ident) fun c s => s.resume c

/-- R162: the checks of a load in their order. COLLISION carries no data here, a field map having no revision (R179, log
entry 51). -/
def State.loadMap (s : State) (p : Port) (body : List Byte) (i : Fin 8) : State :=
  match fieldMapOf body with
  | none => s.answer p .invalid []
  | some raw =>
    let m := raw.clamp
    if m.legal = false then s.answer p .invalid []
    else if s.duplicateIdent i m.ident then s.answer p .duplicate []
    else if s.entryHeld i then s.answer p .collision []
    else (s.storeMap i m).done p (if m = raw then .ok else .clamped) []

/-- R162: LOAD_FIELD_MAP. -/
def execLoadFieldMap (q : Req) (s : State) : Out :=
  event s fun s => s.serveEntry q (plain 0x0F 50) fun i s => s.loadMap q.port q.body i

end Sys2Proof.Machine
end

