-- ==== Sys2Proof/Machine/Settings.lean ====
section
/-! DEFINITION. The settings that port B writes: SET_BUDGET (R118) and SET_TIMING (R180). -/

namespace Sys2Proof.Machine

/-- R118: a SET_BUDGET for a group. -/
def State.setBudget (s : State) (p : Port) (body : List Byte) (g : GroupNo) : State :=
  let v := storeBudget (num16 body 0)
  (s.changeBudget g v.1).done p (if v.2 then .clamped else .ok) (u16 v.1)

/-- R118: SET_BUDGET. -/
def execSetBudget (q : Req) (s : State) : Out :=
  event s fun s =>
    s.serveGroup q ⟨0x13, [], onlyPort .B, fun n => decide (n = 2)⟩ fun g s => s.setBudget q.port q.body g

/-- R180: the shape of a SET_TIMING request with a selector. -/
def timingShape (d : Byte) : Shape := ⟨0x14, [d], onlyPort .B, fun n => decide (n = 3)⟩

/-- R180: a value as it is stored: held to the range, then rounded down to the step. -/
def storedSetting (lo hi step v : Nat) : Nat :=
  if v < lo then lo else if hi < v then hi else v / step * step

/-- R180: a setting is stored, and answered with the selector and the stored value. -/
def State.setTiming (s : State) (q : Req) (selector lo hi step : Nat) (f : Nat → State → State) : State :=
  let v := num16 q.body 0
  let stored := storedSetting lo hi step v
  (f stored s).done q.port (if stored = v then .ok else .clamped) (u8 selector ++ u16 stored)

/-- A change of the device settings. -/
def State.modSettings (s : State) (f : Settings → Settings) : State := { s with settings := f s.settings }

/-- R180, R126: SET_TIMING_DEVICE_SPACING. -/
def execSetTimingDeviceSpacing (q : Req) (s : State) : Out :=
  event s fun s => s.serve q (timingShape 0) fun s =>
    s.setTiming q 0 1 255 1 fun v s => s.modSettings fun x => { x with deviceSpacing := v }

/-- R180, R126: SET_TIMING_GROUP_SPACING. -/
def execSetTimingGroupSpacing (q : Req) (s : State) : Out :=
  event s fun s => s.serve q (timingShape 1) fun s =>
    s.setTiming q 1 1 255 1 fun v s => s.modSettings fun x => { x with groupSpacing := v }

/-- R10: the debounce time changes, and the candidates that have held it are accepted, lowest cage first. -/
def State.changeDebounce (s : State) (v : Nat) : State :=
  (s.modSettings fun x => { x with debounce := v }).each allCages fun c s => s.acceptDue c

/-- R180, R10: SET_TIMING_DEBOUNCE_TIME. -/
def execSetTimingDebounceTime (q : Req) (s : State) : Out :=
  event s fun s => s.serve q (timingShape 2) fun s =>
    s.setTiming q 2 1 255 1 fun v s => s.changeDebounce v

/-- R180, R168: SET_TIMING_POLL_INTERVAL. -/
def execSetTimingPollInterval (q : Req) (s : State) : Out :=
  event s fun s => s.serve q (timingShape 3) fun s =>
    s.setTiming q 3 10 2550 10 fun v s => s.modSettings fun x => { x with pollInterval := v }

/-- R180, R65: SET_TIMING_RESEAT_WINDOW. -/
def execSetTimingReseatWindow (q : Req) (s : State) : Out :=
  event s fun s => s.serve q (timingShape 4) fun s =>
    s.setTiming q 4 1 3600 1 fun v s => s.modSettings fun x => { x with reseatWindow := v }

/-- R180: SET_TIMING_BAD_SELECTOR: refused BAD_REQUEST from port B, NOT_PERMITTED from port A. -/
def execSetTimingBadSelector (q : Req) (s : State) : Out :=
  event s fun s =>
    s.serve q ⟨0x14, [], onlyPort .B, fun n => decide (n = 3)⟩ fun s => s.answer q.port .badRequest []

end Sys2Proof.Machine
end

