-- ==== Sys2Proof/Machine/Dispatch.lean ====
section
/-! DEFINITION. One arm per command. -/

namespace Sys2Proof.Machine

/-- What a command does to everything but the queue of the commands that wait. -/
def exec (i : Instr) (s : State) : Host.Outcome State Fault Refusal :=
  match i with
  | .powerOn => Sys2Proof.Machine.execPowerOn s
  | .resetPinAssert => Sys2Proof.Machine.execResetPinAssert s
  | .resetPinRelease => Sys2Proof.Machine.execResetPinRelease s
  | .restart q => Sys2Proof.Machine.execRestart q s
  | .presentLineChange c level => Sys2Proof.Machine.execPresentLineChange c level s
  | .candidateAccepted c => Sys2Proof.Machine.execCandidateAccepted c s
  | .settleIntervalEnd c => Sys2Proof.Machine.execSettleIntervalEnd c s
  | .attentionEdge c low => Sys2Proof.Machine.execAttentionEdge c low s
  | .lowPowerGrant g => Sys2Proof.Machine.execLowPowerGrant g s
  | .highPowerGrant g => Sys2Proof.Machine.execHighPowerGrant g s
  | .spacingBoundReached => Sys2Proof.Machine.execSpacingBoundReached s
  | .inrushRecordLapse r => Sys2Proof.Machine.execInrushRecordLapse r s
  | .groupFeedFaultActive g => Sys2Proof.Machine.execGroupFeedFaultActive g s
  | .groupFeedFaultInactive g => Sys2Proof.Machine.execGroupFeedFaultInactive g s
  | .bringUpSlotStart c => Sys2Proof.Machine.execBringUpSlotStart c s
  | .powerGoodLimitExpiry c => Sys2Proof.Machine.execPowerGoodLimitExpiry c s
  | .adoptionPgLimitExpiry c => Sys2Proof.Machine.execAdoptionPgLimitExpiry c s
  | .seqPollTimerExpiry c => Sys2Proof.Machine.execSeqPollTimerExpiry c s
  | .initTimerExpiry c => Sys2Proof.Machine.execInitTimerExpiry c s
  | .adoptionInitTimeout c => Sys2Proof.Machine.execAdoptionInitTimeout c s
  | .decisionWindowExpiry c => Sys2Proof.Machine.execDecisionWindowExpiry c s
  | .hpSettleTimeout c => Sys2Proof.Machine.execHpSettleTimeout c s
  | .hostSideWindowExpiry c => Sys2Proof.Machine.execHostSideWindowExpiry c s
  | .linkTimerExpiry c => Sys2Proof.Machine.execLinkTimerExpiry c s
  | .blankingWindowEnd c => Sys2Proof.Machine.execBlankingWindowEnd c s
  | .drainSlotStart c => Sys2Proof.Machine.execDrainSlotStart c s
  | .drainEnd c => Sys2Proof.Machine.execDrainEnd c s
  | .feedClearTimerExpiry c => Sys2Proof.Machine.execFeedClearTimerExpiry c s
  | .readProfile q => Sys2Proof.Machine.execReadProfile q s
  | .writeProfile q => Sys2Proof.Machine.execWriteProfile q s
  | .invalidateProfile q => Sys2Proof.Machine.execInvalidateProfile q s
  | .decideRestore q => Sys2Proof.Machine.execDecideRestore q s
  | .decideAdoptNew q => Sys2Proof.Machine.execDecideAdoptNew q s
  | .decidePark q => Sys2Proof.Machine.execDecidePark q s
  | .release q => Sys2Proof.Machine.execRelease q s
  | .hostSideDone q => Sys2Proof.Machine.execHostSideDone q s
  | .clearFault q => Sys2Proof.Machine.execClearFault q s
  | .resetCageResequence q => Sys2Proof.Machine.execResetCageResequence q s
  | .resetCageReidentify q => Sys2Proof.Machine.execResetCageReidentify q s
  | .resetCagePowerCycle q => Sys2Proof.Machine.execResetCagePowerCycle q s
  | .readStatus q => Sys2Proof.Machine.execReadStatus q s
  | .readImageIdentity q => Sys2Proof.Machine.execReadImageIdentity q s
  | .readImageApplied q => Sys2Proof.Machine.execReadImageApplied q s
  | .readImageStatus q => Sys2Proof.Machine.execReadImageStatus q s
  | .readOutage q => Sys2Proof.Machine.execReadOutage q s
  | .readGroup q => Sys2Proof.Machine.execReadGroup q s
  | .moduleRead q => Sys2Proof.Machine.execModuleRead q s
  | .moduleWrite q => Sys2Proof.Machine.execModuleWrite q s
  | .loadFieldMap q => Sys2Proof.Machine.execLoadFieldMap q s
  | .readFieldMap q => Sys2Proof.Machine.execReadFieldMap q s
  | .fetchAttention q => Sys2Proof.Machine.execFetchAttention q s
  | .setMask q => Sys2Proof.Machine.execSetMask q s
  | .setBudget q => Sys2Proof.Machine.execSetBudget q s
  | .setTimingDeviceSpacing q => Sys2Proof.Machine.execSetTimingDeviceSpacing q s
  | .setTimingGroupSpacing q => Sys2Proof.Machine.execSetTimingGroupSpacing q s
  | .setTimingDebounceTime q => Sys2Proof.Machine.execSetTimingDebounceTime q s
  | .setTimingPollInterval q => Sys2Proof.Machine.execSetTimingPollInterval q s
  | .setTimingReseatWindow q => Sys2Proof.Machine.execSetTimingReseatWindow q s
  | .readDevice q => Sys2Proof.Machine.execReadDevice q s
  | .unknownRequest p raw => Sys2Proof.Machine.execUnknownRequest p raw s
  | .portOverrun p => Sys2Proof.Machine.execPortOverrun p s
  | .busTransactionComplete e data => Sys2Proof.Machine.execBusTransactionComplete e data s
  | .addressNack e => Sys2Proof.Machine.execAddressNack e s
  | .nackRetryExpiry e => Sys2Proof.Machine.execNackRetryExpiry e s
  | .dataNack e => Sys2Proof.Machine.execDataNack e s
  | .clockHeldLow e => Sys2Proof.Machine.execClockHeldLow e s
  | .clockReleased e => Sys2Proof.Machine.execClockReleased e s
  | .stuckLimitExpiry e => Sys2Proof.Machine.execStuckLimitExpiry e s
  | .holdOffExpiry c => Sys2Proof.Machine.execHoldOffExpiry c s
  | .pairComplete vc ic => Sys2Proof.Machine.execPairComplete vc ic s
  | .pendingBasisDue c => Sys2Proof.Machine.execPendingBasisDue c s
  | .linkStreamFrame bits => Sys2Proof.Machine.execLinkStreamFrame bits s
  | .streamStaleTimeout => Sys2Proof.Machine.execStreamStaleTimeout s
  | .nextPollTimeReached c => Sys2Proof.Machine.execNextPollTimeReached c s
  | .itemEndAtByteBoundary e => Sys2Proof.Machine.execItemEndAtByteBoundary e s
  | .linkStreamRunDiscard => Sys2Proof.Machine.execLinkStreamRunDiscard s
  | .decideBadDecision q => Sys2Proof.Machine.execDecideBadDecision q s
  | .resetCageBadScope q => Sys2Proof.Machine.execResetCageBadScope q s
  | .readImageBadSection q => Sys2Proof.Machine.execReadImageBadSection q s
  | .setTimingBadSelector q => Sys2Proof.Machine.execSetTimingBadSelector q s

end Sys2Proof.Machine
end

