-- ==== Sys2Proof/Machine/Step.lean ====
section
/-! DEFINITION. The step of the part: the command at the front of the queue is taken; with none waiting, a millisecond
passes. -/

namespace Sys2Proof.Machine

/-- R1: a millisecond passes: the time base counts up by one, modulo 2^32, in a reset too. -/
def State.tick (s : State) : State := { s with now := s.now + 1, elapsed := s.elapsed + 1 }

/-- One step. The command at the front of the queue leaves it and has its effect; on an empty queue the time base
counts (log entry 2). -/
def step (s : State) : Host.Outcome State Fault Refusal :=
  match s.pending with
  | [] => .next s.tick
  | i :: rest => exec i { s with pending := rest }

/-- The state with the command that a word spells put at the front of its queue; no word spells a command. -/
def State.withFetchWord (s : State) (nbits w : Nat) : State :=
  match decodeTableWord nbits w with
  | some i => { s with pending := i :: s.pending }
  | none => s

end Sys2Proof.Machine
end

