-- ==== Sys2Proof/Safety.lean ====
section
/-! DEFINITION. What claims about the part are said in: what it means that a step touched one cage only, the
invariants of the manual that every step keeps, and the conditions under which a port takes a request. -/

namespace Sys2Proof.Machine

/-! ### Frames -/

/-- The parts that belong to no cage, group, engine or port are as they were: the time base, the reset state, the
settings, the device last inrush, the place of the scan, the field maps, the link stream and the commands that
wait. -/
structure State.SameDevice (s t : State) : Prop where
  now : t.now = s.now
  elapsed : t.elapsed = s.elapsed
  inReset : t.inReset = s.inReset
  cause : t.cause = s.cause
  releaseTime : t.releaseTime = s.releaseTime
  settings : t.settings = s.settings
  deviceLast : t.deviceLast = s.deviceLast
  scanCage : t.scanCage = s.scanCage
  fieldMaps : t.fieldMaps = s.fieldMaps
  lsr : t.lsr = s.lsr
  pending : t.pending = s.pending

/-- The entries of an attention list for one cage. -/
def entriesOf (l : List AttEntry) (d : CageNo) : List AttEntry := l.filter fun a => decide (a.who = some d)

/-- The DEVICE entry of an attention list. -/
def entriesOfDevice (l : List AttEntry) : List AttEntry := l.filter fun a => decide (a.who = none)

/-- The entries of a group's queue for the other cages. -/
def Group.others (g : Group) (c : CageNo) : List Entry := g.queue.filter fun e => decide (e.cage ≠ c)

/-- The waiting items of an engine for the other cages. -/
def Engine.others (e : Engine) (c : CageNo) : List Item := e.waiting.filter fun i => decide (i.cage ≠ c)

/-- The engine carries no item of the cage. -/
def Engine.Free (e : Engine) (c : CageNo) : Prop := ∀ k, e.current = some k → k.item.cage ≠ c

/-- The step touched one cage only. Besides that cage, its group's committed charge and its entry there, its items at its
engine, the two reply slots, and the attention entries of that cage and of DEVICE, everything is as it was: the other
cages of the group keep their places in the queue, those of the engine their items. -/
structure State.OnlyCage (s t : State) (c : CageNo) : Prop where
  device : s.SameDevice t
  cages : ∀ d, d ≠ c → t.cage d = s.cage d
  groups : ∀ g, g ≠ groupOf c → t.group g = s.group g
  group : t.group (groupOf c) =
    { s.group (groupOf c) with
      committed := (t.group (groupOf c)).committed, queue := (t.group (groupOf c)).queue }
  queue : (t.group (groupOf c)).others c = (s.group (groupOf c)).others c
  engines : ∀ e, e ≠ engineOf c → t.engine e = s.engine e
  waiting : (t.engine (engineOf c)).others c = (s.engine (engineOf c)).others c
  served : (t.engine (engineOf c)).lastServed = (s.engine (engineOf c)).lastServed
  carried : (s.engine (engineOf c)).Free c →
    (t.engine (engineOf c)).current = (s.engine (engineOf c)).current ∧
      (t.engine (engineOf c)).selected = (s.engine (engineOf c)).selected
  masks : ∀ p, (t.port p).cageMask = (s.port p).cageMask ∧ (t.port p).deviceMask = (s.port p).deviceMask
  entries : ∀ p d, d ≠ c → entriesOf (t.port p).list d = entriesOf (s.port p).list d

/-- The reply slots and the requests being served are as they were. -/
structure State.SameReplies (s t : State) : Prop where
  request : ∀ p, (t.port p).request = (s.port p).request
  reply : ∀ p, (t.port p).reply = (s.port p).reply

/-- The attention lists are as they were. -/
def State.SameLists (s t : State) : Prop := ∀ p, (t.port p).list = (s.port p).list

/-- R182: one kind of one cage has been posted to both ports, and nothing else. -/
def State.Posted (s t : State) (c : CageNo) (k : CageKind) : Prop :=
  ∀ p, (t.port p).list = addKind (s.port p).list (some c) k.bit none

/-- R176 check 5: the cage a request targets. -/
def targetCage (q : Req) : Option CageNo := if h : q.target.toNat < 32 then some ⟨q.target.toNat, h⟩ else none

/-- The cage a command is about: the one an event names, or the one a request targets. -/
def commandCage : Instr → Option CageNo
  | .presentLineChange c _ => some c
  | .candidateAccepted c => some c
  | .settleIntervalEnd c => some c
  | .attentionEdge c _ => some c
  | .bringUpSlotStart c => some c
  | .powerGoodLimitExpiry c => some c
  | .adoptionPgLimitExpiry c => some c
  | .seqPollTimerExpiry c => some c
  | .initTimerExpiry c => some c
  | .adoptionInitTimeout c => some c
  | .decisionWindowExpiry c => some c
  | .hpSettleTimeout c => some c
  | .hostSideWindowExpiry c => some c
  | .linkTimerExpiry c => some c
  | .blankingWindowEnd c => some c
  | .drainSlotStart c => some c
  | .drainEnd c => some c
  | .feedClearTimerExpiry c => some c
  | .holdOffExpiry c => some c
  | .pendingBasisDue c => some c
  | .nextPollTimeReached c => some c
  | .readProfile q => targetCage q
  | .writeProfile q => targetCage q
  | .invalidateProfile q => targetCage q
  | .decideRestore q => targetCage q
  | .decideAdoptNew q => targetCage q
  | .decidePark q => targetCage q
  | .release q => targetCage q
  | .hostSideDone q => targetCage q
  | .clearFault q => targetCage q
  | .resetCageResequence q => targetCage q
  | .resetCageReidentify q => targetCage q
  | .resetCagePowerCycle q => targetCage q
  | .readStatus q => targetCage q
  | .readImageIdentity q => targetCage q
  | .readImageApplied q => targetCage q
  | .readImageStatus q => targetCage q
  | .readOutage q => targetCage q
  | .moduleRead q => targetCage q
  | .moduleWrite q => targetCage q
  | .decideBadDecision q => targetCage q
  | .resetCageBadScope q => targetCage q
  | .readImageBadSection q => targetCage q
  | _ => none

/-- The port a command is written at; `none` for an event of the part. -/
def commandPort (i : Instr) : Option Port := (encodeTransaction i).map Prod.fst

/-- No passthrough of a port for a cage waits or is carried at the cage's engine. -/
def State.NoPassFor (s : State) (c : CageNo) (p : Port) : Prop :=
  (∀ i ∈ (s.engine (engineOf c)).waiting, i.cage = c → i.who ≠ .port p) ∧
    ∀ k, (s.engine (engineOf c)).current = some k → k.item.cage = c → k.item.who ≠ .port p

/-! ### The end of a step -/

/-- R124, R125: the state with the head taken from a group's queue, its grant time recorded as the last inrush of the group
and of the device. -/
def State.headTaken (s : State) (g : GroupNo) : State :=
  { s.modGroup g fun x => { x with queue := x.queue.tail, last := .active s.now } with
    deviceLast := .active s.now }

/-- R123, R126: the head of a group's queue meets every condition of a grant but the device spacing: its cage waits for
the kind it asks for (log entry 8), the group's feed is not in fault, the rise it makes fits the budget, and the group
spacing has passed. -/
structure State.Grantable (s : State) (g : GroupNo) (e : Entry) : Prop where
  head : (s.group g).queue.head? = some e
  waits : e.kind = .lowPower ∧ (s.cage e.cage).seq.state = .admitWait ∨
    e.kind = .highPower ∧ (s.cage e.cage).seq.state = .hpWait
  feed : (s.group g).feedActive = false
  budget : s.delta e = 0 ∨ (s.group g).committed + s.delta e ≤ (s.group g).budget
  spacing : ∀ t, (s.group g).last = .active t → s.settings.groupSpacing ≤ (s.now - t).toNat

/-- R126: the device spacing has passed. -/
def State.DeviceReady (s : State) : Prop :=
  ∀ t, s.deviceLast = .active t → s.settings.deviceSpacing ≤ (s.now - t).toNat

/-- R155: a waiting item of an engine can be started: its segment is CONNECTED and a hold-off of its cage has passed. -/
def State.Startable (s : State) (e : EngineNo) (i : Item) : Prop :=
  i ∈ (s.engine e).waiting ∧ (s.cage i.cage).bus.seg = .connected ∧
    ∀ t, (s.cage i.cage).bus.hold = some t → t.len ≤ (s.now - t.start).toNat

/-- R155: where an item stands in an engine's choice: SEQ items first, then POLL items that have waited 500 ms, then
passthroughs, then the other POLL items. -/
def Item.rank (i : Item) (now : Stamp) : Nat :=
  match i.who with
  | .seq => 0
  | .poll => if 500 ≤ (now - i.posted).toNat then 1 else 3
  | .port _ => 2

/-- R155: two items compete for the same place in an engine's choice. -/
def Item.Rivals (i j : Item) (now : Stamp) : Prop := j.who = i.who ∧ j.rank now = i.rank now

/-- R155: the item that a free engine chooses: of the lowest rank that can be started; of its rivals the one posted first,
and of those posted in its millisecond the one of the lowest cage; of two ports' passthroughs the one of the
port not served last, or of port A when none was. -/
structure State.Chosen (s : State) (e : EngineNo) (i : Item) : Prop where
  ready : s.Startable e i
  rank : ∀ j, s.Startable e j → i.rank s.now ≤ j.rank s.now
  first : ∃ l f r, (s.engine e).waiting = l ++ f :: r ∧ s.Startable e f ∧ i.Rivals f s.now ∧ f.joined = i.joined ∧
    ∀ j ∈ l, s.Startable e j → ¬i.Rivals j s.now
  lowest : ∀ j, s.Startable e j → i.Rivals j s.now → j.joined = i.joined → i.cage ≤ j.cage
  turn : ∀ p, i.who = .port p → (∃ j, s.Startable e j ∧ j.who = .port p.other) →
    (s.engine e).lastServed = some p.other ∨ (s.engine e).lastServed = none ∧ p = .A

/-- R145, R149, R155: an engine of `s` that has started an item: it carries it, with the page shadow and the field map as
they stand, a page-select write first where the item's page of the upper window is not selected. -/
def State.engineStarted (s : State) (e : EngineNo) (i : Item) : Engine where
  current :=
    some ⟨i, (s.cage i.cage).bus.shadow, s.mapOf i.cage,
      if 128 ≤ i.offset.toNat ∧ (s.cage i.cage).bus.shadow ≠ some i.page then .pageSelect else .burst, [], 0, 0, none,
      none, none, false, false⟩
  selected := some i.cage
  waiting := (s.engine e).waiting.erase i
  lastServed :=
    match i.who with
    | .port p => some p
    | _ => (s.engine e).lastServed

/-! ### Invariants -/

/-- R4: a cage's module reset line is asserted whenever its rail enable is off. -/
def State.ResetsHold (s : State) : Prop :=
  ∀ c, (s.cage c).ciu.lines.rail = false → (s.cage c).ciu.lines.reset = true

/-- R137: a cage whose rail enable is OFF has power-good OFF, no limit basis, no pending basis and an empty window; one
whose rail enable is ON has a limit basis and a power-good state other than OFF. -/
def State.MonitorHolds (s : State) : Prop :=
  ∀ c,
    ((s.cage c).ciu.lines.rail = true → (s.cage c).rlm.basis ≠ none ∧ (s.cage c).rlm.pg ≠ .off) ∧
      ((s.cage c).ciu.lines.rail = false →
        (s.cage c).rlm.pg = .off ∧ (s.cage c).rlm.basis = none ∧ (s.cage c).rlm.pending = none ∧
          (s.cage c).rlm.window = [])

/-- R120: how the queue of a cage's group holds the cage: in ADMIT_WAIT one LOW_POWER entry of 1500 mW, in HP_WAIT one
HIGH_POWER entry, in any other state none. -/
def State.QueuedOnce (s : State) (c : CageNo) : Prop :=
  let own := (s.group (groupOf c)).queue.filter fun e => decide (e.cage = c)
  ((s.cage c).seq.state = .admitWait → ∃ e, own = [e] ∧ e.kind = .lowPower ∧ e.requested = 1500) ∧
    ((s.cage c).seq.state = .hpWait → ∃ e, own = [e] ∧ e.kind = .highPower) ∧
    ((s.cage c).seq.state ≠ .admitWait → (s.cage c).seq.state ≠ .hpWait → own = [])

/-- The sequencer has nothing under way on the cage's segment: no access, no poll or initialisation timer, and no SEQ
item waits. -/
def State.NoAccess (s : State) (c : CageNo) : Prop :=
  (s.cage c).seq.access = .none ∧ (s.cage c).seq.timers.poll = none ∧ (s.cage c).seq.timers.init = none ∧
    ∀ i ∈ (s.engine (engineOf c)).waiting, i.cage = c → i.who ≠ .seq

/-- The states of a restore that a cage is in with its rail enable ON only (R42, R106, R110). -/
def SeqState.powered : SeqState → Bool
  | .powering => true
  | .identify => true
  | .decide => true
  | .hpWait => true
  | .configure => true
  | .linkWait => true
  | .inService => true
  | .degraded => true
  | _ => false

/-- What the queues rest on: a cage in a powered state, or with a module fault, has its rail ON; one that waits for low or
high power or drains, or whose rail is OFF, has nothing under way on its segment; a drain to FAULTED has a power fault
for its reason. -/
def State.WaitsQuietly (s : State) (c : CageNo) : Prop :=
  ((s.cage c).seq.state.powered = true → (s.cage c).ciu.lines.rail = true) ∧
    ((s.cage c).seq.moduleFaulted = true → (s.cage c).ciu.lines.rail = true) ∧
    ((s.cage c).seq.state = .admitWait ∨ (s.cage c).seq.state = .hpWait ∨ (s.cage c).seq.state = .draining ∨
      (s.cage c).ciu.lines.rail = false → s.NoAccess c) ∧
    ((s.cage c).seq.state = .draining → (s.cage c).seq.dest = some .faulted →
      ∃ r, (s.cage c).seq.reason = some r ∧ r.isPower = true)

/-- R120: a cage is queued exactly while it waits in ADMIT_WAIT or HP_WAIT, once, in its own group; no entry waits during
a reset (R131). -/
structure State.QueuesHold (s : State) : Prop where
  reset : s.inReset = true → ∀ g, (s.group g).queue = []
  own : ∀ g, ∀ e ∈ (s.group g).queue, groupOf e.cage = g
  once : ∀ c, s.QueuedOnce c
  quiet : ∀ c, s.WaitsQuietly c

/-- R117: the committed charge of every group is the sum of its four cages' charges. -/
def State.ChargesSum (s : State) : Prop :=
  ∀ g, (s.group g).committed = ((cagesOf g).map fun c => (s.cage c).charge).sum

/-- R182: a port's attention list holds at most one entry for a cage and one for DEVICE, and none without a kind. -/
def ListForm (l : List AttEntry) : Prop := (l.map AttEntry.who).Nodup ∧ ∀ a ∈ l, a.kinds ≠ 0

/-- R182: both attention lists have their form. -/
def State.ListsHold (s : State) : Prop := ListForm s.portA.list ∧ ListForm s.portB.list

/-- R145: an engine has the segment of its current item selected, and no other; all it holds is for its cages. -/
def State.EnginesHold (s : State) : Prop :=
  ∀ e,
    (s.engine e).selected = (s.engine e).current.map (fun k => k.item.cage) ∧
      (∀ k, (s.engine e).current = some k → engineOf k.item.cage = e) ∧
      ∀ i ∈ (s.engine e).waiting, engineOf i.cage = e

/-- R168, R169: a cage has a next poll time exactly in LINK_WAIT, IN_SERVICE and DEGRADED. -/
def State.PollsHold (s : State) : Prop :=
  ∀ c, (s.cage c).nextPoll.isSome = (s.cage c).seq.state.polled

/-- R26, R35, R38, R95, R96: the flags that a state excludes are clear in it. -/
def Ctx.FlagsHold (q : Ctx) : Prop :=
  (q.state.quiets = true → q.blank = none ∧ q.restoreNotice = false) ∧
    (q.state.frees = true → q.inUse = false ∧ q.learnPending = false) ∧
    (q.learning = true → q.state.service = true)

/-- R26, R35, R38, R95, R96, for every cage. -/
def State.FlagsHold (s : State) : Prop := ∀ c, (s.cage c).seq.FlagsHold

/-- R118, R180, R184: the settings are in their ranges and multiples of their steps, so are the budgets, and the
mask bits that stand for no kind are clear. -/
def State.SettingsHold (s : State) : Prop :=
  (1 ≤ s.settings.deviceSpacing ∧ s.settings.deviceSpacing ≤ 255) ∧
    (1 ≤ s.settings.groupSpacing ∧ s.settings.groupSpacing ≤ 255) ∧
    (1 ≤ s.settings.debounce ∧ s.settings.debounce ≤ 255) ∧
    (10 ≤ s.settings.pollInterval ∧ s.settings.pollInterval ≤ 2550 ∧ s.settings.pollInterval % 10 = 0) ∧
    (1 ≤ s.settings.reseatWindow ∧ s.settings.reseatWindow ≤ 3600) ∧
    (∀ g, (s.group g).budget ≤ 60000 ∧ (s.group g).budget % 250 = 0) ∧
    ∀ p, (s.port p).cageMask &&& 0xF000 = 0 ∧ (s.port p).deviceMask &&& 0xE0 = 0

/-- R20: the numbers of a lane entry are in their ranges. -/
def LaneEntry.InRange (e : LaneEntry) : Prop := (-8 ≤ e.trim ∧ e.trim ≤ 7) ∧ e.eq ≤ 15 ∧ e.amp ≤ 3

/-- R19 to R21: the slots of a profile are legal and its numbers are in their ranges; it has eight lane entries, a tuned
list is of eight pairs and there only with a last unit. -/
def Profile.InRange (p : Profile) : Prop :=
  p.slots.legal = true ∧ (1 ≤ p.slots.len ∧ p.slots.len ≤ 16) ∧
    (p.breakout = 1 ∨ p.breakout = 2 ∨ p.breakout = 4 ∨ p.breakout = 8) ∧
    (1 ≤ p.window ∧ p.window ≤ 255) ∧ p.priority ≤ 3 ∧ p.maxGrade ≤ 7 ∧
    (100 ≤ p.initTimeout ∧ p.initTimeout ≤ 10000) ∧ p.hpMargin ≤ 10000 ∧
    (1 ≤ p.hostWindow ∧ p.hostWindow ≤ 255) ∧ (1 ≤ p.linkTimeout ∧ p.linkTimeout ≤ 255) ∧
    p.retryLimit ≤ 7 ∧ p.overdraw ≤ 31 ∧ p.blankStart ≤ 65535 ∧ p.blankStop ≤ 65535 ∧
    p.lanes.length = 8 ∧ (∀ e ∈ p.lanes, e.InRange) ∧
    (∀ l, p.tuned = some l → p.lastUnit ≠ none ∧ l.length = 8 ∧ ∀ e ∈ l, e.eq ≤ 15 ∧ e.amp ≤ 3) ∧
    ∀ u, p.lastUnit = some u → u.grade ≤ 15

/-- R19, R20, R22: every profile is in range, and one that is not valid is the built-in one with its revision. -/
def State.ProfilesHold (s : State) : Prop :=
  ∀ c, (s.cage c).profile.InRange ∧
    ((s.cage c).profile.valid = false →
      (s.cage c).profile = { builtinProfile with revision := (s.cage c).profile.revision })

/-! ### Transitions of the sequencer -/

/-- R2, R40: a timer runs and its limit has been reached: the duration from its start is not less than its length. -/
def Reached (t : Option Timer) (now : Stamp) : Prop := ∃ x, t = some x ∧ x.len ≤ (now - x.start).toNat

/-- R17: an outage record as it closes with a result and a reason; one that is not OPEN stays as it is. -/
def closedRecord (o : Outage) (now : Stamp) (retries : Nat) (result : Result) (reason : Option Reason) : Outage :=
  if o.result = some .inProgress then
    { o with
      result := some result
      restoreDur := o.insertion.map (since now)
      retries := some retries
      reason := reason }
  else o

/-- R107: from `s` to `u` the cage has taken a module fault. Its rail stays, its reset and low-power lines are
asserted, its charge is at most 1500 with the group's committed charge following (R117), its timers stop, FAULT is
posted, an OPEN record closes; the image, the profile and the queue stay. -/
structure State.ModuleFaulted (s u : State) (c : CageNo) (r : Reason) : Prop where
  only : s.OnlyCage u c
  state : (u.cage c).seq.state = .faulted ∧ (u.cage c).seq.stage = .module ∧ (u.cage c).seq.reason = some r
  timers : (u.cage c).seq.timers = {}
  flags : (u.cage c).seq.inUse = false ∧ (u.cage c).seq.adopted = false ∧ (u.cage c).seq.learnPending = false
  lines : (u.cage c).ciu.lines = { (s.cage c).ciu.lines with reset := true, lp := true }
  charge : (u.cage c).charge = min (s.cage c).charge 1500
  group : u.group (groupOf c) =
    { s.group (groupOf c) with
      committed := (s.group (groupOf c)).committed + min (s.cage c).charge 1500 - (s.cage c).charge }
  record : (u.cage c).outage = closedRecord (s.cage c).outage s.now (s.cage c).seq.retry .faulted (some r)
  kept : (u.cage c).image = (s.cage c).image ∧ (u.cage c).profile = (s.cage c).profile
  polls : (u.cage c).nextPoll = none
  posted : s.Posted u c .fault

/-- R60: from `s` to `u` the cage has parked with a reason at a stage, with a decision source where the park gives one:
its timers stop, PARKED is posted, an OPEN record takes the source and closes; the lines, the charge, the queue, the
image and the profile stay. -/
structure State.Parked (s u : State) (c : CageNo) (r : Reason) (stage : Stage) (src : Option Source) : Prop where
  only : s.OnlyCage u c
  state : (u.cage c).seq.state = .parked ∧ (u.cage c).seq.stage = stage ∧ (u.cage c).seq.reason = some r
  timers : (u.cage c).seq.timers = {}
  flags : (u.cage c).seq.inUse = false ∧ (u.cage c).seq.learnPending = false
  source : (u.cage c).seq.source = src.or (s.cage c).seq.source
  power : (u.cage c).ciu = (s.cage c).ciu ∧ (u.cage c).charge = (s.cage c).charge ∧
    u.group (groupOf c) = s.group (groupOf c)
  record : (u.cage c).outage =
    closedRecord
      (if (s.cage c).outage.result = some .inProgress then
        { (s.cage c).outage with source := src.or (s.cage c).outage.source }
      else (s.cage c).outage) s.now (s.cage c).seq.retry .parked (some r)
  kept : (u.cage c).image = (s.cage c).image ∧ (u.cage c).profile = (s.cage c).profile
  polls : (u.cage c).nextPoll = none
  posted : s.Posted u c .parked

/-- The entry with which a cage asks for an admission now: its profile's priority, the present time (R120). -/
def State.newEntry (s : State) (c : CageNo) (k : QueueKind) (requested : Nat) : Entry :=
  ⟨c, k, requested, (s.profile c).priority, s.now, s.elapsed⟩

/-- R41, R102, R120: from `s` to `u` the cage has entered ADMIT_WAIT: the results of an earlier restore are cleared, a
LOW_POWER entry of 1500 mW has joined its group's queue, and the image is the given one; the lines, the charge, the
profile, the record and the insertion time stay. -/
structure State.Admitted (s u : State) (c : CageNo) (image : Image) : Prop where
  only : s.OnlyCage u c
  state : (u.cage c).seq.state = .admitWait ∧ (u.cage c).seq.stage = .none ∧ (u.cage c).seq.reason = none
  cleared : (u.cage c).seq.cls = none ∧ (u.cage c).seq.decision = none ∧ (u.cage c).seq.source = none ∧
    (u.cage c).seq.retry = 0 ∧ (u.cage c).seq.dest = none ∧ (u.cage c).seq.reinsertion = false
  timers : (u.cage c).seq.timers = {}
  queued : u.group (groupOf c) =
    { s.group (groupOf c) with
      queue := joinQueue (s.newEntry c .lowPower 1500) (s.group (groupOf c)).queue }
  power : (u.cage c).ciu.lines = (s.cage c).ciu.lines ∧ (u.cage c).charge = (s.cage c).charge
  image : (u.cage c).image = image
  kept : (u.cage c).profile = (s.cage c).profile ∧ (u.cage c).outage = (s.cage c).outage ∧
    (u.cage c).seq.insertion = (s.cage c).seq.insertion
  polls : (u.cage c).nextPoll = none

/-- R41, R60, R121: from `s` to `u` the cage has asked for low power with a group budget below 1500 mW, which the entry
never fits: it has parked with BUDGET, the results of an earlier restore are cleared, the image is the given one, and the
record, `o` if it is OPEN, closes with no retries; the queue, the lines, the charge and the profile stay. -/
structure State.NeverFits (s u : State) (c : CageNo) (image : Image) (o : Outage) : Prop where
  only : s.OnlyCage u c
  state : (u.cage c).seq.state = .parked ∧ (u.cage c).seq.stage = .lowPowerStage ∧
    (u.cage c).seq.reason = some .budget
  cleared : (u.cage c).seq.cls = none ∧ (u.cage c).seq.decision = none ∧ (u.cage c).seq.source = none ∧
    (u.cage c).seq.retry = 0 ∧ (u.cage c).seq.dest = none ∧ (u.cage c).seq.reinsertion = false
  timers : (u.cage c).seq.timers = {}
  group : u.group (groupOf c) = s.group (groupOf c)
  power : (u.cage c).ciu.lines = (s.cage c).ciu.lines ∧ (u.cage c).charge = (s.cage c).charge
  image : (u.cage c).image = image
  record : (u.cage c).outage = closedRecord o s.now 0 .parked (some .budget)
  kept : (u.cage c).profile = (s.cage c).profile
  polls : (u.cage c).nextPoll = none

/-- R41, R121: from `s` to `u` the cage has asked for low power with the given image: by the group's budget its entry has
joined the queue, or it has parked with BUDGET. -/
def State.AsksAdmission (s u : State) (c : CageNo) (image : Image) : Prop :=
  (1500 ≤ (s.group (groupOf c)).budget → s.Admitted u c image ∧ s.SameLists u) ∧
    ((s.group (groupOf c)).budget < 1500 →
      s.NeverFits u c image (s.cage c).outage ∧ s.Posted u c .parked ∧
        (u.cage c).seq.insertion = (s.cage c).seq.insertion)

/-- R41, R99, R102: from `s` to `u` the cage has entered EMPTY: context and insertion time are cleared; the lines, the
charge, the image, the profile and the record stay. -/
structure State.Emptied (s u : State) (c : CageNo) : Prop where
  only : s.OnlyCage u c
  state : (u.cage c).seq.state = .empty ∧ (u.cage c).seq.stage = .none ∧ (u.cage c).seq.reason = none
  cleared : (u.cage c).seq.cls = none ∧ (u.cage c).seq.decision = none ∧ (u.cage c).seq.source = none ∧
    (u.cage c).seq.retry = 0 ∧ (u.cage c).seq.insertion = none
  timers : (u.cage c).seq.timers = {}
  kept : (u.cage c).ciu.lines = (s.cage c).ciu.lines ∧ (u.cage c).charge = (s.cage c).charge ∧
    (u.cage c).profile = (s.cage c).profile
  polls : (u.cage c).nextPoll = none

/-- R101: from lines and segment as they were, the steps of one drain slot have been undone: RESET_RELEASE by
asserting module reset, RAIL_ON by turning the rail off, which asserts module reset too, BUS_CONNECT by disconnecting
the segment, at once or when the carried item ends. -/
structure Cage.Undone (k u : Cage) (t : SlotTable) (n : Nat) : Prop where
  reset : t.reset = n → u.ciu.lines.reset = true
  rail : t.rail = n → u.ciu.lines.rail = false ∧ u.ciu.lines.reset = true ∧ (k.ciu.lines.rail = true → u.charge = 0)
  held : t.rail ≠ n → u.ciu.lines.rail = k.ciu.lines.rail
  kept : t.rail ≠ n → t.reset ≠ n → u.ciu.lines.reset = k.ciu.lines.reset
  bus : t.bus = n → u.bus.seg = .disconnected ∨ u.seq.busRelease = true
  link : t.bus ≠ n → t.rail ≠ n → u.bus.seg = k.bus.seg

/-- R100, R101: from `s` to `u` a drain has started with a destination: low-power is asserted, the queue entry is gone,
the slot timer runs for the drain's first slot, whose steps are undone; the image, the profile and the record
stay. -/
structure State.Draining (s u : State) (c : CageNo) (dest : Dest) (r : Option Reason) : Prop where
  only : s.OnlyCage u c
  state : (u.cage c).seq.state = .draining ∧ (u.cage c).seq.dest = some dest ∧ (u.cage c).seq.reason = r
  slot : (u.cage c).seq.slot = (s.cage c).seq.firstDrainSlot
  timers : (u.cage c).seq.timers = { slot := some ⟨s.now, (s.cage c).seq.drainTable.len⟩ }
  flags : (u.cage c).seq.inUse = false ∧ (u.cage c).seq.adopted = false ∧ (u.cage c).seq.learnPending = false ∧
    (u.cage c).seq.reinsertion = false
  low : (u.cage c).ciu.lines.lp = true ∧ (u.cage c).charge ≤ 1500
  undone : (s.cage c).Undone (u.cage c) (s.cage c).seq.drainTable (s.cage c).seq.firstDrainSlot
  queue : (u.group (groupOf c)).queue = (s.group (groupOf c)).queue.filter fun e => decide (e.cage ≠ c)
  kept : (u.cage c).image = (s.cage c).image ∧ (u.cage c).profile = (s.cage c).profile ∧
    (u.cage c).outage = (s.cage c).outage
  polls : (u.cage c).nextPoll = none

/-- R106: from `s` to `u` a group feed fault has cut the cage, whatever its state: rail off, reset and low-power asserted,
charge 0, segment DISCONNECTED, no item of it carried or waiting, and no queue entry but the one a reinsertion has asked for;
the profile stays. -/
structure State.CutOff (s u : State) (c : CageNo) : Prop where
  lines : (u.cage c).ciu.lines = ⟨false, true, true⟩
  charge : (u.cage c).charge = 0
  bus : (u.cage c).bus.seg = .disconnected
  carried : (u.engine (engineOf c)).Free c
  waiting : ∀ i ∈ (u.engine (engineOf c)).waiting, i.cage ≠ c
  queue : (u.cage c).seq.state ≠ .admitWait → ∀ e ∈ (u.group (groupOf c)).queue, e.cage ≠ c
  profile : (u.cage c).profile = (s.cage c).profile

/-- R106: from `s` to `u` a group feed fault has cut the cage, which is FAULTED with GROUP_FEED; an OPEN record closes. -/
structure State.FeedCut (s u : State) (c : CageNo) : Prop where
  off : s.CutOff u c
  state : (u.cage c).seq.state = .faulted ∧ (u.cage c).seq.reason = some .groupFeed ∧
    (u.cage c).seq.stage = .feedActive
  timers : (u.cage c).seq.timers = {}
  record : (u.cage c).outage =
    closedRecord (s.cage c).outage s.now (s.cage c).seq.retry .faulted (some .groupFeed)

/-- R102, R106: from `s` to `u` a group feed fault has cut a cage in DRAINING: its image is EMPTY and it has gone to its
destination, for EMPTY by way of ADMIT_WAIT where a reinsertion is pending, with its first reason for FAULTED, and with
GROUP_FEED in place of ADMIT_WAIT. That the image of a cut drain to FAULTED or ADMIT_WAIT is EMPTY too is the model's reading
of R166 (log entry 22). -/
structure State.DrainCut (s u : State) (c : CageNo) : Prop where
  off : s.CutOff u c
  image : (u.cage c).image = Machine.emptyImage
  emptied : (s.cage c).seq.dest = some .empty → (s.cage c).seq.reinsertion = false →
    (u.cage c).seq.state = .empty ∧ (u.cage c).seq.insertion = none ∧ (u.cage c).outage = (s.cage c).outage
  readmitted : (s.cage c).seq.dest = some .empty → (s.cage c).seq.reinsertion = true →
    (1500 ≤ (s.group (groupOf c)).budget →
      (u.cage c).seq.state = .admitWait ∧ (u.cage c).outage = (s.cage c).outage ∧
        s.newEntry c .lowPower 1500 ∈ (u.group (groupOf c)).queue) ∧
      ((s.group (groupOf c)).budget < 1500 →
        (u.cage c).seq.state = .parked ∧ (u.cage c).seq.reason = some .budget ∧
          (u.cage c).outage = closedRecord (s.cage c).outage s.now 0 .parked (some .budget))
  kept : ∀ r, (s.cage c).seq.dest = some .faulted → (s.cage c).seq.reason = some r →
    (u.cage c).seq.state = .faulted ∧ (u.cage c).seq.stage = .power ∧ (u.cage c).seq.reason = some r ∧
      (u.cage c).outage = closedRecord (s.cage c).outage s.now (s.cage c).seq.retry .faulted (some r)
  fed : (s.cage c).seq.dest = some .admitWait → s.FeedCut u c

/-- R59, R78, R120: from `s` to `u` the cage has left DECIDE with a decision and its source for HP_WAIT: the profile is in
use, learning is pending for ADOPT_NEW or by the profile, RESTORED will be posted, the decision window has stopped, and a
HIGH_POWER entry of the declared power has joined the queue. -/
structure State.Proceeding (s u : State) (c : CageNo) (d : Decision) (src : Source) : Prop where
  only : s.OnlyCage u c
  state : (u.cage c).seq.state = .hpWait ∧ (u.cage c).seq.stage = .queued
  decided : (u.cage c).seq.decision = some d ∧ (u.cage c).seq.source = some src
  flags : (u.cage c).seq.inUse = true ∧ (u.cage c).seq.restoreNotice = true ∧
    (u.cage c).seq.learnPending = (decide (d = .adoptNew) || (s.profile c).learn)
  window : (u.cage c).seq.timers.window = none
  queued : u.group (groupOf c) =
    { s.group (groupOf c) with
      queue := joinQueue (s.newEntry c .highPower (s.declared c)) (s.group (groupOf c)).queue }
  record : (u.cage c).outage =
    if (s.cage c).outage.result = some .inProgress then { (s.cage c).outage with source := some src }
    else (s.cage c).outage
  kept : (u.cage c).ciu = (s.cage c).ciu ∧ (u.cage c).charge = (s.cage c).charge ∧
    (u.cage c).image = (s.cage c).image ∧ (u.cage c).profile = (s.cage c).profile

/-- R59, R78, R121: from `s` to `u` the cage has left DECIDE with a decision for HP_WAIT: by the group's budget its entry
has joined the queue, or it has parked with BUDGET. -/
def State.ProceedsByBudget (s u : State) (c : CageNo) (d : Decision) (src : Source) : Prop :=
  (s.declared c ≤ (s.group (groupOf c)).budget → s.Proceeding u c d src ∧ s.SameLists u) ∧
    ((s.group (groupOf c)).budget < s.declared c → s.Parked u c .budget .hpStage (some src))

/-- The decision of the cage has no adopted module at high power to regard (R191). -/
def State.Plain (s : State) (c : CageNo) : Prop :=
  (s.cage c).seq.adopted = false ∨ (s.cage c).seq.hpOn = false

/-- R191: the cage was adopted with its module at high power, on a segment that takes items. -/
def State.AtHp (s : State) (c : CageNo) : Prop :=
  (s.cage c).seq.adopted = true ∧ (s.cage c).seq.hpOn = true ∧ (s.cage c).bus.seg = .connected

/-- The newest waiting item of the cage's engine is a SEQ item of the cage, posted now. -/
def State.NewestSeq (s u : State) (c : CageNo) (i : Item) : Prop :=
  (u.engine (engineOf c)).waiting.getLast? = some i ∧ i.cage = c ∧ i.who = .seq ∧ i.posted = s.now ∧ i.joined = s.elapsed

/-- R191: from `s` to `u` the park of a module adopted at high power has begun: low-power is asserted, the charge is at
most 1500, the decision source is written, the timers stop, and the read of the HP enable byte is posted at stage
HP_DISABLE; the park itself waits for it. -/
structure State.HpDisabling (s u : State) (c : CageNo) (r : Reason) (src : Option Source) : Prop where
  only : s.OnlyCage u c
  lists : s.SameLists u
  state : (u.cage c).seq.state = (s.cage c).seq.state ∧ (u.cage c).seq.stage = .hpDisable ∧
    (u.cage c).seq.parkAs = some r ∧ (u.cage c).seq.reason = (s.cage c).seq.reason
  timers : (u.cage c).seq.timers = {}
  source : (u.cage c).seq.source = src.or (s.cage c).seq.source
  lines : (u.cage c).ciu = { (s.cage c).ciu with lines := { (s.cage c).ciu.lines with lp := true } }
  charge : (u.cage c).charge = min (s.cage c).charge 1500
  group : u.group (groupOf c) =
    { s.group (groupOf c) with
      committed := (s.group (groupOf c)).committed + min (s.cage c).charge 1500 - (s.cage c).charge }
  record : (u.cage c).outage =
    if (s.cage c).outage.result = some .inProgress then
      { (s.cage c).outage with source := src.or (s.cage c).outage.source }
    else (s.cage c).outage
  kept : (u.cage c).image = (s.cage c).image ∧ (u.cage c).profile = (s.cage c).profile
  item : ∃ i, s.NewestSeq u c i ∧ i.write = false ∧ i.len = 1 ∧ (⟨i.page, i.offset⟩ : Loc) = (s.mapOf c).hpEnable.loc

/-- R59: from `s` to `u` a decision to proceed and its source are written, the profile is in use, learning is pending for
ADOPT_NEW or by the profile, RESTORED will be posted; the lines, the charge, the identity, the queue and the profile
stay. -/
structure State.Decided (s u : State) (c : CageNo) (d : Decision) (src : Source) : Prop where
  only : s.OnlyCage u c
  lists : s.SameLists u
  decided : (u.cage c).seq.decision = some d ∧ (u.cage c).seq.source = some src
  flags : (u.cage c).seq.inUse = true ∧ (u.cage c).seq.restoreNotice = true ∧
    (u.cage c).seq.learnPending = (decide (d = .adoptNew) || (s.profile c).learn)
  record : (u.cage c).outage =
    if (s.cage c).outage.result = some .inProgress then { (s.cage c).outage with source := some src }
    else (s.cage c).outage
  kept : (u.cage c).ciu.lines = (s.cage c).ciu.lines ∧ (u.cage c).charge = (s.cage c).charge ∧
    u.group (groupOf c) = s.group (groupOf c) ∧ (u.cage c).profile = (s.cage c).profile ∧
    (u.cage c).image.identity = (s.cage c).image.identity ∧ (u.cage c).seq.cls = (s.cage c).seq.cls

/-- R191: from `s` to `u` a RESTORE of a module adopted at high power has been decided: the cage is in CONFIGURE at
LANE_MAP, where the write that disables every lane is posted first (that its stage is LANE_MAP already: log entry 29). -/
structure State.AdoptedRestores (s u : State) (c : CageNo) (src : Source) : Prop where
  decided : s.Decided u c .restore src
  state : (u.cage c).seq.state = .configure ∧ (u.cage c).seq.stage = .laneMap ∧
    (u.cage c).seq.timers.window = none
  image : (u.cage c).image = (s.cage c).image
  item : ∃ i, s.NewestSeq u c i ∧ i.write = true ∧ i.data = [0xFF] ∧
    (⟨i.page, i.offset⟩ : Loc) = (s.mapOf c).txDisable

/-- R191: from `s` to `u` an ADOPT_NEW of a module adopted at high power has been decided: the cage is in LINK_WAIT without
a write and without a retry limit, its link timer runs and it joins the polled set (R92, R168). -/
structure State.AdoptedLinks (s u : State) (c : CageNo) (src : Source) : Prop where
  decided : s.Decided u c .adoptNew src
  state : (u.cage c).seq.state = .linkWait ∧ (u.cage c).seq.stage = .none ∧ (u.cage c).seq.retryLimit = none
  timers : (u.cage c).seq.timers = { link := some ⟨s.now, (s.profile c).linkTimeout * 100⟩ }
  image : (u.cage c).image = (s.cage c).image
  polls : (u.cage c).nextPoll = some ⟨s.now, s.settings.pollInterval⟩ ∧ u.pollPending c = true

/-! ### The evaluation at DECIDE (R54, R55) -/

/-- R67: the state with the class of a cage written into its context, and with the note into an OPEN record; a decision
window has stopped. -/
def State.classed (s : State) (c : CageNo) : State :=
  s.modCage c fun k =>
    { k with
      seq := { k.seq with cls := some (s.classify c).1, timers := { k.seq.timers with window := none } }
      outage :=
        if k.outage.result = some .inProgress then
          { k.outage with cls := some (s.classify c).1, tunedExpired := (s.classify c).2 }
        else k.outage }

/-- R54: from `s` to `u` the cage parks in DECIDE with a reason, at once or, with its module adopted at high power, after
HP_DISABLE (R191). -/
def State.ParksInDecide (s u : State) (c : CageNo) (r : Reason) (src : Option Source) : Prop :=
  (s.Plain c → s.Parked u c r .decideStage src) ∧ (s.AtHp c → s.HpDisabling u c r src)

/-- R59: from `s` to `u` the cage proceeds with RESTORE, to HP_WAIT or, with its module adopted at high power, to LANE_MAP
(R191). -/
def State.Restores (s u : State) (c : CageNo) (src : Source) : Prop :=
  (s.Plain c → s.Proceeding u c .restore src ∧ s.SameLists u) ∧ (s.AtHp c → s.AdoptedRestores u c src)

/-- R55: from `s` to `u` the cage waits for a decision, at stage WINDOW with the decision window of the profile or at
NO_WINDOW without one, and DECISION_NEEDED is posted. -/
structure State.AwaitsDecision (s u : State) (c : CageNo) (window : Bool) : Prop where
  only : s.OnlyCage u c
  posted : s.Posted u c .decisionNeeded
  cage : u.cage c =
    { s.cage c with
      seq :=
        { (s.cage c).seq with
          stage := if window then .window else .noWindow
          timers :=
            { (s.cage c).seq.timers with
              window := if window then some ⟨s.now, (s.profile c).window * 100⟩ else none } } }
  group : u.group (groupOf c) = s.group (groupOf c)

/-- R54, R55: from `s` to `u` a cage in DECIDE has been evaluated: its class is written; then the first of the checks of
grade, breakout and budget that fails parks it; then the policy and the class have it proceed, wait in a window, or wait
without one. -/
def State.Evaluated (s u : State) (c : CageNo) : Prop :=
  let b := s.classed c
  let p := s.profile c
  let k := (s.classify c).1
  let i := (s.cage c).image.identity
  if p.maxGrade < min 7 (i.grade.getD 0) then b.ParksInDecide u c .gradeLimit none
  else if breakoutFits (i.breakouts.getD 0) (s.laneCount c) p.breakout = false then
    b.ParksInDecide u c .breakoutUnsupported none
  else if (s.group (groupOf c)).budget < s.declared c then b.ParksInDecide u c .budget none
  else if k = .noProfile ∨ p.policy = .manual then b.AwaitsDecision u c false
  else if k = .sameUnit ∨ k = .sameType ∧ p.policy = .auto then b.Restores u c .policy
  else b.AwaitsDecision u c true

/-- R30, R31: the state with a profile set by a request of a port, and PROFILE_CHANGED posted to the other port. -/
def State.profileSet (s : State) (p : Port) (c : CageNo) (new : Profile) : State :=
  (s.modCage c fun k => { k with profile := new }).modPort p.other fun x =>
    { x with list := addKind x.list (some c) CageKind.profileChanged.bit none }

/-- R54: from `s` to `b` the cage has entered DECIDE with a context and an image. -/
structure State.EntersDecide (s b : State) (c : CageNo) (q : Ctx) (image : Image) : Prop where
  only : s.OnlyCage b c
  lists : s.SameLists b
  replies : s.SameReplies b
  seq : (b.cage c).seq = { q with state := .decide, stage := .none, learning := false, learned := [] }
  image : (b.cage c).image = image
  kept : (b.cage c).ciu = (s.cage c).ciu ∧ (b.cage c).charge = (s.cage c).charge ∧
    (b.cage c).outage = (s.cage c).outage ∧ (b.cage c).profile = (s.cage c).profile ∧
    (b.cage c).bus = (s.cage c).bus ∧ b.group (groupOf c) = s.group (groupOf c)
  polls : (b.cage c).nextPoll = none

/-- R54, R61: from `s` to `b` a parked cage has entered DECIDE, its reason cleared. -/
def State.ReenteredDecide (s b : State) (c : CageNo) : Prop :=
  s.EntersDecide b c { (s.cage c).seq with reason := none } (s.cage c).image

/-! ### What the sequencer and the poller do with the outcome of an item -/

/-- The state with one cage replaced. -/
def State.put (s : State) (c : CageNo) (k : Cage) : State := s.modCage c fun _ => k

/-- R182: the state with a kind of one cage posted to both ports. -/
def State.withKind (s : State) (c : CageNo) (k : CageKind) : State :=
  let add (x : PortState) : PortState := { x with list := addKind x.list (some c) k.bit none }
  (s.modPort .A add).modPort .B add

/-- From `s` to `u` the cage has become `k`, and nothing else has changed. -/
def State.Becomes (s u : State) (c : CageNo) (k : Cage) : Prop := u = s.put c k

/-- From `s` to `u` the cage has become `k` and its next SEQ item, of a location and a length with the data of a write, has
joined the waiting items of its engine; nothing else has changed. -/
structure State.GoesOn (s u : State) (c : CageNo) (k : Cage) (l : Loc) (n : Nat) (data : Option (List Byte)) : Prop where
  only : s.OnlyCage u c
  lists : s.SameLists u
  replies : s.SameReplies u
  cage : u.cage c = k
  group : u.group (groupOf c) = s.group (groupOf c)
  item : u.engine (engineOf c) =
    { s.engine (engineOf c) with
      waiting := (s.engine (engineOf c)).waiting ++
        [⟨c, l.page, l.offset, n, data.isSome, data.getD [], .seq, s.now, false, s.elapsed⟩] }

/-- R47, R49, R83, R189: from `s` to `u` the poll timer has started for a read that is made again in 10 ms. -/
def State.PollsAgain (s u : State) (c : CageNo) (a : Access) : Prop :=
  s.Becomes u c
    { s.cage c with
      seq :=
        { (s.cage c).seq with
          access := a, timers := { (s.cage c).seq.timers with poll := some ⟨s.now, 10⟩ } } }

/-- A cage with the access that its SEQ item stands for. -/
def Cage.at (k : Cage) (a : Access) : Cage := { k with seq := { k.seq with access := a } }

/-- R48: the entry of the field map table that an identifier is looked up to. -/
def State.MapFound (s : State) (ident : Byte) (j : Fin 8) (m : FieldMap) : Prop :=
  s.fieldMaps[j] = some m ∧ m.ident = ident ∧ ∀ i, i < j → ∀ x, s.fieldMaps[i] = some x → x.ident ≠ ident

/-- R48: no entry of the field map table holds the identifier. -/
def State.MapMissing (s : State) (ident : Byte) : Prop := ∀ i : Fin 8, ∀ x, s.fieldMaps[i] = some x → x.ident ≠ ident

/-- R51: the identity fields in the order of their reads. -/
def fieldOrder : List IdField := [.vendor, .part, .serial, .grade, .hpDuration, .breakouts, .eqRec, .maxAmp]

/-- R51: the field read after a field: the next one in the order that the map locates, at `l`. -/
def FieldMap.Next (m : FieldMap) (f g : IdField) (l : Loc) : Prop :=
  ∃ a between b, fieldOrder = a ++ f :: between ++ g :: b ∧ (∀ x ∈ between, m.identityLoc x = none) ∧
    m.identityLoc g = some l

/-- R51: no later field is located by the map. -/
def FieldMap.Last (m : FieldMap) (f : IdField) : Prop :=
  ∃ a b, fieldOrder = a ++ f :: b ∧ ∀ x ∈ b, m.identityLoc x = none

/-- R51: the identity section after a field has been read: text as it is, the lane count of the map with the first field,
a code in the low four bits, an advertised eq held to 15 and a maximum amplitude to 3. -/
def Identity.with (i : Identity) (f : IdField) (data : List Byte) (lanes : Nat) : Identity :=
  let b := data.getD 0 0
  match f with
  | .vendor => { i with vendor := some data, laneCount := some lanes }
  | .part => { i with part := some data }
  | .serial => { i with serial := some data }
  | .grade => { i with grade := some (b.toNat % 16) }
  | .hpDuration => { i with hpDuration := some (b.toNat % 16) }
  | .breakouts => { i with breakouts := some (b &&& 0x0F) }
  | .eqRec => { i with eqRec := some (data.map fun x => min 15 x.toNat) }
  | .maxAmp => { i with maxAmp := some (min 3 b.toNat) }

/-- R48: the identifier has been read: it and the index of its map are written, and the ready flag is read next, or by an
adopted cage the first identity field; with no map the cage parks with NO_FIELD_MAP, an adopted one at low power. -/
def State.IdentTaken (s u : State) (c : CageNo) (ident : Byte) : Prop :=
  let k := s.cage c
  let img (j : Option (Fin 8)) : Image :=
    { k.image with
      identity := { k.image.identity with ident := some ident, mapIndex := j.or k.image.identity.mapIndex } }
  let q : Ctx := { k.seq with timers := { k.seq.timers with init := none } }
  (∀ j m, s.MapFound ident j m →
    (k.seq.state ≠ .adopting →
      s.GoesOn u c { k with image := img (some j), seq := { k.seq with stage := .ready, access := .readyFlag } } m.ready.loc 1
        none) ∧
      (k.seq.state = .adopting →
        s.GoesOn u c { k with image := img (some j), seq := { q with access := .identity .vendor } } m.vendor 16 none)) ∧
    (s.MapMissing ident →
      (k.seq.state ≠ .adopting →
        (s.put c { k with image := img none, seq := { q with access := .none } }).Parked u c .noFieldMap .identifyStage
          none) ∧
        (k.seq.state = .adopting → k.charge ≤ 1500 →
          (s.put c
            { k with
              image := img none
              ciu := { k.ciu with lines := { k.ciu.lines with lp := true } }
              seq := { q with access := .none, hpOn := false } }).Parked u c .noFieldMap .identifyStage none))

/-- R49: the ready flag has been read: set, it stops both timers and the first identity field is read; clear, it is read
again. -/
def State.ReadyTaken (s u : State) (c : CageNo) (b : Byte) : Prop :=
  let k := s.cage c
  let m := s.mapOf c
  (b.getLsbD m.ready.bit = true →
    s.GoesOn u c
      { k with
        seq :=
          { k.seq with
            stage := .identity
            access := .identity .vendor
            timers := { k.seq.timers with init := none, poll := none } } } m.vendor 16 none) ∧
    (b.getLsbD m.ready.bit = false → s.PollsAgain u c .readyFlag)

/-- R51, R52: an identity field has been read: it is stored and the next one is read; after the last the declared power is
stored, and the cage enters DECIDE with a VALID image and is evaluated (R54), or an adopted one reads its HP enable
byte (R189). -/
def State.FieldTaken (s u : State) (c : CageNo) (f : IdField) (data : List Byte) : Prop :=
  let k := s.cage c
  let m := s.mapOf c
  let i := k.image.identity.with f data m.laneCount
  let done : Identity := { i with declared := i.grade.map gradePower }
  (∀ g l, m.Next f g l →
    s.GoesOn u c ({ k with image := { k.image with identity := i } }.at (.identity g)) l g.width none) ∧
    (m.Last f →
      (k.seq.state = .adopting →
        s.GoesOn u c ({ k with image := { k.image with identity := done } }.at .adoptHp) m.hpEnable.loc 1 none) ∧
        (k.seq.state ≠ .adopting →
          ∃ b, s.EntersDecide b c { k.seq with access := .none } { k.image with identity := done, state := .valid } ∧
            b.Evaluated u c))

/-- R190: the module matches the last unit of a valid profile, with its high power enabled and a lane transmitting. -/
def Cage.Matched (k : Cage) : Prop :=
  k.profile.valid = true ∧ k.seq.hpOn = true ∧ k.seq.txOn = true ∧
    ∃ x, k.profile.lastUnit = some x ∧ k.image.identity.ident = some x.ident ∧
      k.image.identity.vendor = some x.vendor ∧ k.image.identity.part = some x.part ∧
      k.image.identity.serial = some x.serial

/-- R190, R92: from `s` to `u` a matched module resumes: class SAME_UNIT, decision source ADOPTED, the profile in use, in
LINK_WAIT with its link timer and no retry limit, in the polled set. -/
structure State.Resumed (s u : State) (c : CageNo) : Prop where
  state : (u.cage c).seq.state = .linkWait ∧ (u.cage c).seq.stage = .none ∧ (u.cage c).seq.retryLimit = none
  decided : (u.cage c).seq.cls = some .sameUnit ∧ (u.cage c).seq.source = some .adopted ∧
    (u.cage c).seq.decision = none
  flags : (u.cage c).seq.inUse = true ∧ (u.cage c).seq.restoreNotice = true ∧
    (u.cage c).seq.learnPending = (s.profile c).learn
  timers : (u.cage c).seq.timers = { link := some ⟨s.now, (s.profile c).linkTimeout * 100⟩ }
  record : (u.cage c).outage =
    if (s.cage c).outage.result = some .inProgress then
      { (s.cage c).outage with cls := some .sameUnit, source := some .adopted }
    else (s.cage c).outage
  polls : (u.cage c).nextPoll = some ⟨s.now, s.settings.pollInterval⟩

/-- R189 to R191: the last state byte of an adopted module has been read. Its image is VALID with the breakout it runs,
or the profile's where the byte names none that fits. At high power its charge is the declared power, with OVERCOMMIT where
the group now exceeds its budget; a matched one resumes, any other is evaluated in DECIDE. Otherwise low-power is asserted
and it is evaluated. -/
def State.Adopts (s u : State) (c : CageNo) (sel : Byte) : Prop :=
  let k := s.cage c
  let n := (sel &&& 0x0F).toNat
  let fits := (n = 1 ∨ n = 2 ∨ n = 4 ∨ n = 8) ∧ (k.image.identity.breakouts.getD 0).toNat / n % 2 = 1 ∧
    n ≤ s.laneCount c
  ∃ brk, (fits → brk = n) ∧ (¬fits → brk = (s.profile c).breakout) ∧
    (let img : Image := { k.image with state := .valid, breakout := some brk }
     (k.seq.hpOn = false → k.charge ≤ 1500 →
      ∃ b,
        (s.put c { k with ciu := { k.ciu with lines := { k.ciu.lines with lp := true } } }).EntersDecide b c
          { k.seq with access := .none } img ∧ b.Evaluated u c) ∧
      (k.seq.hpOn = true →
        ∃ b, s.OnlyCage b c ∧ (b.cage c).charge = s.declared c ∧ (b.cage c).image = img ∧
          (b.cage c).seq = { k.seq with access := .none } ∧ (b.cage c).ciu = k.ciu ∧
          (b.cage c).outage = k.outage ∧ (b.cage c).profile = k.profile ∧ (b.cage c).bus = k.bus ∧
          (b.group (groupOf c)).committed = (s.group (groupOf c)).committed + s.declared c - k.charge ∧
          (∀ p, (b.port p).list =
            if (b.group (groupOf c)).budget < (b.group (groupOf c)).committed then
              addKind (s.port p).list none DeviceKind.overcommit.bit none
            else (s.port p).list) ∧
          (k.Matched → b.summary c ≠ .allUp → b.Resumed u c) ∧
          (k.Matched → b.summary c = .allUp → (u.cage c).seq.state = .inService) ∧
          (¬k.Matched → ∃ d, b.EntersDecide d c { k.seq with access := .none } img ∧ d.Evaluated u c)))

/-- R85, R86: from `s` to `u` the cage, with `k` for what it has become, goes on to the lane of a number, with the write of
its eq, or where the module has no such lane enters HOST_SIDE: the host-side window runs and HOST_SIDE_NEEDED is posted to
port A. -/
def State.LaneNext (s u : State) (c : CageNo) (k : Cage) (lane : Nat) : Prop :=
  (lane < s.laneCount c →
    s.GoesOn u c (k.at (.laneEq lane))
      ⟨(s.mapOf c).eqControl.page, (s.mapOf c).eqControl.offset + BitVec.ofNat 8 lane⟩ 1
      (some [BitVec.ofNat 8 ((s.put c k).lanePlan c lane).eq])) ∧
    (s.laneCount c ≤ lane →
      u =
        (s.put c
          { k with
            seq :=
              { k.seq with
                stage := .hostSide
                access := .none
                timers := { k.seq.timers with hostSide := some ⟨s.now, (s.profile c).hostWindow * 10⟩ } } }).modPort
          .A fun x => { x with list := addKind x.list (some c) CageKind.hostSideNeeded.bit none })

/-- R85, R74: a lane's amplitude write is complete: the image takes the lane's pair and flags, an OPEN record the lane in its
clamped set, and the next lane follows. -/
def State.LaneTaken (s u : State) (c : CageNo) (lane : Nat) : Prop :=
  let k := s.cage c
  let p := s.lanePlan c lane
  s.LaneNext u c
    { k with
      image :=
        { k.image with
          lanes := k.image.lanes.modify lane fun l =>
            { l with pair := some ⟨p.eq, p.amp⟩, eqClamped := p.eqClamped, ampClamped := p.ampClamped } }
      outage :=
        if (p.eqClamped || p.ampClamped) = true ∧ k.outage.result = some .inProgress then
          { k.outage with clamped := k.outage.clamped ||| BitVec.ofNat 8 (2 ^ lane) }
        else k.outage } (lane + 1)

/-- R88, R92, R95: the tx-disable write is complete: the image takes the tx control of each lane of the module, the blanking
window opens, and the cage is in LINK_WAIT with its link timer and the profile's retry limit, in the polled set, where not
every link is up. -/
structure State.DatapathTaken (s u : State) (c : CageNo) : Prop where
  only : s.OnlyCage u c
  image : s.summary c ≠ .allUp →
    (u.cage c).image =
      { (s.cage c).image with
        lanes := (s.cage c).image.lanes.mapIdx fun n l =>
          if n < s.laneCount c then { l with tx := some (s.laneTx c n).1, txClamped := (s.laneTx c n).2 } else l }
  blank : (u.cage c).seq.blank = some ⟨s.now, (s.profile c).blankStart, (s.profile c).blankStop⟩
  waits : s.summary c ≠ .allUp →
    (u.cage c).seq.state = .linkWait ∧ (u.cage c).seq.stage = .none ∧
      (u.cage c).seq.retryLimit = some (s.profile c).retryLimit ∧
      (u.cage c).seq.timers = { link := some ⟨s.now, (s.profile c).linkTimeout * 100⟩ } ∧
      (u.cage c).nextPoll = some ⟨s.now, s.settings.pollInterval⟩ ∧ s.SameLists u
  serves : s.summary c = .allUp → (u.cage c).seq.state = .inService

/-- R38: the cage after a learning has ended. -/
def Cage.unlearning (k : Cage) : Cage :=
  { k with seq := { k.seq with learning := false, learned := [], inUse := false, access := .none, stage := .none } }

/-- R37: a lane's amplitude has been read back: the next lane follows, or after the last what was read back is stored: the
profile in force, valid with the next revision, the last unit of the identity section and the eight pairs held to their
bounds; PROFILE_CHANGED is posted to both ports and the profile leaves use. -/
def State.LearnTaken (s u : State) (c : CageNo) (lane eq amp : Nat) : Prop :=
  let k := s.cage c
  let got := k.seq.learned ++ [⟨eq, amp⟩]
  (lane + 1 < s.laneCount c →
    s.GoesOn u c ({ k with seq := { k.seq with learned := got } }.at (.learnEq (lane + 1)))
      ⟨(s.mapOf c).eqControl.page, (s.mapOf c).eqControl.offset + BitVec.ofNat 8 (lane + 1)⟩ 1 none) ∧
    (s.laneCount c ≤ lane + 1 →
      u =
        (s.put c
          { k with
            profile :=
              { s.profile c with
                valid := true
                revision := k.profile.revision + 1
                lastUnit := some k.image.identity.lastUnit
                tuned :=
                  some ((List.range 8).map fun n =>
                    (got.getD n ⟨((s.profile c).lane n).eq, ((s.profile c).lane n).amp⟩).clamp) } }.unlearning).withKind
          c .profileChanged)

/-- R47 to R52, R81 to R88, R37, R189 to R191: what the sequencer does with the outcome OK of its item, which stood for an
access, with the bytes read. -/
def State.SeqTook (s u : State) (c : CageNo) (a : Access) (data : List Byte) : Prop :=
  let k := s.cage c
  let m := s.mapOf c
  let b := data.getD 0 0
  let breakout := some [BitVec.ofNat 8 (s.breakoutToWrite c)]
  match a with
  | .none => s.Becomes u c (k.at .none)
  | .ident => s.IdentTaken u c b
  | .readyFlag => s.ReadyTaken u c b
  | .identity f => s.FieldTaken u c f data
  | .adoptHp =>
    s.GoesOn u c
      ({ k with seq := { k.seq with hpOn := b.getLsbD m.hpEnable.bit && !k.ciu.lines.lp } }.at .adoptTx) m.txDisable 1 none
  | .adoptTx =>
    s.GoesOn u c
      ({ k with
        seq :=
          { k.seq with txOn := (List.range (s.laneCount c)).any fun n => !b.getLsbD n } }.at .adoptBreakout)
      m.breakoutSel 1 none
  | .adoptBreakout => s.Adopts u c b
  | .txFirst =>
    if k.seq.stage = .hpEnable then s.GoesOn u c (k.at .hpRead) m.hpEnable.loc 1 none
    else s.GoesOn u c (k.at .breakout) m.breakoutSel 1 breakout
  | .hpRead =>
    s.GoesOn u c (k.at (.hpWrite (b ||| BitVec.ofNat 8 (2 ^ m.hpEnable.bit)))) m.hpEnable.loc 1
      (some [b ||| BitVec.ofNat 8 (2 ^ m.hpEnable.bit)])
  | .hpWrite _ =>
    s.GoesOn u c
      ({ k with
        seq :=
          { k.seq with
            stage := .hpSettle
            timers :=
              { k.seq.timers with
                settle :=
                  some ⟨s.now,
                    min 30000 (hpDuration (k.image.identity.hpDuration.getD 0) + (s.profile c).hpMargin)⟩ } } }.at
        .hpDone) m.hpDone.loc 1 none
  | .hpDone =>
    if b.getLsbD m.hpDone.bit then
      s.GoesOn u c
        ({ k with
          seq :=
            { k.seq with
              stage := .laneMap, timers := { k.seq.timers with settle := none, poll := none } } }.at .breakout)
        m.breakoutSel 1 breakout
    else s.PollsAgain u c .hpDone
  | .breakout =>
    s.GoesOn u c
      ({ k with
        image := { k.image with breakout := some (s.breakoutToWrite c) }
        seq := { k.seq with stage := .laneSettings } }.at .txAll) m.txDisable 1 (some [0xFF])
  | .txAll => s.LaneNext u c k 0
  | .laneEq n =>
    s.GoesOn u c (k.at (.laneAmp n)) ⟨m.ampControl.page, m.ampControl.offset + BitVec.ofNat 8 n⟩ 1
      (some [BitVec.ofNat 8 (s.lanePlan c n).amp])
  | .laneAmp n => s.LaneTaken u c n
  | .squelch => s.GoesOn u c (k.at .txDisable) m.txDisable 1 (some [s.txDisableByte c])
  | .txDisable => s.DatapathTaken u c
  | .learnEq n =>
    s.GoesOn u c (k.at (.learnAmp n b.toNat)) ⟨m.ampControl.page, m.ampControl.offset + BitVec.ofNat 8 n⟩ 1 none
  | .learnAmp n eq => s.LearnTaken u c n eq b.toNat
  | .hpOffRead =>
    s.GoesOn u c (k.at (.hpOffWrite (b &&& ~~~(BitVec.ofNat 8 (2 ^ m.hpEnable.bit))))) m.hpEnable.loc 1
      (some [b &&& ~~~(BitVec.ofNat 8 (2 ^ m.hpEnable.bit))])
  | .hpOffWrite _ => ∀ r, k.seq.parkAs = some r → (s.put c (k.at .none)).Parked u c r .decideStage none

/-- R47, R49, R53, R80, R83, R38, R189, R191: what the sequencer does with the outcome NO_RESPONSE of its item: a poll is
made again, a learning is abandoned, an identity or adoption read is the module fault ID_READ, any other access
CONFIG_WRITE. -/
def State.SeqFailed (s u : State) (c : CageNo) (a : Access) : Prop :=
  let faults (r : Reason) : Prop := (s.put c ((s.cage c).at .none)).ModuleFaulted u c r ∧ s.SameReplies u
  match a with
  | .none => s.Becomes u c ((s.cage c).at .none)
  | .ident => s.PollsAgain u c .ident
  | .readyFlag => s.PollsAgain u c .readyFlag
  | .hpDone => s.PollsAgain u c .hpDone
  | .learnEq _ => s.Becomes u c (s.cage c).unlearning
  | .learnAmp _ _ => s.Becomes u c (s.cage c).unlearning
  | .identity _ => faults .idRead
  | .adoptHp => faults .idRead
  | .adoptTx => faults .idRead
  | .adoptBreakout => faults .idRead
  | .txFirst => faults .configWrite
  | .hpRead => faults .configWrite
  | .hpWrite _ => faults .configWrite
  | .breakout => faults .configWrite
  | .txAll => faults .configWrite
  | .laneEq _ => faults .configWrite
  | .laneAmp _ => faults .configWrite
  | .squelch => faults .configWrite
  | .txDisable => faults .configWrite
  | .hpOffRead => faults .configWrite
  | .hpOffWrite _ => faults .configWrite

/-- R95: a blanking window is in force. -/
def Blanked (b : Option Blank) (now : Stamp) : Prop :=
  ∃ x, b = some x ∧ x.start ≤ (now - x.datapath).toNat ∧ (now - x.datapath).toNat < x.stop

/-- R165, R171: from `s` to `u` a successful poll has been taken: the status section holds its reading by the positions of
a map, a byte beyond the data as 0, with no failures; a STALE image is VALID; LANE_LOSS is posted where a lane of the
module has newly lost its signal outside the blanking window, MODULE_ALERT where the alert is newly set. -/
structure State.PollTook (s u : State) (c : CageNo) (m : FieldMap) (data : List Byte) : Prop where
  only : s.OnlyCage u c
  replies : s.SameReplies u
  cage :
    let loss := data.getD m.lossPos 0 &&& BitVec.ofNat 8 (2 ^ s.laneCount c - 1)
    u.cage c =
      { s.cage c with
        image :=
          { (s.cage c).image with
            status :=
              ⟨some (data.getD m.tempPos 0 ++ data.getD (m.tempPos + 1) 0), some loss,
                some ((data.getD m.alertPos 0).getLsbD m.alertBit), some s.now, 0⟩
            state := if (s.cage c).image.state = .stale then .valid else (s.cage c).image.state } }
  lists : ∀ p,
    let old := (s.cage c).image.status
    let loss := data.getD m.lossPos 0 &&& BitVec.ofNat 8 (2 ^ s.laneCount c - 1)
    let l1 := (s.port p).list
    ∃ l2,
      (loss &&& ~~~(old.laneLoss.getD 0) ≠ 0 ∧ ¬Blanked (s.cage c).seq.blank s.now →
        l2 = addKind l1 (some c) CageKind.laneLoss.bit none) ∧
        (¬(loss &&& ~~~(old.laneLoss.getD 0) ≠ 0 ∧ ¬Blanked (s.cage c).seq.blank s.now) → l2 = l1) ∧
        (u.port p).list =
          if (data.getD m.alertPos 0).getLsbD m.alertBit = true ∧ old.alert ≠ some true then
            addKind l2 (some c) CageKind.moduleAlert.bit none
          else l2

/-- R172: from `s` to `u` a poll has failed: the failure count rises to at most 3; at the third in a row a VALID image goes
STALE and MODULE_ALERT is posted. -/
structure State.PollMissed (s u : State) (c : CageNo) : Prop where
  only : s.OnlyCage u c
  replies : s.SameReplies u
  cage : u.cage c =
    { s.cage c with
      image :=
        { (s.cage c).image with
          status := { (s.cage c).image.status with failures := min 3 ((s.cage c).image.status.failures + 1) }
          state :=
            if (s.cage c).image.status.failures = 2 ∧ (s.cage c).image.state = .valid then .stale
            else (s.cage c).image.state } }
  lists : ∀ p, (u.port p).list =
    if (s.cage c).image.status.failures = 2 ∧ (s.cage c).image.state = .valid then
      addKind (s.port p).list (some c) CageKind.moduleAlert.bit none
    else (s.port p).list

/-- R145, R146: the state in which an engine has put its item down: it carries nothing and has no segment selected, and the
cage of the item has the given page shadow and hold-off. -/
def State.putAside (s : State) (e : EngineNo) (c : CageNo) (shadow : Option Byte) (hold : Option Timer) : State :=
  (s.modEngine e fun g => { g with current := none, selected := none }).modBus c fun b =>
    { b with shadow := shadow, hold := hold }

/-- R149: the page shadow that an item leaves at its end where no transaction of its own failed: UNKNOWN after a port's write
over the page-select offset; of the upper window its page, or the prior page of a read with the restore-page flag; as it was
after any other item of the lower window. -/
def Carry.shadowAfter (k : Carry) (shadow : Option Byte) : Option Byte :=
  if k.item.who ≠ .seq ∧ k.item.who ≠ .poll ∧ k.item.write = true ∧ k.item.offset.toNat ≤ k.map.pageSel.toNat ∧
      k.map.pageSel.toNat < k.item.offset.toNat + k.item.len then none
  else if 128 ≤ k.item.offset.toNat then
    some (if k.item.restore = true ∧ k.item.write = false then k.prior.getD k.item.page else k.item.page)
  else shadow

/-- R151: the hold-off after a write. -/
def Carry.holdAfter (k : Carry) (hold : Option Timer) (now : Stamp) : Option Timer :=
  if k.item.write = true ∧ 0 < k.map.holdOff then some ⟨now, k.map.holdOff⟩ else hold

/-- R149, R151: the state in which an engine has put down an item that ended OK. -/
def State.finished (s : State) (e : EngineNo) (k : Carry) : State :=
  s.putAside e k.item.cage (k.shadowAfter (s.cage k.item.cage).bus.shadow)
    (k.holdAfter (s.cage k.item.cage).bus.hold s.now)

/-- R149, R151: the state in which an engine has put down an item that ended NO_RESPONSE: the shadow is UNKNOWN where the
page-select write failed, or the item was to restore the page. -/
def State.unanswered (s : State) (e : EngineNo) (k : Carry) : State :=
  s.putAside e k.item.cage
    (if k.phase = .pageSelect ∨
        k.item.restore = true ∧ 128 ≤ k.item.offset.toNat ∧ k.item.write = false then none
     else k.shadowAfter (s.cage k.item.cage).bus.shadow)
    (k.holdAfter (s.cage k.item.cage).bus.hold s.now)

/-- R146: the outcome of a port's item is its answer. -/
def State.answered (s : State) (p : Port) (status : ReplyStatus) (code target : Byte) (data : List Byte) : State :=
  s.modPort p fun x => { x with request := none, reply := .answered status code target data }

/-- R149: a read of the upper window with the restore-page flag whose prior page is known and another: a write that puts it
back follows its bursts. -/
def Carry.PutsBack (k : Carry) : Prop :=
  k.item.restore = true ∧ k.item.write = false ∧ 128 ≤ k.item.offset.toNat ∧
    ∃ p, k.prior = some p ∧ p ≠ k.item.page

/-- R149, R150: with a completed transaction, which brought `data`, every byte of the item has been transferred and no page
is to be put back, so that the item ends OK with `got`. -/
def Carry.EndsWith (k : Carry) (data got : List Byte) : Prop :=
  (k.phase = .burst ∧ ¬k.PutsBack ∧ k.item.len ≤ k.done + min k.map.burst (k.item.len - k.done) ∧
      (k.item.write = false → data.length = min k.map.burst (k.item.len - k.done)) ∧
      got = if k.item.write then k.got else k.got ++ data) ∨
    (k.phase = .restorePage ∧ got = k.got)

/-- R101: from `s` to `u` the drain of a cage that waited for a carried item to end has gone on: the segment is DISCONNECTED,
and if the slot has lasted its length the next lower one has started. A cage that does not wait so is as it was. -/
def State.DrainGoesOn (s u : State) (c : CageNo) : Prop :=
  let q := (s.cage c).seq
  (q.state ≠ .draining ∨ q.busRelease = false → u = s) ∧
    (q.state = .draining → q.busRelease = true →
      s.OnlyCage u c ∧ (u.cage c).bus.seg = .disconnected ∧ (u.cage c).bus.shadow = none ∧
        (∀ i ∈ (u.engine (engineOf c)).waiting, i.cage ≠ c) ∧
        (q.slot = 0 ∨ ¬Reached q.timers.slot s.now →
          (u.cage c).seq = { q with busRelease := false, stage := .slot q.slot } ∧
            (u.cage c).ciu = (s.cage c).ciu ∧ (u.cage c).charge = (s.cage c).charge) ∧
        ∀ n, q.slot = n + 1 → Reached q.timers.slot s.now →
          (s.cage c).Undone (u.cage c) q.drainTable n ∧
            (u.cage c).seq =
              { q with
                slot := n
                busRelease := false
                stage := .slot n
                timers := { q.timers with slot := some ⟨s.now, q.drainTable.len⟩ } })

/-! ### Bring-up -/

/-- R44, R46, R47: from `s` to `u` a bring-up slot has started with its length and its steps, BUS_CONNECT, RESET_RELEASE and
READY_POLL, and is the slot of the last step performed (R100) where it holds one; the last slot of the table has ended
POWERING: the cage is in IDENTIFY at FIND, and the identifier is read. -/
structure State.SlotStarted (s u : State) (c : CageNo) (t : SlotTable) (n : Nat) : Prop where
  slot : (u.cage c).seq.slot = n
  top : (u.cage c).seq.topSlot =
    if n = t.rail ∨ n = t.bus ∨ n = t.reset ∨ n = t.ready then n else (s.cage c).seq.topSlot
  lines : (u.cage c).ciu.lines =
    { (s.cage c).ciu.lines with reset := if t.reset = n then false else (s.cage c).ciu.lines.reset }
  segment : (u.cage c).bus.seg = if t.bus = n then .connected else (s.cage c).bus.seg
  init : (u.cage c).seq.timers.init =
    if t.ready = n then some ⟨s.now, (s.profile c).initTimeout⟩ else (s.cage c).seq.timers.init
  kept : (u.cage c).charge = (s.cage c).charge ∧ (u.cage c).profile = (s.cage c).profile
  goesOn : n < max t.bus t.ready →
    (u.cage c).seq.state = .powering ∧ (u.cage c).seq.timers.slot = some ⟨s.now, t.len⟩ ∧
      (u.cage c).seq.stage = if t.ready ≤ n ∧ n < t.bus then .busWait else .slot n
  ends : max t.bus t.ready ≤ n →
    (u.cage c).seq.state = .identify ∧ (u.cage c).seq.stage = .find ∧ (u.cage c).seq.timers.slot = none ∧
      (u.cage c).seq.timers.pgLimit = none ∧ ∃ i, s.NewestSeq u c i ∧ i.write = false ∧ i.offset = 0 ∧ i.len = 1

/-- R189: from `s` to `u` the reading of an adopted module has started: the timeout runs, an EMPTY image is IDENTIFYING, and
the identifier is read. -/
structure State.ReadingStarted (s u : State) (c : CageNo) : Prop where
  init : (u.cage c).seq.timers.init = some ⟨s.now, (s.profile c).initTimeout⟩
  image : (u.cage c).image =
    { (s.cage c).image with
      state := if (s.cage c).image.state = .empty then .identifying else (s.cage c).image.state }
  item : ∃ i, s.NewestSeq u c i ∧ i.write = false ∧ i.offset = 0 ∧ i.len = 1

/-! ### The rail monitor -/

/-- R135: the window with a power value, at most the four latest, oldest first. -/
def windowWith (w : List Nat) (power : Nat) : List Nat := (w ++ [power]).drop (w.length + 1 - 4)

/-- R135, R139, R140: with a power value the window is full, and its average, rounded to the nearest milliwatt, is above
the limit: the limit basis times 100 plus the margin, by 100. -/
def Rlm.GoesOver (r : Rlm) (power margin : Nat) : Prop :=
  (windowWith r.window power).length = 4 ∧
    ∃ b, r.basis = some b ∧ b * (100 + margin) / 100 < ((windowWith r.window power).sum + 2) / 4

/-- R136, R140 to R142: the fault report of an evaluated pair, made while none has been made: RAIL_FAIL for a good rail
whose voltage code is below 760, otherwise OVERDRAW above 20000 mW or at the third average in a row above the limit. -/
def Rlm.Reports (r : Rlm) (vc : BitVec 10) (power margin : Nat) (f : Reason) : Prop :=
  r.reported = false ∧
    (f = .railFail ∧ r.pg = .good ∧ vc.toNat < 760 ∨
      f = .overdraw ∧ ¬(r.pg = .good ∧ vc.toNat < 760) ∧
        (20000 < power ∨ r.GoesOver power margin ∧ 2 ≤ r.run))

/-- R136, R140: an evaluated pair that brings no report: its power joins the window, the power-good state moves with
hysteresis between the codes 785 and 760, and the overdraw run goes up, or back to 0, or stays where no average or no
report is left. -/
structure Rlm.Judges (r u : Rlm) (vc : BitVec 10) (power margin : Nat) : Prop where
  window : u.window = windowWith r.window power
  good : u.pg =
    if r.pg = .notYet ∧ 785 ≤ vc.toNat then .good else if r.pg = .good ∧ vc.toNat < 760 then .lost else r.pg
  reported : u.reported = r.reported
  above : r.reported = false → r.GoesOver power margin → u.run = r.run + 1
  within : r.reported = false → ¬r.GoesOver power margin → r.basis ≠ none →
    (windowWith r.window power).length = 4 → u.run = 0
  stays : r.reported = true ∨ r.basis = none ∨ (windowWith r.window power).length < 4 → u.run = r.run

/-! ### Following the link -/

/-- R91: a link slot of the stream is one of the used ones of a cage: of the breakout's ports, spread over the lanes. -/
def State.UsesSlot (s : State) (c : CageNo) (n : Nat) : Prop :=
  ∃ k, k < (s.cage c).image.breakout.getD 1 ∧
    n = c.val * 8 + k * (s.laneCount c / (s.cage c).image.breakout.getD 1)

/-- R37: ALL_UP would start the learning of the cage: it stands in LINK_WAIT with learning pending. -/
def State.LearningDue (s : State) (c : CageNo) : Prop :=
  (s.cage c).seq.state = .linkWait ∧ (s.cage c).seq.learnPending = true

/-- R92, R94 to R96: from `s` to `u` the sequencer has evaluated the link summary of a cage. In LINK_WAIT, ALL_UP ends the
restore: IN_SERVICE, the record closed, RESTORED posted where its notice is due, and learning started where it is
pending. In IN_SERVICE and DEGRADED a known summary that differs from the last known one, or ends STREAM_LOST, gives the
state and the reason, with LINK_CHANGE where it differs and no blanking window is in force, and RESTORED where it is due. In
every other case nothing changes. -/
structure State.LinkEvaluated (s u : State) (c : CageNo) : Prop where
  only : s.OnlyCage u c
  waits : (s.cage c).seq.state = .linkWait → s.summary c ≠ .allUp → u = s
  other : (s.cage c).seq.state ≠ .linkWait → (s.cage c).seq.state ≠ .inService → (s.cage c).seq.state ≠ .degraded →
    u = s
  restored : (s.cage c).seq.state = .linkWait → s.summary c = .allUp →
    (u.cage c).outage = closedRecord (s.cage c).outage s.now (s.cage c).seq.retry .inService none ∧
      ((s.cage c).seq.learnPending = false →
        (u.cage c).seq =
            { (s.cage c).seq with
              state := .inService
              stage := .none
              reason := none
              timers := { (s.cage c).seq.timers with link := none }
              lastKnown := some .allUp
              adopted := false
              restoreNotice := false
              inUse := false } ∧
          ∀ p, (u.port p).list =
            if (s.cage c).seq.restoreNotice then addKind (s.port p).list (some c) CageKind.restored.bit none
            else (s.port p).list) ∧
      ((s.cage c).seq.learnPending = true → (s.cage c).bus.seg = .connected → 0 < s.laneCount c →
        (u.cage c).seq.state = .inService ∧ (u.cage c).seq.stage = .learning ∧ (u.cage c).seq.learning = true ∧
          (u.cage c).seq.learnPending = false ∧ (u.cage c).seq.inUse = (s.cage c).seq.inUse ∧
          ∃ i, s.NewestSeq u c i ∧ i.write = false ∧ i.len = 1 ∧
            (⟨i.page, i.offset⟩ : Loc) = (s.mapOf c).eqControl)
  same : (s.cage c).seq.state = .inService ∨ (s.cage c).seq.state = .degraded →
    s.summary c = .unknown ∨
        (s.cage c).seq.lastKnown = some (s.summary c) ∧ (s.cage c).seq.reason ≠ some .streamLost →
    u = s
  moved : (s.cage c).seq.state = .inService ∨ (s.cage c).seq.state = .degraded → s.summary c ≠ .unknown →
    (s.cage c).seq.lastKnown ≠ some (s.summary c) ∨ (s.cage c).seq.reason = some .streamLost →
    u.cage c =
        { s.cage c with
          seq :=
            { (s.cage c).seq with
              state := if s.summary c = .allUp then .inService else .degraded
              reason :=
                if s.summary c = .allUp then none
                else if s.summary c = .someUp then some .partialLink else some .linkDown
              lastKnown := some (s.summary c)
              restoreNotice := decide (s.summary c ≠ .allUp) && (s.cage c).seq.restoreNotice } } ∧
      ∀ p, ∃ l,
        ((s.cage c).seq.lastKnown ≠ some (s.summary c) ∧ ¬Blanked (s.cage c).seq.blank s.now →
          l = addKind (s.port p).list (some c) CageKind.linkChange.bit none) ∧
          (¬((s.cage c).seq.lastKnown ≠ some (s.summary c) ∧ ¬Blanked (s.cage c).seq.blank s.now) →
            l = (s.port p).list) ∧
          (u.port p).list =
            if s.summary c = .allUp ∧ (s.cage c).seq.restoreNotice = true then
              addKind l (some c) CageKind.restored.bit none
            else l

/-- R90, R91: from `s` to `u`, a step that ends with the stream as in `u`, a cage has been told and has evaluated its link
summary, whatever other cages have been told before and after it. -/
def State.Told (s u : State) (c : CageNo) : Prop :=
  ∃ a b : State, ({ s with lsr := u.lsr } : State).SameDevice a ∧ a.cage c = s.cage c ∧
    (∀ p, entriesOf (a.port p).list c = entriesOf (s.port p).list c) ∧ a.LinkEvaluated b c ∧ b.cage c = u.cage c ∧
    ∀ p, entriesOf (u.port p).list c = entriesOf (b.port p).list c

/-- From `s` to `u` a cage and its attention entries are as they were. -/
def State.Untold (s u : State) (c : CageNo) : Prop :=
  u.cage c = s.cage c ∧ ∀ p, entriesOf (u.port p).list c = entriesOf (s.port p).list c

/-- R87, R88: from `s` to `u` stage DATAPATH_ENABLE has started with the write of the squelch-disable byte where the map
has that field, and of the tx-disable byte where it has not. -/
structure State.DatapathStarted (s u : State) (c : CageNo) : Prop where
  only : s.OnlyCage u c
  lists : s.SameLists u
  seq : (u.cage c).seq =
    { (s.cage c).seq with
      stage := .datapathEnable
      access := (u.cage c).seq.access
      timers := { (s.cage c).seq.timers with hostSide := none } }
  kept : (u.cage c).image = (s.cage c).image ∧ (u.cage c).ciu = (s.cage c).ciu
  item : ∃ i, (u.engine (engineOf c)).waiting = (s.engine (engineOf c)).waiting ++ [i] ∧ i.cage = c ∧ i.who = .seq ∧
    i.write = true ∧
    (∀ l, (s.mapOf c).squelch = some l → (⟨i.page, i.offset⟩ : Loc) = l ∧ i.data = [s.squelchByte c]) ∧
    ((s.mapOf c).squelch = none →
      (⟨i.page, i.offset⟩ : Loc) = (s.mapOf c).txDisable ∧ i.data = [s.txDisableByte c])

/-- R93, R96: from `s` to `u` the cage has entered DEGRADED from LINK_WAIT with a reason and a last known summary: the
record closes, DEGRADED is posted, the profile leaves use. -/
structure State.RestoredDegraded (s u : State) (c : CageNo) (r : Reason) (known : Option Summary) : Prop where
  only : s.OnlyCage u c
  replies : s.SameReplies u
  posted : s.Posted u c .degraded
  state : (u.cage c).seq.state = .degraded ∧ (u.cage c).seq.reason = some r ∧ (u.cage c).seq.lastKnown = known
  flags : (u.cage c).seq.inUse = false ∧ (u.cage c).seq.learnPending = false
  timer : (u.cage c).seq.timers.link = none
  record : (u.cage c).outage = closedRecord (s.cage c).outage s.now (s.cage c).seq.retry .degraded (some r)
  kept : (u.cage c).ciu = (s.cage c).ciu ∧ (u.cage c).charge = (s.cage c).charge

/-- R125: a last inrush record at a time: one whose grant lies 255 ms back or more is LAPSED. -/
def Inrush.after (r : Inrush) (now : Stamp) : Inrush :=
  match r with
  | .active t => if 255 ≤ (now - t).toNat then .lapsed t else .active t
  | .lapsed t => .lapsed t
  | .none => .none

/-- R9, R10: the cage's candidate has held a debounce time, the line standing at its level. -/
def State.HeldFor (s : State) (c : CageNo) (n : Nat) : Prop :=
  ∃ x, (s.cage c).ciu.candidate = some x ∧ (s.cage c).ciu.presentPin = x.level ∧ n ≤ (s.now - x.capture).toNat

/-- R111: the cage of a group is parked with BUDGET, and a budget covers it: an unpowered one from 1500 mW on, a powered one
from its declared power on. -/
def State.BudgetCovers (s : State) (g : GroupNo) (c : CageNo) (n : Nat) : Prop :=
  groupOf c = g ∧ (s.cage c).seq.state = .parked ∧ (s.cage c).seq.reason = some .budget ∧
    (if (s.cage c).ciu.lines.rail then s.declared c else 1500) ≤ n

/-! ### Derived values -/

/-- A number held to a range: the nearer bound for one outside it. -/
def heldTo (lo hi n : Nat) : Nat := if n < lo then lo else if hi < n then hi else n

/-- R159: the field map places a field of a width at a location. -/
def FieldMap.Places (m : FieldMap) (l : Loc) (n : Nat) : Prop :=
  (n = 16 ∧ (l = m.vendor ∨ l = m.part ∨ l = m.serial)) ∨
    (n = 1 ∧ (l = m.grade ∨ l = m.ready.loc ∨ l = m.hpDuration ∨ l = m.breakouts ∨ l = m.hpEnable.loc ∨
      l = m.hpDone.loc ∨ l = m.txDisable ∨ l = m.breakoutSel ∨ m.maxAmp = some l ∨ m.squelch = some l)) ∨
    (n = 8 ∧ m.eqRec = some l) ∨ (n = m.laneCount ∧ (l = m.eqControl ∨ l = m.ampControl)) ∨
    (n = m.statusLen ∧ l = m.status)

/-- R148: `n` bytes from an offset lie wholly in one window. -/
def OneWindow (offset : Byte) (n : Nat) : Prop :=
  offset.toNat + n ≤ 128 ∨ 128 ≤ offset.toNat ∧ offset.toNat + n ≤ 256

/-- R76: a breakout is in a module's supported set, whose lowest four bits stand for 1, 2, 4 and 8 ports, and not greater
than the lane count. -/
def BreakoutFits (supported : Byte) (lanes p : Nat) : Prop :=
  (∃ n, n < 4 ∧ p = 2 ^ n ∧ supported.getLsbD n = true) ∧ p ≤ lanes

/-- R65: the reseat window test of a cage: the record's removal time and the context's insertion time are there and not
further apart than the window; a restore that began at adoption takes it as met. -/
def State.WindowMet (s : State) (c : CageNo) : Prop :=
  (s.cage c).seq.sinceAdoption = true ∨
    ∃ r t, (s.cage c).outage.removal = some r ∧ (s.cage c).seq.insertion = some t ∧
      (t - r).toNat ≤ s.settings.reseatWindow * 1000

/-! ### Resets -/

/-- R186 and the power-on sentences of R5, R39, R40, R89, R118, R137, R158, R166, R173, R174, R180, R182, R184: what
every block holds right after power-on, besides what the input lines decide. -/
structure State.PoweredOn (u : State) : Prop where
  time : u.now = 0 ∧ u.elapsed = 0 ∧ u.inReset = false ∧ u.cause = .powerOn
  settings : u.settings = ⟨4, 20, 20, 100, 300⟩
  scan : u.scanCage = 0 ∧ u.deviceLast = .none
  maps : u.fieldMaps[0] = some builtinMap61 ∧ u.fieldMaps[1] = some builtinMap62 ∧
    ∀ i : Fin 8, 2 ≤ i.val → u.fieldMaps[i] = none
  stream : u.lsr = ⟨false, none, none, none, none⟩
  ports : ∀ p, u.port p = ⟨none, .idle, [⟨none, DeviceKind.restarted.bit, some .powerOn⟩], 0, 0⟩
  groups : ∀ g, (u.group g).budget = 20000 ∧ (u.group g).committed = 0 ∧ (u.group g).queue = [] ∧
    (u.group g).last = .none ∧ (u.group g).feedActive = (u.group g).feedPin
  engines : ∀ e, u.engine e = ⟨none, none, [], none⟩
  lines : ∀ c, (u.cage c).ciu.lines = ⟨false, true, true⟩ ∧ (u.cage c).charge = 0
  presence : ∀ c, (u.cage c).ciu.presence = .absent ∧ (u.cage c).ciu.latch = none ∧ (u.cage c).ciu.settle = none ∧
    (u.cage c).ciu.candidate = if (u.cage c).ciu.presentPin then some ⟨true, 0⟩ else none
  context : ∀ c, (u.cage c).seq = clearCtx .empty
  profiles : ∀ c, (u.cage c).profile = builtinProfile
  records : ∀ c, (u.cage c).outage = ⟨none, none, none, none, none, none, none, none, 0, none, false, false⟩
  rails : ∀ c, (u.cage c).rlm = offRlm
  segments : ∀ c, (u.cage c).bus = offBus
  images : ∀ c, (u.cage c).image = Machine.emptyImage ∧ (u.cage c).nextPoll = none

/-- R186: what the assertion of the reset pin leaves. Retained: the time base, the settings, the inrush records, the
field maps, the budgets, charges and committed charges, the output lines, the segments, the profiles and the outage
records. Ended: queues, items, replies, attention lists, masks, images, polls and sequencer contexts. -/
structure State.Asserted (s u : State) : Prop where
  device : u.now = s.now ∧ u.elapsed = s.elapsed ∧ u.settings = s.settings ∧ u.deviceLast = s.deviceLast ∧ u.fieldMaps = s.fieldMaps ∧
    u.cause = s.cause ∧ u.releaseTime = s.releaseTime ∧ u.pending = s.pending
  stream : u.lsr = ⟨false, none, none, none, none⟩
  ports : ∀ p, u.port p = ⟨none, .idle, [], 0, 0⟩
  groups : ∀ g, u.group g = { s.group g with queue := [] }
  engines : ∀ e, u.engine e = ⟨none, none, [], none⟩
  retained : ∀ c, (u.cage c).ciu.lines = (s.cage c).ciu.lines ∧ (u.cage c).charge = (s.cage c).charge ∧
    (u.cage c).profile = (s.cage c).profile ∧ (u.cage c).outage = (s.cage c).outage
  segments : ∀ c, (u.cage c).bus = { (s.cage c).bus with shadow := none, recovery := false }
  presence : ∀ c, (u.cage c).ciu =
    { (s.cage c).ciu with presence := .unsettled, candidate := none, latch := none, settle := none }
  context : ∀ c, (u.cage c).seq = clearCtx .empty
  rails : ∀ c, (u.cage c).rlm = { (s.cage c).rlm with window := [], vc := none, ic := none, power := none }
  images : ∀ c, (u.cage c).image = Machine.emptyImage ∧ (u.cage c).nextPoll = none

/-- R131, R117: the charges that the powered cages of a group take at a release, summed. -/
def State.heldCharges (s : State) (g : GroupNo) : Nat :=
  ((cagesOf g).map fun c => if (s.cage c).ciu.lines.rail then 1500 else 0).sum

/-- R131: at a release from the held lines of `s` the cage stays as its lines are: its group's feed-fault input is
inactive or its rail is OFF. -/
def State.StaysHeld (s : State) (c : CageNo) : Prop :=
  (s.group (groupOf c)).feedPin = false ∨ (s.cage c).ciu.lines.rail = false

/-- R186, R131, R138, R143, R158, R187: what a release of the reset leaves from the held lines of `s`. Every cage is
ADOPTING, with its charge, segment, rail monitor and power-good limit set from its rail, but a powered cage of a group whose
feed-fault input is active, which has been cut. RESTARTED is the first posting, with OVERCOMMIT where the held charges of a
group exceed its budget. -/
structure State.Released (s u : State) (cause : ResetCause) : Prop where
  device : u.now = s.now ∧ u.elapsed = s.elapsed ∧ u.settings = s.settings ∧ u.deviceLast = s.deviceLast ∧ u.fieldMaps = s.fieldMaps ∧
    u.cause = cause ∧ u.releaseTime = s.now ∧ u.scanCage = 0 ∧ u.lsr = s.lsr ∧ u.pending = s.pending
  slots : ∀ p, (∀ e, (s.engine e).current = none ∧ (s.engine e).waiting = []) →
    (u.port p).reply = (s.port p).reply ∧ (u.port p).request = (s.port p).request
  masks : ∀ p, (u.port p).cageMask = (s.port p).cageMask ∧ (u.port p).deviceMask = (s.port p).deviceMask
  restarted : ∀ p, (s.port p).list = [] →
    ∃ a, (u.port p).list.head? = some a ∧ a.who = none ∧ a.cause = some cause ∧
      ((∀ g, s.heldCharges g ≤ (s.group g).budget) → a.kinds = DeviceKind.restarted.bit) ∧
      ∀ g, (s.group g).budget < s.heldCharges g →
        a.kinds = DeviceKind.restarted.bit ||| DeviceKind.overcommit.bit
  noOther : ∀ p, (∀ c, s.StaysHeld c) → (∀ g, s.heldCharges g ≤ (s.group g).budget) →
    (u.port p).list = addKind (s.port p).list none DeviceKind.restarted.bit (some cause)
  groups : ∀ g, (s.group g).queue = [] →
    u.group g =
      { s.group g with
        committed := if (s.group g).feedPin then 0 else s.heldCharges g
        feedActive := (s.group g).feedPin }
  engines : ∀ e, s.engine e = ⟨none, none, [], none⟩ → u.engine e = ⟨none, none, [], none⟩
  kept : ∀ c, (u.cage c).profile = (s.cage c).profile ∧ (u.cage c).image = (s.cage c).image ∧
    (u.cage c).nextPoll = none ∧ (u.cage c).ciu.settle = some s.now ∧
    (u.cage c).ciu.presence = (s.cage c).ciu.presence ∧ (u.cage c).ciu.candidate = (s.cage c).ciu.candidate
  adopting : ∀ c, s.StaysHeld c →
    (u.cage c).seq =
        { clearCtx .adopting with
          timers := { pgLimit := if (s.cage c).ciu.lines.rail then some ⟨s.now, 50⟩ else none } } ∧
      (u.cage c).ciu = { (s.cage c).ciu with settle := some s.now } ∧
      (u.cage c).charge = (if (s.cage c).ciu.lines.rail then 1500 else 0) ∧
      (u.cage c).bus = ⟨if (s.cage c).ciu.lines.rail then .connected else .disconnected, none, none, false⟩ ∧
      (u.cage c).outage = (s.cage c).outage
  rails : ∀ c, s.StaysHeld c →
    (u.cage c).rlm =
      { (s.cage c).rlm with
        window := []
        pg := if (s.cage c).ciu.lines.rail then .notYet else .off
        basis := if (s.cage c).ciu.lines.rail then some 18000 else none
        pending := none
        run := 0
        reported := false
        reset18 := (s.cage c).ciu.lines.rail
        onPair := (s.cage c).ciu.lines.rail }
  cut : ∀ c, (s.group (groupOf c)).feedPin = true → (s.cage c).ciu.lines.rail = true →
    (u.cage c).ciu.lines = ⟨false, true, true⟩ ∧ (u.cage c).charge = 0 ∧ (u.cage c).bus.seg = .disconnected ∧
      (u.cage c).seq.state = .faulted ∧ (u.cage c).seq.stage = .feedActive ∧
      (u.cage c).seq.reason = some .groupFeed ∧ (u.cage c).seq.timers = {} ∧
      (u.cage c).rlm.pg = .off ∧ (u.cage c).rlm.basis = none ∧
      (u.cage c).outage = closedRecord (s.cage c).outage s.now 0 .faulted (some .groupFeed) ∧
      ∀ p, ∃ a ∈ (u.port p).list, a.who = some c ∧ a.kinds &&& CageKind.fault.bit ≠ 0

/-! ### Requests -/

/-- A port takes a request (R174, R176 checks 1 to 4): the part is out of reset, the port's reply slot is not PENDING,
and the body is `n` bytes long, as the header says. `sel` is 1 for a row that stands for a selector byte. -/
structure State.Takes (s : State) (q : Req) (sel n : Nat) : Prop where
  awake : s.inReset = false
  idle : (s.port q.port).busy = false
  header : q.len.toNat = sel + n
  body : q.body.length = n

/-- R177: what the target byte of a request names. -/
inductive Target where
  | cage
  | group
  | entry
  | nothing
deriving DecidableEq, Repr

/-- R177: a row of the table of requests: what the target byte names, the least and the most body bytes, and the ports with
the right to it. -/
structure RequestForm where
  target : Target
  least : Nat
  most : Nat
  ports : List Port
deriving DecidableEq, Repr

/-- R177: a row whose body has one length. -/
def RequestForm.of (target : Target) (bytes : Nat) (ports : List Port) : RequestForm := ⟨target, bytes, bytes, ports⟩

/-- R177: the table of requests by their codes. -/
def requestForm (code : Byte) : Option RequestForm :=
  match code.toNat with
  | 0x01 => some (.of .cage 0 [.A, .B])
  | 0x02 => some (.of .cage 130 [.A, .B])
  | 0x03 => some (.of .cage 2 [.A, .B])
  | 0x04 => some (.of .cage 1 [.A, .B])
  | 0x05 => some (.of .cage 0 [.A, .B])
  | 0x06 => some (.of .cage 0 [.A])
  | 0x07 => some (.of .cage 0 [.A, .B])
  | 0x08 => some (.of .cage 1 [.A, .B])
  | 0x09 => some (.of .cage 0 [.A, .B])
  | 0x0A => some (.of .cage 1 [.A, .B])
  | 0x0B => some (.of .cage 0 [.A, .B])
  | 0x0C => some (.of .group 0 [.A, .B])
  | 0x0D => some (.of .cage 4 [.A, .B])
  | 0x0E => some ⟨.cage, 2, 65535, [.A, .B]⟩
  | 0x0F => some (.of .entry 50 [.A, .B])
  | 0x10 => some (.of .entry 0 [.A, .B])
  | 0x11 => some (.of .nothing 0 [.A, .B])
  | 0x12 => some (.of .nothing 3 [.A, .B])
  | 0x13 => some (.of .group 2 [.B])
  | 0x14 => some (.of .nothing 3 [.B])
  | 0x15 => some (.of .nothing 0 [.A, .B])
  | 0x16 => some (.of .nothing 0 [.B])
  | _ => none

/-- A port takes a request for a cage (R176 check 5). -/
structure State.TakesFor (s : State) (q : Req) (sel n : Nat) (c : CageNo) : Prop where
  takes : s.Takes q sel n
  target : q.target.toNat = c.val

/-- A request of a port has been taken and answered: its reply slot holds the status and the data, with the code and
the target echoed (R174, R185), and the port serves no request. -/
def State.replied (s : State) (q : Req) (code : Byte) (status : ReplyStatus) (data : List Byte) : State :=
  s.modPort q.port fun x => { x with request := none, reply := .answered status code q.target data }

/-- R174: the port's reply slot holds the answer to a request, and the other port's slots are as they were in `s`. -/
structure State.Answered (s u : State) (q : Req) (code : Byte) (status : ReplyStatus) (data : List Byte) : Prop where
  reply : (u.port q.port).reply = .answered status code q.target data ∧ (u.port q.port).request = none
  other : (u.port q.port.other).reply = (s.port q.port.other).reply ∧
    (u.port q.port.other).request = (s.port q.port.other).request

/-- No passthrough of a port waits or is carried, as it is whenever the port's reply slot is not PENDING. -/
def State.NoPass (s : State) (p : Port) : Prop :=
  ∀ e, (∀ i ∈ (s.engine e).waiting, i.who ≠ .port p) ∧
    ∀ k, (s.engine e).current = some k → k.item.who ≠ .port p

/-- R168: the item the poller posts for a cage. -/
def State.statusItem (s : State) (c : CageNo) : Item :=
  ⟨c, (s.mapOf c).status.page, (s.mapOf c).status.offset, (s.mapOf c).statusLen, false, [], .poll, s.now, false, s.elapsed⟩

/-- R174, R156, R157: from `s` to `u` a passthrough request has been taken and its item has joined the waiting items of
the cage's engine; the port's reply slot is PENDING. -/
structure State.PassPosted (s u : State) (q : Req) (c : CageNo) (code : Byte) (i : Item) : Prop where
  device : s.SameDevice u
  cages : ∀ d, u.cage d = s.cage d
  groups : ∀ g, u.group g = s.group g
  port : u.port q.port =
    { s.port q.port with
      request := some ([code, q.target] ++ bytesOf16 q.len ++ q.body)
      reply := .pending code q.target }
  other : u.port q.port.other = s.port q.port.other
  engines : ∀ e, u.engine e =
    if e = engineOf c then { s.engine e with waiting := (s.engine e).waiting ++ [i] } else s.engine e

end Sys2Proof.Machine
end

