-- ==== Sys2Proof/Certificates/Slice0/Obligations.lean ====
section
/-! DEFINITION. The statements about the BZ7320: what each command does, what every step keeps, and how a request is
read. A statement that a command completes has the form: the command answers `next u.settle`, where `u` holds what
the command itself does and `settle` is the end of the step, at which waiting heads are tested and free engines
choose (R123, R155; what that can change is SettleTouchesLittle). -/

open Sys2Proof Sys2Proof.Machine

/-! ### Steps, resets -/

/-- A step takes the command at the front of the queue and runs it with the queue's rest. -/
def Obligations.StepRunsFrontCommand : Prop :=
  ∀ (s : State) (i : Instr) (rest : List Instr), s.pending = i :: rest → step s = exec i { s with pending := rest }

/-- R1, and the model's choice of log entry 2: a step with no command waiting is one millisecond of the time base, and
nothing else but its count without a wrap (log entry 47) changes, in a reset too. -/
def Obligations.IdleStepCountsTime : Prop :=
  ∀ s : State, s.pending = [] → step s = .next { s with now := s.now + 1, elapsed := s.elapsed + 1 }

/-- POWER_ON (R186) and the state the model starts in hold the power-on values of every block. It is the model's choice
that the levels of the input lines stay as the outside holds them (log entry 1), and that POWER_ON takes the reset pin as
released and leaves the waiting commands (log entry 34). -/
def Obligations.PowerOnValues : Prop :=
  State.reset.PoweredOn ∧
    ∀ s : State, ∃ u, exec .powerOn s = .next u ∧ u.PoweredOn ∧ u.pending = s.pending ∧
      (∀ c, (u.cage c).ciu.presentPin = (s.cage c).ciu.presentPin ∧
        (u.cage c).ciu.attentionPin = (s.cage c).ciu.attentionPin) ∧
      ∀ g, (u.group g).feedPin = (s.group g).feedPin

/-- RESET_PIN_ASSERT (R186): what is retained, the time base, the settings, the lines, the charges, the profiles and the
outage records among it, and what is ended or cleared, the sequencer contexts, the images, the queues, the items, the
stream and the ports among it; an asserted pin asserted again changes nothing. -/
def Obligations.ResetPinAsserted : Prop :=
  ∀ s : State,
    (s.inReset = false → ∃ u, exec .resetPinAssert s = .next u ∧ u.inReset = true ∧ s.Asserted u) ∧
      (s.inReset = true → exec .resetPinAssert s = .next s)

/-- RESET_PIN_RELEASE and RESTART from port B (R186): every block takes its values from the held lines, and RESTARTED
is posted with the cause. A RESTART is an assertion, with all that it ends and retains, and a release in one step. That
OVERCOMMIT is judged on the charges of the held lines, before the cages of a group whose feed is in fault are cut, is the
model's reading (log entry 38). -/
def Obligations.ResetReleased : Prop :=
  (∀ s : State, s.inReset = true →
    ∃ u, exec .resetPinRelease s = .next u.settle ∧ u.inReset = false ∧ s.Released u .resetPin) ∧
    ∀ (s : State) (q : Req), s.Takes q 0 0 → q.port = .B →
      ∃ a u, exec (.restart q) s = .next u.settle ∧ s.Asserted a ∧ a.inReset = false ∧ a.Released u .restart ∧
        u.inReset = false ∧ (∀ p, (u.port p).reply = .idle) ∧ ∀ g, (u.group g).queue = []

/-- R186: while the reset pin is asserted, a command other than power-on, the release, a change of an input line or the
lapse of an inrush record (R125) changes nothing. -/
def Obligations.ResetHoldsCommandsOff : Prop :=
  ∀ (s : State) (i : Instr), s.inReset = true → i ≠ .powerOn → i ≠ .resetPinRelease →
    (∀ c l, i ≠ .presentLineChange c l) → (∀ c l, i ≠ .attentionEdge c l) → (∀ g, i ≠ .groupFeedFaultActive g) →
    (∀ g, i ≠ .groupFeedFaultInactive g) → (∀ r, i ≠ .inrushRecordLapse r) → exec i s = .next s

/-! ### Invariants -/

/-- Every invariant below holds at reset. -/
def Obligations.InvariantsHoldAtReset : Prop :=
  State.reset.ResetsHold ∧ State.reset.MonitorHolds ∧ State.reset.ChargesSum ∧ State.reset.ListsHold ∧
    State.reset.EnginesHold ∧ State.reset.PollsHold ∧ State.reset.FlagsHold ∧ State.reset.SettingsHold ∧
    State.reset.ProfilesHold ∧ State.reset.QueuesHold

/-- R4: every step keeps it that a cage's module reset line is asserted whenever its rail enable is off. -/
def Obligations.ResetFollowsRailOff : Prop :=
  ∀ s t : State, s.ResetsHold → step s = .next t → t.ResetsHold

/-- R137: every step keeps it that the rail monitor of a cage stands as its rail enable does. -/
def Obligations.MonitorFollowsRail : Prop :=
  ∀ s t : State, s.MonitorHolds → step s = .next t → t.MonitorHolds

/-- R117: every step keeps it that a group's committed charge is the sum of its four cages' charges. R120: every step keeps
it that a cage is queued exactly in ADMIT_WAIT or HP_WAIT, once, and in its own group, with what `WaitsQuietly` says of its
rail and its segment beside it. -/
def Obligations.CommittedChargeIsSum : Prop :=
  ∀ s t : State, step s = .next t → (s.ChargesSum → t.ChargesSum) ∧ (s.QueuesHold → t.QueuesHold)

/-- R182: every step keeps the form of the attention lists. -/
def Obligations.AttentionListsKeepForm : Prop :=
  ∀ s t : State, s.ListsHold → step s = .next t → t.ListsHold

/-- R145: every step keeps it that an engine has selected the segment of its current item, and no other. -/
def Obligations.EnginesSelectCurrent : Prop :=
  ∀ s t : State, s.EnginesHold → step s = .next t → t.EnginesHold

/-- R168, R169: every step keeps it that a cage has a next poll time exactly in LINK_WAIT, IN_SERVICE and DEGRADED. -/
def Obligations.PollScheduleFollowsState : Prop :=
  ∀ s t : State, s.PollsHold → step s = .next t → t.PollsHold

/-- R26, R35, R38, R95, R96: every step keeps it that the flags a sequencer state excludes are clear in it. -/
def Obligations.FlagsFollowState : Prop :=
  ∀ s t : State, s.FlagsHold → step s = .next t → t.FlagsHold

/-- R118, R180, R184: every step keeps the settings, the budgets and the masks in their ranges. -/
def Obligations.SettingsStayInRange : Prop :=
  ∀ s t : State, s.SettingsHold → step s = .next t → t.SettingsHold

/-- R19 to R22, R29: every step keeps the profiles in range, the tuned list and the last unit's grade among them (a
tuned list is of eight pairs and there only with a last unit, R21), and one that is not valid built-in. -/
def Obligations.ProfilesStayInRange : Prop :=
  ∀ s t : State, s.ProfilesHold → step s = .next t → t.ProfilesHold

/-! ### Requests as a master writes them -/

/-- R174, R185: the transaction that a well-formed request command stands for is read as that command. -/
def Obligations.TransactionRoundTrip : Prop :=
  ∀ (i : Instr) (p : Port) (raw : List Byte), i.wf = true → encodeTransaction i = some (p, raw) →
    decodeTransaction p raw = some i

/-- R174, R176: every write transaction with data bytes is read as one well-formed command, from which its bytes can be
written again: no bit of a transaction is dropped. -/
def Obligations.TransactionLosesNothing : Prop :=
  ∀ (p : Port) (raw : List Byte), raw ≠ [] →
    ∃ i, decodeTransaction p raw = some i ∧ i.wf = true ∧ encodeTransaction i = some (p, raw)

/-! ### Frames -/

/-- A command about one cage, an event that names it or a request that targets it, touches that cage only: the rest of
the part is as it was before the end of the step, the queue entries of the other cages of its group, the items of the other
cages of its engine, and the slots of a port at which it was not written and which has no passthrough for the cage. -/
def Obligations.CageCommandsTouchOneCage : Prop :=
  ∀ (s : State) (i : Instr) (c : CageNo), commandCage i = some c →
    ∃ u, (exec i s = .next u ∨ exec i s = .next u.settle) ∧ s.OnlyCage u c ∧
      ∀ p, commandPort i ≠ some p → s.NoPassFor c p →
        (u.port p).reply = (s.port p).reply ∧ (u.port p).request = (s.port p).request

/-- The end of a step (R123, R155). Where no head is granted it is the engines' choice alone. Where one is, its group and
the device take the inrush, the granted cage alone is touched besides, and then the engines choose. The engines' choice
changes nothing but engines and hold-offs: a busy engine, and a free one with nothing it can start, stay as they are; any
other starts the item R155 chooses. That heads are tested and engines choose once, at the end of a step, is the model's
reading (log entry 7), and so is that only the head of a waiting cage is granted (log entry 8). -/
def Obligations.SettleTouchesLittle : Prop :=
  ∀ s : State,
    (s.winner = none → s.settle = s.chooseAll) ∧
      (∀ g e, s.winner = some (g, e) → groupOf e.cage = g →
        ∃ u, s.settle = u.chooseAll ∧ (s.headTaken g).OnlyCage u e.cage ∧ s.SameReplies u ∧
          (e.kind = .lowPower → (u.cage e.cage).seq.state = .powering ∧ (u.cage e.cage).charge = 1500) ∧
          (e.kind = .highPower → (s.cage e.cage).bus.seg = .connected →
            (u.cage e.cage).seq.state = .configure ∧ (u.cage e.cage).charge = e.requested)) ∧
      (s.SameDevice s.chooseAll ∧ (∀ g, s.chooseAll.group g = s.group g) ∧ (∀ p, s.chooseAll.port p = s.port p) ∧
        ∀ c, ∃ h, s.chooseAll.cage c = { s.cage c with bus := { (s.cage c).bus with hold := h } } ∧
          (h = (s.cage c).bus.hold ∨ h = none)) ∧
      (s.EnginesHold → ∀ e,
        ((s.engine e).current ≠ none ∨ (∀ i, ¬s.Startable e i) → s.chooseAll.engine e = s.engine e) ∧
          ((s.engine e).current = none → ∀ j, s.Startable e j →
            ∃ i, s.Chosen e i ∧ s.chooseAll.engine e = s.engineStarted e i ∧
              (s.chooseAll.cage i.cage).bus.hold = none))

/-! ### Presence and attention -/

/-- PRESENT_LINE_CHANGE (R7, R8, R12). A change of the raw line outside a settle interval opens a candidate with its
capture time when the line leaves the accepted presence, and ends a candidate when there is one; in a settle interval
it starts the interval again; during a reset only the line's level moves. Nothing else of the part changes. -/
def Obligations.PresentLineChanges : Prop :=
  ∀ (s : State) (c : CageNo) (level : Bool), level ≠ (s.cage c).ciu.presentPin →
    ∃ k : Ciu, exec (.presentLineChange c level) s = .next (s.modCiu c fun _ => k) ∧
      k = { (s.cage c).ciu with presentPin := level, candidate := k.candidate, settle := k.settle } ∧
      (s.inReset = true → k.candidate = (s.cage c).ciu.candidate ∧ k.settle = (s.cage c).ciu.settle) ∧
      (s.inReset = false →
        (∀ t, (s.cage c).ciu.settle = some t → k.settle = some s.now ∧ k.candidate = (s.cage c).ciu.candidate) ∧
          ((s.cage c).ciu.settle = none → k.settle = none ∧
            (∀ x, (s.cage c).ciu.candidate = some x → k.candidate = none) ∧
            ((s.cage c).ciu.candidate = none →
              ((s.cage c).ciu.presence = (if level then .present else .absent) → k.candidate = none) ∧
                ((s.cage c).ciu.presence ≠ (if level then .present else .absent) →
                  k.candidate = some ⟨level, s.now⟩))))

/-- CANDIDATE_ACCEPTED of an insertion (R9, R16, R41, R103): after the debounce time the cage is PRESENT, its record is
OPEN with the capture time and the outage duration (R2), INSERTED is posted; an EMPTY cage enters ADMIT_WAIT and asks
for low power, or parks where the group's budget is below 1500 (R121); a draining one notes the reinsertion. An entry joins
a queue by R120: behind every entry up to the first that has a lower priority, or the same one with a higher cage number and
joined in the same millisecond, as the count of log entry 47 tells it (the model's choice); every other keeps its place. -/
def Obligations.InsertionIsAccepted : Prop :=
  (∀ (e : Entry) (q : List Entry),
    let passes : Entry → Prop := fun x =>
      x.priority < e.priority ∨ x.priority = e.priority ∧ x.joined = e.joined ∧ e.cage < x.cage
    ∃ l r, q = l ++ r ∧ joinQueue e q = l ++ e :: r ∧ (∀ x ∈ l, ¬passes x) ∧ ∀ x, r.head? = some x → passes x) ∧
  ∀ (s : State) (c : CageNo) (t : Stamp), s.inReset = false → (s.cage c).ciu.candidate = some ⟨true, t⟩ →
    (s.cage c).ciu.presentPin = true → s.settings.debounce ≤ (s.now - t).toNat →
    (let old := if (s.cage c).outage.result = none then (s.cage c).outage else emptyOutage
     let o :=
      { old with
        insertion := some t, duration := old.removal.map fun r => (t - r).toNat, result := some .inProgress }
     ∃ u, exec (.candidateAccepted c) s = .next u.settle ∧ s.OnlyCage u c ∧
      (u.cage c).ciu.presence = .present ∧ (u.cage c).ciu.candidate = none ∧
      (u.cage c).ciu.lines = (s.cage c).ciu.lines ∧ (u.cage c).charge = (s.cage c).charge ∧
      (u.cage c).profile = (s.cage c).profile ∧ (u.cage c).image = (s.cage c).image ∧
      ((s.cage c).seq.state ≠ .empty ∨ 1500 ≤ (s.group (groupOf c)).budget →
        (u.cage c).outage = o ∧ s.Posted u c .inserted) ∧
      ((s.cage c).seq.state = .empty → (u.cage c).seq.insertion = some t ∧
        (1500 ≤ (s.group (groupOf c)).budget →
          (u.cage c).seq.state = .admitWait ∧
            (u.group (groupOf c)).queue =
              joinQueue (s.newEntry c .lowPower 1500) (s.group (groupOf c)).queue) ∧
        ((s.group (groupOf c)).budget < 1500 →
          s.NeverFits u c (s.cage c).image o ∧
            ∀ p, (u.port p).list =
              addKind (addKind (s.port p).list (some c) CageKind.parked.bit none) (some c) CageKind.inserted.bit
                none)) ∧
      ((s.cage c).seq.state = .draining →
        (u.cage c).seq = { (s.cage c).seq with insertion := some t, reinsertion := true }))

/-- CANDIDATE_ACCEPTED of a removal (R9, R14, R16, R98, R99): after the debounce time the cage is ABSENT, its record is
cleared and holds the removal time, its image is EMPTY and REMOVED is posted; a powered cage starts a drain to EMPTY,
a draining one is sent to EMPTY, and any other enters EMPTY. -/
def Obligations.RemovalIsAccepted : Prop :=
  ∀ (s : State) (c : CageNo) (t : Stamp), s.inReset = false → (s.cage c).ciu.candidate = some ⟨false, t⟩ →
    (s.cage c).ciu.presentPin = false → s.settings.debounce ≤ (s.now - t).toNat →
    ∃ u, exec (.candidateAccepted c) s = .next u.settle ∧ s.OnlyCage u c ∧ s.Posted u c .removed ∧
      (u.cage c).ciu.presence = .absent ∧ (u.cage c).ciu.candidate = none ∧ (u.cage c).ciu.latch = none ∧
      (u.cage c).outage = { emptyOutage with removal := some t } ∧ (u.cage c).image = emptyImage ∧
      (u.cage c).profile = (s.cage c).profile ∧ (u.cage c).seq.insertion = none ∧ (u.cage c).seq.cls = none ∧
      ((s.cage c).ciu.lines.rail = true → (s.cage c).seq.state ≠ .draining →
        (u.cage c).seq.state = .draining ∧ (u.cage c).seq.dest = some .empty ∧ (u.cage c).ciu.lines.lp = true ∧
          (u.cage c).seq.timers = { slot := some ⟨s.now, (s.cage c).seq.drainTable.len⟩ } ∧
          (u.group (groupOf c)).queue = (s.group (groupOf c)).queue.filter fun e => decide (e.cage ≠ c)) ∧
      ((s.cage c).seq.state = .draining →
        (u.cage c).seq.state = .draining ∧ (u.cage c).seq.dest = some .empty ∧
          (u.cage c).seq.timers = (s.cage c).seq.timers ∧ (u.cage c).seq.reinsertion = false) ∧
      ((s.cage c).ciu.lines.rail = false → (s.cage c).seq.state ≠ .draining →
        (u.cage c).seq.state = .empty ∧ (u.cage c).seq.timers = {} ∧
          (u.group (groupOf c)).queue = (s.group (groupOf c)).queue.filter fun e => decide (e.cage ≠ c))

/-- SETTLE_INTERVAL_END (R12, R187, R188): the line's level becomes the adoption presence. A cage in ADOPTING that is found
absent goes to EMPTY, through a drain if its rail is on, and a record with a result becomes WAITING; a present one
with its rail off enters ADMIT_WAIT, or parks where the group's budget is below 1500 (R121), one held in reset is drained
to ADMIT_WAIT, and one running is adopted. A cage already DRAINING or FAULTED stays so when it is present, with a new record,
which closes at once in FAULTED; found absent, its drain goes to EMPTY, or it enters EMPTY from a power fault. That the settle
time of a record is the time of the step is the model's reading (log entry 25). -/
def Obligations.AdoptionPresenceIsTaken : Prop :=
  ∀ (s : State) (c : CageNo) (t : Stamp), s.inReset = false → (s.cage c).ciu.settle = some t →
    s.settings.debounce ≤ (s.now - t).toNat →
    ((s.cage c).seq.state = .adopting →
     ∃ u, exec (.settleIntervalEnd c) s = .next u.settle ∧ s.OnlyCage u c ∧ (u.cage c).ciu.settle = none ∧
      (u.cage c).ciu.presence = (if (s.cage c).ciu.presentPin then .present else .absent) ∧
      (u.cage c).profile = (s.cage c).profile ∧
      ((s.cage c).ciu.presentPin = false →
        (u.cage c).outage =
            (if (s.cage c).outage.result = none then (s.cage c).outage
             else { emptyOutage with removal := some s.now }) ∧
          ((s.cage c).outage.result ≠ none → s.Posted u c .removed) ∧
          ((s.cage c).ciu.lines.rail = true →
            (u.cage c).seq.state = .draining ∧ (u.cage c).seq.dest = some .empty) ∧
          ((s.cage c).ciu.lines.rail = false → (u.cage c).seq.state = .empty)) ∧
      ((s.cage c).ciu.presentPin = true → (s.cage c).ciu.lines.rail = false →
        (s.group (groupOf c)).budget < 1500 →
        (u.cage c).seq.insertion = some s.releaseTime ∧ s.Posted u c .parked ∧
          s.NeverFits u c (s.cage c).image
            { emptyOutage with insertion := some s.releaseTime, result := some .inProgress }) ∧
      ((s.cage c).ciu.presentPin = true → (s.cage c).ciu.lines.rail = false →
        1500 ≤ (s.group (groupOf c)).budget →
        (u.cage c).seq.state = .admitWait ∧ (u.cage c).seq.insertion = some s.releaseTime ∧
          (u.cage c).outage =
            { emptyOutage with insertion := some s.releaseTime, result := some .inProgress } ∧
          (u.group (groupOf c)).queue =
            joinQueue (s.newEntry c .lowPower 1500) (s.group (groupOf c)).queue) ∧
      ((s.cage c).ciu.presentPin = true → (s.cage c).ciu.lines.rail = true → (s.cage c).ciu.lines.reset = true →
        (u.cage c).seq.state = .draining ∧ (u.cage c).seq.dest = some .admitWait ∧
          (u.cage c).seq.insertion = some s.releaseTime ∧
          (u.cage c).outage =
            { emptyOutage with insertion := some s.releaseTime, result := some .inProgress }) ∧
      ((s.cage c).ciu.presentPin = true → (s.cage c).ciu.lines.rail = true → (s.cage c).ciu.lines.reset = false →
        (s.cage c).bus.seg = .connected →
        (u.cage c).seq.state = .adopting ∧ (u.cage c).seq.adopted = true ∧
          (u.cage c).ciu.lines = (s.cage c).ciu.lines ∧
          (u.cage c).outage =
            (if (s.cage c).outage.result = some .inProgress then (s.cage c).outage
             else { emptyOutage with insertion := some s.releaseTime, result := some .inProgress }) ∧
          ((s.cage c).seq.pgHeld = true → s.ReadingStarted u c) ∧
          ((s.cage c).seq.pgHeld = false → (u.cage c).image = (s.cage c).image))) ∧
      ((s.cage c).seq.state = .draining ∨ (s.cage c).seq.state = .faulted →
        ∃ u, exec (.settleIntervalEnd c) s = .next u.settle ∧ s.OnlyCage u c ∧ (u.cage c).ciu.settle = none ∧
          (u.cage c).ciu.presence = (if (s.cage c).ciu.presentPin then .present else .absent) ∧
          (u.cage c).profile = (s.cage c).profile ∧
          ((s.cage c).ciu.presentPin = true →
            s.SameLists u ∧ (u.cage c).seq = { (s.cage c).seq with insertion := some s.releaseTime } ∧
              (u.cage c).ciu.lines = (s.cage c).ciu.lines ∧ (u.cage c).image = (s.cage c).image ∧
              (let o : Outage := { emptyOutage with insertion := some s.releaseTime, result := some .inProgress }
               (u.cage c).outage =
                if (s.cage c).seq.state = .faulted then
                  closedRecord o s.now (s.cage c).seq.retry .faulted (s.cage c).seq.reason
                else o)) ∧
          ((s.cage c).ciu.presentPin = false →
            (u.cage c).image = emptyImage ∧ (u.cage c).seq.insertion = none ∧ (u.cage c).seq.reason = none ∧
              (u.cage c).outage =
                (if (s.cage c).outage.result = none then (s.cage c).outage
                 else { emptyOutage with removal := some s.now }) ∧
              ((s.cage c).outage.result ≠ none → s.Posted u c .removed) ∧
              ((s.cage c).outage.result = none → s.SameLists u) ∧
              ((s.cage c).seq.state = .draining →
                (u.cage c).seq.state = .draining ∧ (u.cage c).seq.dest = some .empty ∧
                  (u.cage c).seq.timers = (s.cage c).seq.timers) ∧
              ((s.cage c).seq.state = .faulted → (s.cage c).ciu.lines.rail = false →
                (u.cage c).seq.state = .empty)))

/-- ATTENTION_EDGE (R13, R170): a falling edge is latched with its time when the cage is present, powered and out of
reset; the poller takes the latch of a cage in the polled set and posts a POLL item, which fails at once on a STUCK segment
(R147). One that is pending serves the latch, and an edge that finds the cage LATCHED is merged. A rising edge, and a falling
edge that is not latched, move the line only. -/
def Obligations.AttentionEdgeIsTaken : Prop :=
  ∀ (s : State) (c : CageNo),
    exec (.attentionEdge c false) s = .next (s.modCiu c fun k => { k with attentionPin := false }) ∧
      (s.inReset = false → (s.cage c).ciu.attentionPin = false →
        ((s.cage c).ciu.presence ≠ .present ∨ (s.cage c).ciu.lines.rail = false ∨
            (s.cage c).ciu.lines.reset = true ∨ (s.cage c).ciu.latch ≠ none →
          exec (.attentionEdge c true) s =
            .next (s.modCiu c fun k => { k with attentionPin := true }).settle) ∧
          ((s.cage c).ciu.presence = .present → (s.cage c).ciu.lines.rail = true →
            (s.cage c).ciu.lines.reset = false → (s.cage c).ciu.latch = none →
            ((s.cage c).nextPoll = none →
              exec (.attentionEdge c true) s =
                .next (s.modCiu c fun k => { k with attentionPin := true, latch := some s.now }).settle) ∧
              ((s.cage c).nextPoll ≠ none → s.pollPending c = true →
                exec (.attentionEdge c true) s =
                  .next (s.modCiu c fun k => { k with attentionPin := true, latch := none }).settle) ∧
              ((s.cage c).nextPoll ≠ none → s.pollPending c = false → (s.cage c).bus.seg = .stuck →
                ∃ u, exec (.attentionEdge c true) s = .next u.settle ∧
                  (s.modCiu c fun k => { k with attentionPin := true, latch := none }).PollMissed u c) ∧
              ((s.cage c).nextPoll ≠ none → s.pollPending c = false → (s.cage c).bus.seg = .connected →
                ∃ u, exec (.attentionEdge c true) s = .next u.settle ∧ s.OnlyCage u c ∧
                  (u.cage c).ciu = { (s.cage c).ciu with attentionPin := true, latch := none } ∧
                  (u.engine (engineOf c)).waiting = (s.engine (engineOf c)).waiting ++ [s.statusItem c])))

/-! ### Power admission -/

/-- R123, R126, R127: the head that the PAU grants is the head of its group's queue, its group's feed is not in fault,
its rise fits the budget, and both spacings have passed; no other grantable head has a higher priority, or the same priority
and a longer wait, or both the same and a lower group. Conversely, when a head is grantable and the device spacing has
passed, a head is granted. SPACING_BOUND_REACHED has the heads tested. That a head is granted only while its cage waits for
it is the model's reading (log entry 8). -/
def Obligations.PauGrantsBestHead : Prop :=
  ∀ s : State,
    (s.inReset = false → exec .spacingBoundReached s = .next s.settle) ∧
      (∀ g e, s.winner = some (g, e) →
        s.Grantable g e ∧ s.DeviceReady ∧
          ∀ h x, h ≠ g → s.Grantable h x →
            x.priority < e.priority ∨
              (x.priority = e.priority ∧
                ((s.now - x.time).toNat < (s.now - e.time).toNat ∨
                  ((s.now - x.time).toNat = (s.now - e.time).toNat ∧ g < h)))) ∧
      ∀ g e, s.Grantable g e → s.DeviceReady → ∃ h x, s.winner = some (h, x)

/-- LOW_POWER_GRANT (R42 to R45, R116, R124, R137): the granted cage's charge is 1500, the grant time is the last
inrush, the profile's slot table is copied, slot 0 turns the rail on with low-power asserted, and the slot timer and
the power-good limit of 50 ms start. It is the model's choice that the command changes nothing where the head of the group
is not the one to grant now, or is of the other kind (log entry 9). -/
def Obligations.LowPowerIsGranted : Prop :=
  ∀ (s : State) (g : GroupNo),
    ((∀ e, s.winner = some (g, e) → e.kind ≠ .lowPower) → exec (.lowPowerGrant g) s = .next s) ∧
      ∀ e, s.inReset = false → s.winner = some (g, e) → e.kind = .lowPower → groupOf e.cage = g →
        (s.cage e.cage).ciu.lines.rail = false →
        ∃ u, exec (.lowPowerGrant g) s = .next u.settle ∧
          (∀ d, d ≠ e.cage → u.cage d = s.cage d) ∧ (∀ h, h ≠ g → u.group h = s.group h) ∧
          s.SameReplies u ∧ s.SameLists u ∧ u.deviceLast = .active s.now ∧
          u.group g =
            { s.group g with
              queue := (s.group g).queue.tail
              last := .active s.now
              committed := (s.group g).committed + 1500 - (s.cage e.cage).charge } ∧
          (u.cage e.cage).charge = 1500 ∧
          (u.cage e.cage).ciu.lines = { (s.cage e.cage).ciu.lines with rail := true, lp := true } ∧
          (u.cage e.cage).seq.state = .powering ∧ (u.cage e.cage).seq.stage = .slot 0 ∧
          (u.cage e.cage).seq.table = some (s.profile e.cage).slots ∧
          (u.cage e.cage).seq.timers =
            { slot := some ⟨s.now, (s.profile e.cage).slots.len⟩, pgLimit := some ⟨s.now, 50⟩ } ∧
          (u.cage e.cage).rlm.pg = .notYet ∧ (u.cage e.cage).rlm.window = [] ∧
          (u.cage e.cage).rlm.basis = some 1500 ∧ (u.cage e.cage).rlm.run = 0 ∧
          (u.cage e.cage).rlm.reported = false ∧ (u.cage e.cage).profile = (s.cage e.cage).profile ∧
          (u.cage e.cage).image = (s.cage e.cage).image ∧ (u.cage e.cage).outage = (s.cage e.cage).outage

/-- HIGH_POWER_GRANT (R79, R81, R116, R124, R191): the granted cage's charge is the requested power, low-power is
released, and CONFIGURE starts at HP_ENABLE with the first of its accesses: for an adopted module the write that
disables every lane, for any other the read of the HP enable byte. It is the model's choice that the command changes
nothing where the head of the group is not the one to grant now, or is of the other kind (log entry 9). -/
def Obligations.HighPowerIsGranted : Prop :=
  ∀ (s : State) (g : GroupNo),
    ((∀ e, s.winner = some (g, e) → e.kind ≠ .highPower) → exec (.highPowerGrant g) s = .next s) ∧
      ∀ e, s.inReset = false → s.winner = some (g, e) → e.kind = .highPower → groupOf e.cage = g →
        (s.cage e.cage).bus.seg = .connected →
        ∃ u, exec (.highPowerGrant g) s = .next u.settle ∧
          (∀ d, d ≠ e.cage → u.cage d = s.cage d) ∧ (∀ h, h ≠ g → u.group h = s.group h) ∧
          s.SameReplies u ∧ s.SameLists u ∧ u.deviceLast = .active s.now ∧
          u.group g =
            { s.group g with
              queue := (s.group g).queue.tail
              last := .active s.now
              committed := (s.group g).committed + e.requested - (s.cage e.cage).charge } ∧
          (u.cage e.cage).charge = e.requested ∧
          (u.cage e.cage).ciu.lines = { (s.cage e.cage).ciu.lines with lp := false } ∧
          (u.cage e.cage).seq.state = .configure ∧ (u.cage e.cage).seq.stage = .hpEnable ∧
          (u.cage e.cage).profile = (s.cage e.cage).profile ∧ (u.cage e.cage).image = (s.cage e.cage).image ∧
          (u.cage e.cage).outage = (s.cage e.cage).outage ∧
          ∃ i, (u.engine (engineOf e.cage)).waiting.getLast? = some i ∧ i.cage = e.cage ∧ i.who = .seq ∧
            i.posted = s.now ∧ i.joined = s.elapsed ∧
            (if (s.cage e.cage).seq.adopted then
              i.write = true ∧ i.data = [0xFF] ∧ (⟨i.page, i.offset⟩ : Loc) = (s.mapOf e.cage).txDisable
             else i.write = false ∧ i.len = 1 ∧ (⟨i.page, i.offset⟩ : Loc) = (s.mapOf e.cage).hpEnable.loc)

/-- GROUP_FEED_FAULT_ACTIVE (R106, R110, R128): the group's level is ACTIVE. Every powered cage of the group is cut: with
FAULT posted, but for one already FAULTED or DRAINING, it is FAULTED with GROUP_FEED; a drain to EMPTY ends there, and one to
FAULTED keeps its first reason. Passthroughs of the cut cages, waiting or carried, are answered STATE. A GROUP_FEED cage stops
its feed-clear timer; every other cage whose rail is off stays as it is, with its queue entry. The image of a cage cut in
DRAINING is EMPTY: R102 and R166 say so of the end of every drain; that a drain to FAULTED or ADMIT_WAIT which the cut ends
at once is such an end is the model's reading (log entry 22). -/
def Obligations.FeedFaultCutsGroup : Prop :=
  ∀ (s : State) (g : GroupNo),
    ((s.group g).feedPin = true → exec (.groupFeedFaultActive g) s = .next s) ∧
      (s.inReset = false → (s.group g).feedPin = false →
        ∃ u, exec (.groupFeedFaultActive g) s = .next u.settle ∧ s.SameDevice u ∧
          (u.group g).feedActive = true ∧ (u.group g).feedPin = true ∧ (∀ h, h ≠ g → u.group h = s.group h) ∧
          (∀ e ∈ (s.group g).queue, (s.cage e.cage).ciu.lines.rail = false → e ∈ (u.group g).queue) ∧
          (∀ p,
            (∀ code target, (s.port p).reply = .pending code target →
              (∃ c, groupOf c = g ∧ (s.cage c).ciu.lines.rail = true ∧ ¬s.NoPassFor c p) →
              (u.port p).reply = .answered .state code target []) ∧
              ((∀ c, groupOf c = g → (s.cage c).ciu.lines.rail = true → s.NoPassFor c p) →
                (u.port p).reply = (s.port p).reply)) ∧
          ∀ c,
            (groupOf c ≠ g → u.cage c = s.cage c) ∧
              (groupOf c = g → (s.cage c).ciu.lines.rail = true →
                ((s.cage c).seq.state ≠ .draining → s.FeedCut u c) ∧
                  ((s.cage c).seq.state = .draining → s.DrainCut u c) ∧
                  ((s.cage c).seq.state ≠ .draining → (s.cage c).seq.state ≠ .faulted →
                    ∀ p, ∃ a ∈ (u.port p).list, a.who = some c ∧ a.kinds &&& CageKind.fault.bit ≠ 0) ∧
                  ((s.cage c).seq.state = .faulted ∨
                      (s.cage c).seq.state = .draining ∧ (s.cage c).seq.reinsertion = false →
                    ∀ p, entriesOf (u.port p).list c = entriesOf (s.port p).list c)) ∧
              (groupOf c = g → (s.cage c).ciu.lines.rail = false →
                ((s.cage c).seq.state = .faulted → (s.cage c).seq.reason = some .groupFeed →
                  (u.cage c).seq =
                    { (s.cage c).seq with
                      stage := .feedActive, timers := { (s.cage c).seq.timers with feedClear := none } }) ∧
                  ((s.cage c).seq.state ≠ .faulted ∨ (s.cage c).seq.reason ≠ some .groupFeed →
                    u.cage c = s.cage c)))

/-- GROUP_FEED_FAULT_INACTIVE (R110, R129): the group's level is INACTIVE, and each cage of the group that is FAULTED with
GROUP_FEED starts its feed-clear timer of 1000 ms; nothing else changes. -/
def Obligations.FeedFaultClears : Prop :=
  ∀ (s : State) (g : GroupNo),
    ((s.group g).feedPin = false → exec (.groupFeedFaultInactive g) s = .next s) ∧
      (s.inReset = false → (s.group g).feedPin = true →
        ∃ u, exec (.groupFeedFaultInactive g) s = .next u.settle ∧ s.SameDevice u ∧ s.SameReplies u ∧
          s.SameLists u ∧ u.group g = { s.group g with feedPin := false, feedActive := false } ∧
          (∀ h, h ≠ g → u.group h = s.group h) ∧ (∀ e, u.engine e = s.engine e) ∧
          ∀ c, u.cage c =
            if groupOf c = g ∧ (s.cage c).seq.state = .faulted ∧ (s.cage c).seq.reason = some .groupFeed then
              { s.cage c with
                seq :=
                  { (s.cage c).seq with
                    stage := .feedClearing
                    timers := { (s.cage c).seq.timers with feedClear := some ⟨s.now, 1000⟩ } } }
            else s.cage c)

/-! ### The sequencer's timers -/

/-- BRING_UP_SLOT_START (R44 to R46): slot 0 without power-good waits in PG_WAIT; otherwise the next slot starts with its
length, and BUS_CONNECT, RESET_RELEASE and READY_POLL are done in their slots; the last slot of the table ends POWERING
and the cage enters IDENTIFY at FIND. -/
def Obligations.BringUpSlotsRun : Prop :=
  ∀ (s : State) (c : CageNo) (t : SlotTable), s.inReset = false → (s.cage c).seq.state = .powering →
    Reached (s.cage c).seq.timers.slot s.now → (s.cage c).seq.table = some t →
    ((s.cage c).seq.slot = 0 → (s.cage c).seq.pgHeld = false →
      exec (.bringUpSlotStart c) s = .next (s.modSeq c fun q => { q with stage := .pgWait }).settle) ∧
      ((s.cage c).seq.slot ≠ 0 ∨ (s.cage c).seq.pgHeld = true → (s.cage c).ciu.lines.rail = true →
        (t.bus = (s.cage c).seq.slot + 1 ∨ (s.cage c).bus.seg = .connected ∨
          (s.cage c).seq.slot + 1 < max t.bus t.ready) →
        ∃ u, exec (.bringUpSlotStart c) s = .next u.settle ∧ s.OnlyCage u c ∧
          s.SlotStarted u c t ((s.cage c).seq.slot + 1))

/-- POWER_GOOD_LIMIT_EXPIRY and ADOPTION_PG_LIMIT_EXPIRY (R45, R187, R104, R105): a powered cage takes RAIL_FAIL: FAULT is
posted and a drain to FAULTED starts; a drain to ADMIT_WAIT under way is sent to FAULTED (that the limit of an adopted cage
keeps running in the drain that its adoption starts is the model's reading, log entry 23). -/
def Obligations.PowerGoodLimitsExpire : Prop :=
  ∀ (s : State) (c : CageNo), s.inReset = false → (s.cage c).ciu.lines.rail = true →
    Reached (s.cage c).seq.timers.pgLimit s.now →
    ((s.cage c).seq.state = .powering →
      ∃ u, exec (.powerGoodLimitExpiry c) s = .next u.settle ∧ s.Draining u c .faulted (some .railFail) ∧
        s.Posted u c .fault) ∧
      ((s.cage c).seq.state ≠ .powering → (s.cage c).seq.state ≠ .draining →
        ∃ u, exec (.adoptionPgLimitExpiry c) s = .next u.settle ∧ s.Draining u c .faulted (some .railFail) ∧
          s.Posted u c .fault) ∧
      ((s.cage c).seq.state = .draining → (s.cage c).seq.dest = some .admitWait →
        ∃ u, exec (.adoptionPgLimitExpiry c) s = .next u.settle ∧ s.OnlyCage u c ∧ s.Posted u c .fault ∧
          (u.cage c).seq =
            { (s.cage c).seq with
              dest := some .faulted
              reason := some .railFail
              timers := { (s.cage c).seq.timers with pgLimit := none } })

/-- SEQ_POLL_TIMER_EXPIRY (R47, R49, R83, R189) and NEXT_POLL_TIME_REACHED (R168): the sequencer makes the same read
again; the poller posts a POLL item unless one is pending, and the next poll time advances by the interval in
force. -/
def Obligations.PollTimersExpire : Prop :=
  ∀ (s : State) (c : CageNo), s.inReset = false → (s.cage c).bus.seg = .connected →
    (Reached (s.cage c).seq.timers.poll s.now →
      ∃ u, exec (.seqPollTimerExpiry c) s = .next u.settle ∧ s.OnlyCage u c ∧ s.SameReplies u ∧ s.SameLists u ∧
        (u.cage c).seq = { (s.cage c).seq with timers := { (s.cage c).seq.timers with poll := none } } ∧
        (u.engine (engineOf c)).waiting =
          (s.engine (engineOf c)).waiting ++ [s.accessItem c (s.cage c).seq.access]) ∧
      ∀ t, (s.cage c).nextPoll = some t → t.len ≤ (s.now - t.start).toNat →
        ∃ u, exec (.nextPollTimeReached c) s = .next u.settle ∧ s.OnlyCage u c ∧ s.SameReplies u ∧ s.SameLists u ∧
          u.cage c =
            { s.cage c with
              nextPoll := some ⟨t.start + BitVec.ofNat 32 t.len, s.settings.pollInterval⟩ } ∧
          (s.pollPending c = true → u.engine (engineOf c) = s.engine (engineOf c)) ∧
          (s.pollPending c = false →
            (u.engine (engineOf c)).waiting = (s.engine (engineOf c)).waiting ++ [s.statusItem c])

/-- INIT_TIMER_EXPIRY, ADOPTION_INIT_TIMEOUT and HP_SETTLE_TIMEOUT (R46, R50, R83, R189, R107): the cage takes the module
fault NOT_READY or HP_TIMEOUT. -/
def Obligations.ModuleFaultTimersExpire : Prop :=
  ∀ (s : State) (c : CageNo), s.inReset = false →
    (((s.cage c).seq.state = .powering ∨ (s.cage c).seq.state = .identify) →
      Reached (s.cage c).seq.timers.init s.now →
      ∃ u, exec (.initTimerExpiry c) s = .next u.settle ∧ s.ModuleFaulted u c .notReady ∧ s.SameReplies u) ∧
      ((s.cage c).seq.state = .adopting → Reached (s.cage c).seq.timers.init s.now →
        ∃ u, exec (.adoptionInitTimeout c) s = .next u.settle ∧ s.ModuleFaulted u c .notReady ∧ s.SameReplies u) ∧
      ((s.cage c).seq.state = .configure → Reached (s.cage c).seq.timers.settle s.now →
        ∃ u, exec (.hpSettleTimeout c) s = .next u.settle ∧ s.ModuleFaulted u c .hpTimeout ∧ s.SameReplies u)

/-- DECISION_WINDOW_EXPIRY (R56, R59, R60, R191): the profile's fallback applies, with the decision source FALLBACK. The
cage proceeds with RESTORE, to HP_WAIT, or parks there where its declared power never fits the budget (R121), or it parks
with WINDOW_EXPIRED. One adopted at high power proceeds to LANE_MAP, or clears its HP enable before it parks. That a park
writes its source into the context beside the record, and that the all-set tx-disable write of an adopted module is made at
stage LANE_MAP, are the model's readings (log entries 27 and 29). -/
def Obligations.DecisionWindowExpires : Prop :=
  ∀ (s : State) (c : CageNo), s.inReset = false → (s.cage c).seq.state = .decide →
    Reached (s.cage c).seq.timers.window s.now →
    ((s.profile c).fallback = .park →
      ∃ u, exec (.decisionWindowExpiry c) s = .next u.settle ∧ s.SameReplies u ∧
        s.ParksInDecide u c .windowExpired (some .fallback)) ∧
      ((s.profile c).fallback = .proceed →
        ∃ u, exec (.decisionWindowExpiry c) s = .next u.settle ∧ s.SameReplies u ∧
          (s.Plain c → s.ProceedsByBudget u c .restore .fallback) ∧
          (s.AtHp c → s.AdoptedRestores u c .fallback))

/-- HOST_SIDE_WINDOW_EXPIRY and HOST_SIDE_DONE from port A (R86 to R88): DATAPATH_ENABLE starts with the write of the
squelch-disable byte where the map has the field and of the tx-disable byte where it has not; the expiry is noted in an
OPEN record, and a request that finds no cage at HOST_SIDE is answered NOT_WAITING. -/
def Obligations.HostSideStageEnds : Prop :=
  ∀ (s : State) (c : CageNo),
    (s.inReset = false → (s.cage c).seq.state = .configure → (s.cage c).bus.seg = .connected →
      Reached (s.cage c).seq.timers.hostSide s.now →
      ∃ u, exec (.hostSideWindowExpiry c) s = .next u.settle ∧ s.DatapathStarted u c ∧ s.SameReplies u ∧
        (u.cage c).outage.hostSideTimeout =
          (decide ((s.cage c).outage.result = some .inProgress) || (s.cage c).outage.hostSideTimeout)) ∧
      ∀ q : Req, s.TakesFor q 0 0 c → q.port = .A →
        ((s.cage c).seq.state = .configure → (s.cage c).seq.stage = .hostSide → (s.cage c).bus.seg = .connected →
          ∃ u, exec (.hostSideDone q) s = .next u.settle ∧ s.DatapathStarted u c ∧ s.Answered u q 0x06 .ok [] ∧
            (u.cage c).outage = (s.cage c).outage) ∧
          ((s.cage c).seq.state ≠ .configure ∨ (s.cage c).seq.stage ≠ .hostSide →
            exec (.hostSideDone q) s = .next (s.replied q 0x06 .notWaiting []))

/-- LINK_TIMER_EXPIRY (R93, R190): by the link summary the cage enters DEGRADED with its reason, tries again from
LANE_SETTINGS, or takes the module fault LINK_FAIL. That a retry and LINK_FAIL make NONE_UP the last known summary (R94) is
the model's reading (log entry 44). -/
def Obligations.LinkTimerExpires : Prop :=
  ∀ (s : State) (c : CageNo), s.inReset = false → (s.cage c).seq.state = .linkWait →
    Reached (s.cage c).seq.timers.link s.now →
    (s.summary c = .someUp →
      ∃ u, exec (.linkTimerExpiry c) s = .next u.settle ∧ s.RestoredDegraded u c .partialLink (some .someUp)) ∧
      (s.summary c = .unknown →
        ∃ u, exec (.linkTimerExpiry c) s = .next u.settle ∧ s.RestoredDegraded u c .streamLost none) ∧
      (s.summary c = .noneUp → (s.cage c).seq.retryLimit = none →
        ∃ u, exec (.linkTimerExpiry c) s = .next u.settle ∧ s.RestoredDegraded u c .linkDown (some .noneUp)) ∧
      (∀ n, s.summary c = .noneUp → (s.cage c).seq.retryLimit = some n →
        (n ≤ (s.cage c).seq.retry →
          ∃ u, exec (.linkTimerExpiry c) s = .next u.settle ∧ s.ModuleFaulted u c .linkFail ∧
            (u.cage c).seq.lastKnown = some .noneUp) ∧
          ((s.cage c).seq.retry < n → (s.cage c).bus.seg = .connected →
            ∃ u, exec (.linkTimerExpiry c) s = .next u.settle ∧ s.OnlyCage u c ∧
              (u.cage c).seq.state = .configure ∧ (u.cage c).seq.stage = .laneSettings ∧
              (u.cage c).seq.retry = (s.cage c).seq.retry + 1 ∧ (u.cage c).seq.lastKnown = some .noneUp ∧
              (u.cage c).seq.inUse = (s.cage c).seq.inUse ∧
              (u.cage c).seq.learnPending = (s.cage c).seq.learnPending ∧
              (u.cage c).outage = (s.cage c).outage ∧ (u.cage c).nextPoll = none ∧
              ∃ i, (u.engine (engineOf c)).waiting.getLast? = some i ∧ i.cage = c ∧ i.who = .seq ∧
                i.data = [0xFF] ∧ (⟨i.page, i.offset⟩ : Loc) = (s.mapOf c).txDisable))

/-- BLANKING_WINDOW_END (R95), PENDING_BASIS_DUE (R138), INRUSH_RECORD_LAPSE (R125), CLOCK_HELD_LOW, CLOCK_RELEASED (R153)
and LINK_STREAM_RUN_DISCARD (R89): each changes its one record, and nothing else. That an event of a time not yet reached
changes nothing, and that an inrush record lapses by its event, are the model's choice (log entries 3 and 40). -/
def Obligations.LocalRecordsChange : Prop :=
  ∀ s : State,
    (∀ r, exec (.inrushRecordLapse r) s =
      .next
        (match r with
         | none => { s with deviceLast := s.deviceLast.after s.now }
         | some g => s.modGroup g fun x => { x with last := x.last.after s.now })) ∧
      (s.inReset = false →
        (∀ c b, (s.cage c).seq.blank = some b →
          exec (.blankingWindowEnd c) s =
            .next (if b.stop ≤ (s.now - b.datapath).toNat then s.modSeq c fun q => { q with blank := none } else s)) ∧
          (∀ c p, (s.cage c).rlm.pending = some p →
            exec (.pendingBasisDue c) s =
              .next
                (if 50 ≤ (s.now - p.since).toNat then
                  s.modRlm c fun r => { r with basis := some p.value, pending := none }
                 else s)) ∧
          (∀ e k, (s.engine e).current = some k → k.pause = none → k.holdWait = none → k.clockLow = none →
            exec (.clockHeldLow e) s =
              .next (s.modEngine e fun g => { g with current := some { k with clockLow := some s.now } })) ∧
          (∀ e k, (s.engine e).current = some k →
            exec (.clockReleased e) s =
              .next (s.modEngine e fun g => { g with current := some { k with clockLow := none } })) ∧
          exec .linkStreamRunDiscard s = .next { s with lsr := { s.lsr with reception := none } })

/-- DRAIN_SLOT_START (R101) undoes the steps of the next lower slot; DRAIN_END (R102), when slot 0 has lasted its length,
empties the image and takes the cage to its destination, to ADMIT_WAIT for a reinsertion. A drain runs by the active slot
table from the slot of the last step performed, or without one by the built-in table from its slot 4 (R100). -/
def Obligations.DrainsRunDown : Prop :=
  (∀ q : Ctx,
    (q.table = none → q.drainTable = ⟨0, 1, 3, 4, 4⟩ ∧ q.firstDrainSlot = 4) ∧
      ∀ t, q.table = some t → q.drainTable = t ∧ q.firstDrainSlot = q.topSlot) ∧
  ∀ (s : State) (c : CageNo), s.inReset = false → (s.cage c).seq.state = .draining →
    Reached (s.cage c).seq.timers.slot s.now → (s.cage c).seq.busRelease = false →
    (∀ n, (s.cage c).seq.slot = n + 1 →
      ∃ u, exec (.drainSlotStart c) s = .next u.settle ∧ s.OnlyCage u c ∧
        (s.cage c).Undone (u.cage c) (s.cage c).seq.drainTable n ∧
        (u.cage c).seq =
          { (s.cage c).seq with
            slot := n
            stage := (u.cage c).seq.stage
            busRelease := (u.cage c).seq.busRelease
            timers := { (s.cage c).seq.timers with slot := some ⟨s.now, (s.cage c).seq.drainTable.len⟩ } } ∧
        (u.cage c).image = (s.cage c).image ∧ (u.cage c).profile = (s.cage c).profile ∧
        (u.cage c).outage = (s.cage c).outage) ∧
      ((s.cage c).seq.slot = 0 →
        ∃ u, exec (.drainEnd c) s = .next u.settle ∧ s.OnlyCage u c ∧ s.SameReplies u ∧
          (u.cage c).ciu.lines = (s.cage c).ciu.lines ∧ (u.cage c).profile = (s.cage c).profile ∧
          (u.cage c).image = emptyImage ∧
          ((s.cage c).seq.dest = some .empty → (s.cage c).seq.reinsertion = false →
            (u.cage c).seq.state = .empty ∧ (u.cage c).seq.insertion = none) ∧
          ((s.cage c).seq.dest = some .admitWait ∨
              (s.cage c).seq.dest = some .empty ∧ (s.cage c).seq.reinsertion = true →
            s.AsksAdmission u c emptyImage) ∧
          (∀ r, (s.cage c).seq.dest = some .faulted → (s.cage c).seq.reason = some r →
            (u.cage c).seq.state = .faulted ∧ (u.cage c).seq.stage = .power ∧ (u.cage c).seq.reason = some r ∧
              (u.cage c).outage =
                closedRecord (s.cage c).outage s.now (s.cage c).seq.retry .faulted (some r)))

/-- FEED_CLEAR_TIMER_EXPIRY (R110) and CLEAR_FAULT (R109): a cleared power fault goes to ADMIT_WAIT with an EMPTY image,
from port B only, or parks where the group's budget is below 1500 (R121); a cleared module fault drains to ADMIT_WAIT; a
cage that is not FAULTED answers STATE. That the image empties on the way from a power fault to ADMIT_WAIT is the model's
reading (log entry 22). -/
def Obligations.FaultsAreCleared : Prop :=
  ∀ (s : State) (c : CageNo),
    (s.inReset = false → (s.cage c).seq.state = .faulted → Reached (s.cage c).seq.timers.feedClear s.now →
      ∃ u, exec (.feedClearTimerExpiry c) s = .next u.settle ∧ s.AsksAdmission u c emptyImage ∧ s.SameReplies u) ∧
      ∀ q : Req, s.TakesFor q 0 0 c →
        let power :=
          (s.cage c).seq.reason = some .railFail ∨ (s.cage c).seq.reason = some .overdraw ∨
            (s.cage c).seq.reason = some .groupFeed
        ((s.cage c).seq.state ≠ .faulted → exec (.clearFault q) s = .next (s.replied q 0x07 .state [])) ∧
          ((s.cage c).seq.state = .faulted → power → q.port = .A →
            exec (.clearFault q) s = .next (s.replied q 0x07 .notPermitted [])) ∧
          ((s.cage c).seq.state = .faulted → power → q.port = .B →
            ∃ u, exec (.clearFault q) s = .next u.settle ∧ s.AsksAdmission u c emptyImage ∧
              s.Answered u q 0x07 .ok []) ∧
          ((s.cage c).seq.state = .faulted → ¬power → s.NoPass q.port →
            ∃ u, exec (.clearFault q) s = .next u.settle ∧ s.Draining u c .admitWait none ∧
              (u.port q.port).reply = .answered .ok 0x07 q.target [])

/-! ### Requests that read -/

/-- The read requests (R18, R27, R62, R97, R130, R144, R162, R167, R181) are answered at once with status OK and the
record of R185, in every state; nothing else of the part changes. -/
def Obligations.ReadsAnswerAtOnce : Prop :=
  ∀ (s : State) (q : Req),
    (∀ c, s.TakesFor q 0 0 c →
      exec (.readProfile q) s =
          .next (s.replied q 0x01 .ok ((s.cage c).profile.bytes (s.cage c).seq.inUse)) ∧
        exec (.readStatus q) s = .next (s.replied q 0x09 .ok (s.statusBytes c)) ∧
        exec (.readOutage q) s = .next (s.replied q 0x0B .ok (s.cage c).outage.bytes)) ∧
      (∀ c, s.TakesFor q 1 0 c →
        exec (.readImageIdentity q) s = .next (s.replied q 0x0A .ok (s.cage c).image.identityBytes) ∧
          exec (.readImageApplied q) s = .next (s.replied q 0x0A .ok (s.cage c).image.appliedBytes) ∧
          exec (.readImageStatus q) s = .next (s.replied q 0x0A .ok (s.cage c).image.statusBytes)) ∧
      (s.Takes q 0 0 →
        exec (.readDevice q) s = .next (s.replied q 0x15 .ok s.deviceBytes) ∧
          (∀ g : GroupNo, q.target.toNat = g.val →
            exec (.readGroup q) s = .next (s.replied q 0x0C .ok (s.groupBytes g))) ∧
          ∀ i : Fin 8, q.target.toNat = i.val →
            exec (.readFieldMap q) s =
              .next (s.replied q 0x10 .ok
                (match s.fieldMaps[i] with
                 | some m => 1 :: m.bytes
                 | none => [0])))

/-- R185: the records have their lengths, and these fields stand at their offsets: the state, the stage and the charge of
READ_STATUS, the budget of READ_GROUP, the part number, the reset cause and the time base of READ_DEVICE. That the record
of READ_GROUP has 65 bytes whatever the queue holds is the model's reading (log entry 31). -/
def Obligations.RecordsHaveTheirLayout : Prop :=
  ∀ (s : State) (c : CageNo) (g : GroupNo),
    (s.statusBytes c).length = 43 ∧ (s.cage c).image.identityBytes.length = 72 ∧
      ((s.cage c).image.lanes.length = 8 → (s.cage c).image.appliedBytes.length = 40) ∧
      (s.cage c).image.statusBytes.length = 16 ∧ (s.cage c).outage.bytes.length = 27 ∧
      (s.groupBytes g).length = 65 ∧ s.deviceBytes.length = 16 ∧
      (∀ b, ((s.cage c).profile.bytes b).length = 128) ∧ (∀ m : FieldMap, m.bytes.length = 50) ∧
      (s.statusBytes c)[4]? = some (BitVec.ofNat 8 (s.cage c).seq.state.code) ∧
      (s.statusBytes c)[5]? = some (BitVec.ofNat 8 (s.cage c).seq.stage.code) ∧
      (s.statusBytes c)[10]? = some (BitVec.ofNat 8 ((s.cage c).charge / 256)) ∧
      (s.statusBytes c)[11]? = some (BitVec.ofNat 8 (s.cage c).charge) ∧
      (s.groupBytes g)[0]? = some (BitVec.ofNat 8 ((s.group g).budget / 256)) ∧
      (s.groupBytes g)[1]? = some (BitVec.ofNat 8 (s.group g).budget) ∧
      s.deviceBytes[0]? = some 0x73 ∧ s.deviceBytes[1]? = some 0x20 ∧
      s.deviceBytes[3]? = some (BitVec.ofNat 8 s.cause.code) ∧
      s.deviceBytes[8]? = some (s.now.setWidth 8)

/-! ### Requests that change profiles, decisions and cages -/

/-- WRITE_PROFILE (R28 to R30) and INVALIDATE_PROFILE (R31): the refusals INVALID, STALE and COLLISION in their order
return the revision and change nothing; an accepted change of a cage that does not wait in DECIDE stores the clamped
record, valid, or the built-in one, invalid, with the next revision, and posts PROFILE_CHANGED to the other port; a cage
that waits is then evaluated again (R33, R54, R55). The clamped record has each number of R29 held to its range, and is
otherwise as written. That the evaluation of a module adopted at high power makes the all-set tx-disable write at stage
LANE_MAP is the model's reading (log entry 29). -/
def Obligations.ProfilesAreChanged : Prop :=
  (∀ p : Profile,
    p.clamp =
      { p with
        window := heldTo 1 255 p.window
        priority := heldTo 0 3 p.priority
        maxGrade := heldTo 0 7 p.maxGrade
        slots := { p.slots with len := heldTo 1 16 p.slots.len }
        initTimeout := heldTo 100 10000 p.initTimeout
        hpMargin := heldTo 0 10000 p.hpMargin
        hostWindow := heldTo 1 255 p.hostWindow
        linkTimeout := heldTo 1 255 p.linkTimeout
        retryLimit := heldTo 0 7 p.retryLimit
        overdraw := heldTo 0 31 p.overdraw
        lanes :=
          p.lanes.map fun e =>
            { e with
              trim := if e.trim < -8 then -8 else if 7 < e.trim then 7 else e.trim
              eq := heldTo 0 15 e.eq
              amp := heldTo 0 3 e.amp }
        lastUnit := p.lastUnit.map fun u => { u with grade := heldTo 0 15 u.grade }
        tuned := p.tuned.map fun l => l.map fun e => ⟨heldTo 0 15 e.eq, heldTo 0 3 e.amp⟩ }) ∧
  ∀ (s : State) (q : Req) (c : CageNo),
    (s.TakesFor q 0 130 c →
      (profileOf (q.body.drop 2) = none →
        exec (.writeProfile q) s = .next (s.replied q 0x02 .invalid (bytesOf16 (s.cage c).profile.revision))) ∧
        ∀ new, profileOf (q.body.drop 2) = some new →
          (q.body.take 2 ≠ bytesOf16 (s.cage c).profile.revision →
            exec (.writeProfile q) s = .next (s.replied q 0x02 .stale (bytesOf16 (s.cage c).profile.revision))) ∧
            (q.body.take 2 = bytesOf16 (s.cage c).profile.revision → (s.cage c).seq.inUse = true →
              exec (.writeProfile q) s =
                .next (s.replied q 0x02 .collision (bytesOf16 (s.cage c).profile.revision))) ∧
            (q.body.take 2 = bytesOf16 (s.cage c).profile.revision → (s.cage c).seq.inUse = false →
              ∃ u, exec (.writeProfile q) s = .next u.settle ∧ s.OnlyCage u c ∧
                (u.cage c).profile =
                  { new.clamp with valid := true, revision := (s.cage c).profile.revision + 1 } ∧
                s.Answered u q 0x02 (if new.clamp = new then .ok else .clamped)
                  (bytesOf16 ((s.cage c).profile.revision + 1)) ∧
                ((s.cage c).seq.waiting = false →
                  u.cage c = { s.cage c with profile := (u.cage c).profile } ∧
                    (u.port q.port).list = (s.port q.port).list ∧
                    (u.port q.port.other).list =
                      addKind (s.port q.port.other).list (some c) CageKind.profileChanged.bit none) ∧
                ((s.cage c).seq.waiting = true →
                  (s.profileSet q.port c
                    { new.clamp with valid := true, revision := (s.cage c).profile.revision + 1 }).Evaluated u c))) ∧
      (s.TakesFor q 0 2 c →
        (q.body ≠ bytesOf16 (s.cage c).profile.revision →
          exec (.invalidateProfile q) s =
            .next (s.replied q 0x03 .stale (bytesOf16 (s.cage c).profile.revision))) ∧
          (q.body = bytesOf16 (s.cage c).profile.revision → (s.cage c).seq.inUse = true →
            exec (.invalidateProfile q) s =
              .next (s.replied q 0x03 .collision (bytesOf16 (s.cage c).profile.revision))) ∧
          (q.body = bytesOf16 (s.cage c).profile.revision → (s.cage c).seq.inUse = false →
            ∃ u, exec (.invalidateProfile q) s = .next u.settle ∧ s.OnlyCage u c ∧
              (u.cage c).profile = { builtinProfile with revision := (s.cage c).profile.revision + 1 } ∧
              s.Answered u q 0x03 .ok (bytesOf16 ((s.cage c).profile.revision + 1)) ∧
              ((s.cage c).seq.waiting = false →
                u.cage c = { s.cage c with profile := (u.cage c).profile } ∧
                  (u.port q.port).list = (s.port q.port).list ∧
                  (u.port q.port.other).list =
                    addKind (s.port q.port.other).list (some c) CageKind.profileChanged.bit none) ∧
              ((s.cage c).seq.waiting = true → (u.cage c).seq.cls = some .noProfile ∧
                (s.profileSet q.port c
                  { builtinProfile with revision := (s.cage c).profile.revision + 1 }).Evaluated u c)))

/-- DECIDE (R57, R59, R60, R191): a cage that does not wait in DECIDE answers NOT_WAITING, RESTORE with an invalid profile
NO_PROFILE; otherwise the cage proceeds with the decision, to HP_WAIT, or parks there where its declared power never fits
the budget (R121), or it parks with MASTER, the source being the port. One adopted at high power goes to LANE_MAP for
RESTORE, to LINK_WAIT for ADOPT_NEW, from where it enters IN_SERVICE at once if every link is up, and clears its HP enable
before it parks. That a park writes its source into the context beside the record, and that the all-set tx-disable write of an
adopted module is made at stage LANE_MAP, are the model's readings (log entries 27 and 29). -/
def Obligations.DecisionsAreTaken : Prop :=
  ∀ (s : State) (q : Req) (c : CageNo), s.TakesFor q 1 0 c →
    ((s.cage c).seq.waiting = false →
      exec (.decideRestore q) s = .next (s.replied q 0x04 .notWaiting []) ∧
        exec (.decideAdoptNew q) s = .next (s.replied q 0x04 .notWaiting []) ∧
        exec (.decidePark q) s = .next (s.replied q 0x04 .notWaiting [])) ∧
      ((s.cage c).seq.waiting = true → (s.cage c).profile.valid = false →
        exec (.decideRestore q) s = .next (s.replied q 0x04 .noProfile [])) ∧
      ((s.cage c).seq.waiting = true →
        ((s.cage c).profile.valid = true →
          ∃ u, exec (.decideRestore q) s = .next u.settle ∧ s.Answered u q 0x04 .ok [] ∧
            (s.Plain c → s.ProceedsByBudget u c .restore (portSource q.port)) ∧
            (s.AtHp c → s.AdoptedRestores u c (portSource q.port))) ∧
          (∃ u, exec (.decideAdoptNew q) s = .next u.settle ∧ s.Answered u q 0x04 .ok [] ∧
            (s.Plain c → s.ProceedsByBudget u c .adoptNew (portSource q.port)) ∧
            (s.AtHp c → s.summary c ≠ .allUp → s.AdoptedLinks u c (portSource q.port)) ∧
            (s.AtHp c → s.summary c = .allUp → (u.cage c).seq.state = .inService)) ∧
          ∃ u, exec (.decidePark q) s = .next u.settle ∧ s.Answered u q 0x04 .ok [] ∧
            s.ParksInDecide u c .master (some (portSource q.port)))

/-- RELEASE (R61): a cage that is not PARKED answers STATE; a parked one resumes, an unpowered one in ADMIT_WAIT, or parked
again where the group's budget is below 1500 (R121), one without a field map at FIND, any other with a new evaluation at
DECIDE (R54, R55). That the evaluation of a module adopted at high power makes the all-set tx-disable write at stage LANE_MAP
is the model's reading (log entry 29). -/
def Obligations.ReleaseResumes : Prop :=
  ∀ (s : State) (q : Req) (c : CageNo), s.TakesFor q 0 0 c →
    ((s.cage c).seq.state ≠ .parked → exec (.release q) s = .next (s.replied q 0x05 .state [])) ∧
      ((s.cage c).seq.state = .parked →
        ((s.cage c).ciu.lines.rail = false →
          ∃ u, exec (.release q) s = .next u.settle ∧ s.AsksAdmission u c (s.cage c).image ∧
            s.Answered u q 0x05 .ok []) ∧
          ((s.cage c).ciu.lines.rail = true → (s.cage c).seq.reason = some .noFieldMap →
            (s.cage c).bus.seg = .connected →
            ∃ u, exec (.release q) s = .next u.settle ∧ s.OnlyCage u c ∧ s.Answered u q 0x05 .ok [] ∧
              s.SameLists u ∧ (u.cage c).seq.state = .identify ∧ (u.cage c).seq.stage = .find ∧
              (u.cage c).seq.reason = none ∧
              (u.cage c).seq.timers.init = some ⟨s.now, (s.profile c).initTimeout⟩) ∧
          ((s.cage c).ciu.lines.rail = true → (s.cage c).seq.reason ≠ some .noFieldMap →
            ∃ b u, exec (.release q) s = .next u.settle ∧ s.OnlyCage u c ∧ s.Answered u q 0x05 .ok [] ∧
              s.ReenteredDecide b c ∧ b.Evaluated u c))

/-- RESET_CAGE (R112 to R115): a scope the cage's state does not take is answered STATE: RESEQUENCE is taken in IN_SERVICE,
DEGRADED and LINK_WAIT, REIDENTIFY in the first two, in PARKED with the rail on and in FAULTED with a module fault, POWER_CYCLE
with the accepted presence PRESENT but in EMPTY, DRAINING and FAULTED with a power fault. RESEQUENCE writes the lane settings
again from LANE_MAP, REIDENTIFY identifies the module afresh at low power, POWER_CYCLE drains a powered cage to
ADMIT_WAIT, leaves a waiting one its entry, and has an unpowered parked one ask for low power. That RESEQUENCE clears the
reason, and that its all-set tx-disable write is made at stage LANE_MAP, are the model's readings (log entries 28 and
29). -/
def Obligations.CagesAreReset : Prop :=
  ∀ (s : State) (q : Req) (c : CageNo), s.TakesFor q 1 0 c →
    let st := (s.cage c).seq.state
    let powerFault :=
      st = .faulted ∧
        ((s.cage c).seq.reason = some .railFail ∨ (s.cage c).seq.reason = some .overdraw ∨
          (s.cage c).seq.reason = some .groupFeed)
    let resequences := st = .inService ∨ st = .degraded ∨ st = .linkWait
    let reidentifies :=
      st = .inService ∨ st = .degraded ∨ st = .parked ∧ (s.cage c).ciu.lines.rail = true ∨
        st = .faulted ∧ ¬powerFault
    let powerCycles := (s.cage c).ciu.presence = .present ∧ st ≠ .empty ∧ st ≠ .draining ∧ ¬powerFault
    (¬resequences →
      exec (.resetCageResequence q) s = .next (s.replied q 0x08 .state [])) ∧
      (resequences → (s.cage c).bus.seg = .connected →
        ∃ u, exec (.resetCageResequence q) s = .next u.settle ∧ s.OnlyCage u c ∧ s.Answered u q 0x08 .ok [] ∧
          s.SameLists u ∧ (u.cage c).seq.state = .configure ∧ (u.cage c).seq.stage = .laneMap ∧
          (u.cage c).seq.reason = none ∧ (u.cage c).seq.retry = 0 ∧ (u.cage c).seq.inUse = true ∧
          (u.cage c).seq.restoreNotice = true ∧ (u.cage c).seq.cls = (s.cage c).seq.cls ∧
          (u.cage c).ciu = (s.cage c).ciu ∧ (u.cage c).image = (s.cage c).image ∧
          (u.cage c).outage = (s.cage c).outage ∧
          ∃ i, (u.engine (engineOf c)).waiting.getLast? = some i ∧ i.cage = c ∧ i.who = .seq ∧ i.data = [0xFF] ∧
            (⟨i.page, i.offset⟩ : Loc) = (s.mapOf c).txDisable) ∧
      (¬reidentifies →
        exec (.resetCageReidentify q) s = .next (s.replied q 0x08 .state [])) ∧
      (reidentifies →
        ∃ u, exec (.resetCageReidentify q) s = .next u.settle ∧ s.OnlyCage u c ∧ s.Answered u q 0x08 .ok [] ∧
          s.SameLists u ∧ (u.cage c).seq.state = .identify ∧ (u.cage c).seq.stage = .find ∧
          (u.cage c).seq.cls = none ∧ (u.cage c).seq.inUse = false ∧ (u.cage c).ciu.lines.lp = true ∧
          (u.cage c).ciu.lines.rail = (s.cage c).ciu.lines.rail ∧ (u.cage c).charge = min (s.cage c).charge 1500 ∧
          (u.cage c).bus.seg = .connected ∧ (u.cage c).image = { emptyImage with state := .identifying } ∧
          (∀ t, (s.cage c).seq.table = some t → (u.cage c).seq.topSlot = max t.bus t.ready) ∧
          (u.cage c).seq.timers = { init := some ⟨s.now, (s.profile c).initTimeout⟩ }) ∧
      (¬powerCycles →
        exec (.resetCagePowerCycle q) s = .next (s.replied q 0x08 .state [])) ∧
      (powerCycles →
        ((s.cage c).ciu.lines.rail = true → s.NoPass q.port →
          ∃ u, exec (.resetCagePowerCycle q) s = .next u.settle ∧ s.Draining u c .admitWait none ∧
            (u.port q.port).reply = .answered .ok 0x08 q.target []) ∧
          ((s.cage c).ciu.lines.rail = false → (s.cage c).seq.state = .admitWait →
            exec (.resetCagePowerCycle q) s = .next (s.replied q 0x08 .ok []).settle) ∧
          ((s.cage c).ciu.lines.rail = false → (s.cage c).seq.state ≠ .admitWait →
            ∃ u, exec (.resetCagePowerCycle q) s = .next u.settle ∧ s.AsksAdmission u c (s.cage c).image ∧
              s.Answered u q 0x08 .ok []))

/-! ### Passthroughs, maps, ports, settings -/

/-- MODULE_READ and MODULE_WRITE (R156, R157): the checks in their order refuse without an effect; a write is taken in
IN_SERVICE, DEGRADED, PARKED with the rail on and FAULTED with a module fault. A request that passes
them joins the waiting items of the cage's engine, and its reply slot stays PENDING. That a restore-page flag of 2 or more
is refused BAD_REQUEST, and ahead of R156's checks, is the model's reading (log entry 32). -/
def Obligations.PassthroughsArePosted : Prop :=
  ∀ (s : State) (q : Req) (c : CageNo),
    (s.TakesFor q 0 4 c → ∀ page off len flag : Byte, q.body = [page, off, len, flag] →
      (2 ≤ flag.toNat → exec (.moduleRead q) s = .next (s.replied q 0x0D .badRequest [])) ∧
        (flag.toNat < 2 → (len = 0 ∨ 64 < len.toNat ∨ inWindow off len.toNat = false) →
          exec (.moduleRead q) s = .next (s.replied q 0x0D .badLength [])) ∧
        (flag.toNat < 2 → 1 ≤ len.toNat → len.toNat ≤ 64 → inWindow off len.toNat = true →
          ((s.cage c).ciu.presence ≠ .present →
            exec (.moduleRead q) s = .next (s.replied q 0x0D .absent [])) ∧
            ((s.cage c).ciu.presence = .present → (s.cage c).bus.seg ≠ .connected →
              exec (.moduleRead q) s = .next (s.replied q 0x0D .state [])) ∧
            ((s.cage c).ciu.presence = .present → (s.cage c).bus.seg = .connected →
              ∃ u, exec (.moduleRead q) s = .next u.settle ∧
                s.PassPosted u q c 0x0D
                  ⟨c, page, off, len.toNat, false, [], .port q.port, s.now, decide (flag = 1), s.elapsed⟩))) ∧
      ∀ (page off : Byte) (data : List Byte), q.body = page :: off :: data → s.TakesFor q 0 q.body.length c →
        let st := (s.cage c).seq.state
        let taken :=
          st = .inService ∨ st = .degraded ∨ st = .parked ∧ (s.cage c).ciu.lines.rail = true ∨
            st = .faulted ∧ (s.cage c).seq.reason ≠ some .railFail ∧ (s.cage c).seq.reason ≠ some .overdraw ∧
              (s.cage c).seq.reason ≠ some .groupFeed
        (data = [] ∨ 8 < data.length ∨ inWindow off data.length = false →
          exec (.moduleWrite q) s = .next (s.replied q 0x0E .badLength [])) ∧
          (1 ≤ data.length → data.length ≤ 8 → inWindow off data.length = true →
            (¬taken ∨ (s.cage c).bus.seg ≠ .connected →
              exec (.moduleWrite q) s = .next (s.replied q 0x0E .state [])) ∧
              (taken → (s.cage c).bus.seg = .connected →
                ∃ u, exec (.moduleWrite q) s = .next u.settle ∧
                  s.PassPosted u q c 0x0E
                    ⟨c, page, off, data.length, true, data, .port q.port, s.now, false, s.elapsed⟩))

/-- LOAD_FIELD_MAP (R161, R162, R111): the checks in their order refuse INVALID, DUPLICATE or COLLISION without an effect;
an accepted record is stored clamped in its entry, and a powered cage parked for that identifier resumes at FIND. The lane
count and the hold-off are clamped first; a record is legal as check 2 says, with its bits 0 to 7 (R159). That COLLISION
carries no data is the model's choice (log entry 51). -/
def Obligations.FieldMapsAreLoaded : Prop :=
  (∀ m : FieldMap,
    m.clamp = { m with laneCount := heldTo 1 8 m.laneCount, holdOff := heldTo 0 50 m.holdOff } ∧
      (m.legal = true ↔
        (m.burst = 4 ∨ m.burst = 8) ∧ (1 ≤ m.pageSel.toNat ∧ m.pageSel.toNat ≤ 127) ∧
          (∀ l n, m.Places l n →
            OneWindow l.offset n ∧
              (l.offset.toNat < 128 →
                ¬(l.offset.toNat ≤ m.pageSel.toNat ∧ m.pageSel.toNat < l.offset.toNat + n))) ∧
          (1 ≤ m.statusLen ∧ m.statusLen ≤ 16) ∧
          (m.lossPos < m.statusLen ∧ m.alertPos < m.statusLen ∧ m.tempPos + 1 < m.statusLen) ∧
          m.ready.bit ≤ 7 ∧ m.hpEnable.bit ≤ 7 ∧ m.hpDone.bit ≤ 7 ∧ m.alertBit ≤ 7)) ∧
  ∀ (s : State) (q : Req) (i : Fin 8), s.Takes q 0 50 → q.target.toNat = i.val →
    (fieldMapOf q.body = none → exec (.loadFieldMap q) s = .next (s.replied q 0x0F .invalid [])) ∧
      ∀ raw, fieldMapOf q.body = some raw →
        (raw.clamp.legal = false → exec (.loadFieldMap q) s = .next (s.replied q 0x0F .invalid [])) ∧
          (raw.clamp.legal = true →
            (s.duplicateIdent i raw.ident = true →
              exec (.loadFieldMap q) s = .next (s.replied q 0x0F .duplicate [])) ∧
              (s.duplicateIdent i raw.ident = false → s.entryHeld i = true →
                exec (.loadFieldMap q) s = .next (s.replied q 0x0F .collision [])) ∧
              (s.duplicateIdent i raw.ident = false → s.entryHeld i = false →
                ∃ u, exec (.loadFieldMap q) s = .next u.settle ∧ u.fieldMaps = s.fieldMaps.set i (some raw.clamp) ∧
                  s.Answered u q 0x0F (if raw.clamp = raw then .ok else .clamped) [] ∧
                  ∀ c,
                    ((s.cage c).wantsMap raw.ident = false → u.cage c = s.cage c) ∧
                      ((s.cage c).wantsMap raw.ident = true → (s.cage c).ciu.lines.rail = true →
                        (s.cage c).bus.seg = .connected →
                        (u.cage c).seq.state = .identify ∧ (u.cage c).seq.stage = .find ∧
                          (u.cage c).seq.reason = none)))

/-- FETCH_ATTENTION (R183): the port's oldest entry is removed and returned with its cage number (32 for DEVICE), its full
kind set, the reset cause if RESTARTED is in the set, and the number of entries that remain; an empty list answers OK
with no data. -/
def Obligations.AttentionIsFetched : Prop :=
  ∀ (s : State) (q : Req), s.Takes q 0 0 →
    ((s.port q.port).list = [] → exec (.fetchAttention q) s = .next (s.replied q 0x11 .ok [])) ∧
      ∀ a rest, (s.port q.port).list = a :: rest →
        exec (.fetchAttention q) s =
          .next ((s.modPort q.port fun x => { x with list := rest }).replied q 0x11 .ok
            [BitVec.ofNat 8
                (match a.who with
                 | some c => c.val
                 | none => 32),
              (a.kinds >>> 8).setWidth 8, a.kinds.setWidth 8,
              (match a.cause with
               | some .resetPin => if a.who = none ∧ a.kinds.getLsbD 4 = true then 1 else 0
               | some .restart => if a.who = none ∧ a.kinds.getLsbD 4 = true then 2 else 0
               | _ => 0),
              BitVec.ofNat 8 rest.length])

/-- SET_MASK (R184) and SET_TIMING from port B (R180, R126, R10): the masks are stored without the bits that stand for no
kind, and a port's attention line is driven while an entry of its list holds a kind that its mask leaves; a setting is held
to its range and rounded down to its step, the reply says whether it was changed. A change of the debounce time accepts at
once every candidate that has held the new time, with its capture time, and leaves every other cage as it is. A removal so
accepted ends the waiting passthroughs of its powered cage (R98, R154): each port's reply slot is given for a port of which
no passthrough waits. -/
def Obligations.PortSettingsAreStored : Prop :=
  ∀ (s : State) (q : Req),
    (∀ c1 c2 d : Byte, s.Takes q 0 3 → q.body = [c1, c2, d] →
      exec (.setMask q) s =
        .next ((s.modPort q.port fun x =>
          { x with cageMask := (c1 ++ c2) &&& 0x0FFF, deviceMask := d &&& 0x1F }).replied q 0x12 .ok
            (bytesOf16 ((c1 ++ c2) &&& 0x0FFF) ++ [d &&& 0x1F]))) ∧
      (∀ p, s.attentionLine p = true ↔
        ∃ a ∈ (s.port p).list, ∃ n, n < 16 ∧ a.kinds.getLsbD n = true ∧
          ((∃ c, a.who = some c) ∧ (s.port p).cageMask.getLsbD n = false ∨
            a.who = none ∧ (s.port p).deviceMask.getLsbD n = false)) ∧
      ∀ hi lo : Byte, s.Takes q 1 2 → q.body = [hi, lo] → q.port = .B →
        let v := (hi ++ lo).toNat
        (let held (low high step : Nat) : Nat := if v < low then low else if high < v then high else v - v % step
         let stored (n : Nat) (sel : Byte) (x : Settings) : Out :=
          .next ((({ s with settings := x } : State).replied q 0x14 (if n = v then .ok else .clamped)
            ([sel] ++ bytesOf16 (BitVec.ofNat 16 n)))).settle
         exec (.setTimingDeviceSpacing q) s =
            stored (held 1 255 1) 0 { s.settings with deviceSpacing := held 1 255 1 } ∧
          exec (.setTimingGroupSpacing q) s =
            stored (held 1 255 1) 1 { s.settings with groupSpacing := held 1 255 1 } ∧
          (∃ u : State, exec (.setTimingDebounceTime q) s = .next u.settle ∧
            u.settings = { s.settings with debounce := held 1 255 1 } ∧
            (s.NoPass q.port →
              (u.port q.port).reply =
                  .answered (if held 1 255 1 = v then .ok else .clamped) 0x14 q.target
                    ([2] ++ bytesOf16 (BitVec.ofNat 16 (held 1 255 1))) ∧
                (u.port q.port).request = none) ∧
            (s.NoPass q.port.other →
              (u.port q.port.other).reply = (s.port q.port.other).reply ∧
                (u.port q.port.other).request = (s.port q.port.other).request) ∧
            ∀ c,
              (¬s.HeldFor c (held 1 255 1) → u.cage c = s.cage c) ∧
                ∀ x, s.HeldFor c (held 1 255 1) → (s.cage c).ciu.candidate = some x →
                  (u.cage c).ciu.candidate = none ∧
                    (x.level = true →
                      (u.cage c).ciu.presence = .present ∧ (u.cage c).outage.insertion = some x.capture ∧
                        ∀ p, ∃ a ∈ (u.port p).list, a.who = some c ∧ a.kinds &&& CageKind.inserted.bit ≠ 0) ∧
                    (x.level = false →
                      (u.cage c).ciu.presence = .absent ∧ (u.cage c).outage.removal = some x.capture ∧
                        ∀ p, ∃ a ∈ (u.port p).list, a.who = some c ∧ a.kinds &&& CageKind.removed.bit ≠ 0)) ∧
          exec (.setTimingPollInterval q) s =
            stored (held 10 2550 10) 3 { s.settings with pollInterval := held 10 2550 10 } ∧
          exec (.setTimingReseatWindow q) s =
            stored (held 1 3600 1) 4 { s.settings with reseatWindow := held 1 3600 1 })

/-- SET_BUDGET from port B (R118, R119, R121, R111): the budget is stored rounded down to 250 and held to 60000, and
OVERCOMMIT is posted, whether cages resume or not, when the change leaves the committed charge above it (the charge stays,
where no resumed module runs at high power from its adoption); every entry that no longer fits leaves the queue and its cage
parks with BUDGET; every cage that was parked with BUDGET and that the new budget covers resumes, unpowered in ADMIT_WAIT,
powered with an evaluation at DECIDE; every other cage stays as it is. That the evaluation of a module adopted at high power
makes the all-set tx-disable write at stage LANE_MAP is the model's reading (log entry 29). -/
def Obligations.BudgetIsStored : Prop :=
  ∀ (s : State) (q : Req) (g : GroupNo) (hi lo : Byte), s.Takes q 0 2 → q.body = [hi, lo] → q.port = .B →
    q.target.toNat = g.val →
    (∀ e ∈ (s.group g).queue, groupOf e.cage = g ∧ (s.cage e.cage).seq.state ≠ .parked) →
    ((s.group g).queue.map Entry.cage).Nodup →
    (let v := (hi ++ lo).toNat
     let n := if 60000 < v then 60000 else v - v % 250
     ∃ u, exec (.setBudget q) s = .next u.settle ∧ (u.group g).budget = n ∧
      s.Answered u q 0x13 (if n = v then .ok else .clamped) (bytesOf16 (BitVec.ofNat 16 n)) ∧
      (∀ h, h ≠ g → u.group h = s.group h) ∧
      ((∀ c, ¬s.BudgetCovers g c n) →
        u.group g =
          { s.group g with
            budget := n
            queue := (s.group g).queue.filter fun e => decide (e.requested ≤ n) } ∧
        ((∀ e ∈ (s.group g).queue, e.requested ≤ n) →
          ∀ p, (u.port p).list =
            if n < (s.group g).committed then addKind (s.port p).list none DeviceKind.overcommit.bit none
            else (s.port p).list)) ∧
      (∀ p, entriesOfDevice (u.port p).list =
        entriesOfDevice
          (if n < (u.group g).committed then addKind (s.port p).list none DeviceKind.overcommit.bit none
           else (s.port p).list)) ∧
      ((∀ c, s.BudgetCovers g c n → (s.cage c).ciu.lines.rail = true → s.Plain c) →
        (u.group g).committed = (s.group g).committed) ∧
      (∀ e ∈ (s.group g).queue, n < e.requested →
        (∀ x ∈ (u.group g).queue, x.cage ≠ e.cage) ∧ (u.cage e.cage).seq.state = .parked ∧
          (u.cage e.cage).seq.reason = some .budget ∧
          (u.cage e.cage).seq.stage = (if e.kind = .lowPower then .lowPowerStage else .hpStage) ∧
          (u.cage e.cage).outage =
            closedRecord (s.cage e.cage).outage s.now (s.cage e.cage).seq.retry .parked (some .budget) ∧
          ∀ p, ∃ a ∈ (u.port p).list, a.who = some e.cage ∧ a.kinds &&& CageKind.parked.bit ≠ 0) ∧
      (∀ c, s.BudgetCovers g c n →
        ((s.cage c).ciu.lines.rail = false →
          s.newEntry c .lowPower 1500 ∈ (u.group g).queue ∧
            ∃ a b : State, a.cage c = s.cage c ∧ a.SameDevice s ∧ a.Admitted b c (s.cage c).image ∧ b.cage c = u.cage c) ∧
          ((s.cage c).ciu.lines.rail = true →
            ∃ a b d : State, a.cage c = s.cage c ∧ a.SameDevice s ∧ (a.group g).budget = n ∧ a.ReenteredDecide b c ∧
              b.Evaluated d c ∧ d.cage c = u.cage c)) ∧
      ∀ c, (∀ e ∈ (s.group g).queue, n < e.requested → e.cage ≠ c) → ¬s.BudgetCovers g c n →
        u.cage c = s.cage c)

/-- R175: a request written while the port's reply slot is PENDING is discarded whole: PORT_OVERRUN is posted to the DEVICE
entry of the port's own list, and nothing else changes. -/
def Obligations.OverrunDiscardsRequest : Prop :=
  ∀ (s : State) (p : Port), s.inReset = false → (s.port p).busy = true →
    (let u := s.modPort p fun x => { x with list := addKind x.list none 0x0004 none }
     exec (.portOverrun p) s = .next u ∧
      ∀ (i : Instr) (raw : List Byte), encodeTransaction i = some (p, raw) → raw ≠ [] → exec i s = .next u)

/-- R176, R177: a short header is answered BAD_LENGTH and an unknown code BAD_REQUEST. Every other request, as the master wrote
it, is judged by its row of the table of R177: from a port without the right NOT_PERMITTED; with a body of another length than
the header says or than the row gives BAD_LENGTH; for a cage above 31 BAD_CAGE; for a group (R118, R130) or a field-map entry
(R162) above 7 BAD_REQUEST. A decision, scope, section or selector outside its list is answered BAD_REQUEST. None has another
effect. -/
def Obligations.BadRequestsAreRefused : Prop :=
  ∀ s : State, s.inReset = false →
    (∀ (p : Port) (raw : List Byte), (s.port p).busy = false → (Instr.unknownRequest p raw).wf = true →
      exec (.unknownRequest p raw) s =
        .next (s.modPort p fun x =>
          { x with
            request := none
            reply := .answered (if raw.length < 4 then .badLength else .badRequest) (raw.getD 0 0)
              (raw.getD 1 0) [] })) ∧
      (∀ (i : Instr) (p : Port) (code target hi lo : Byte) (body : List Byte) (f : RequestForm), i.wf = true →
        encodeTransaction i = some (p, code :: target :: hi :: lo :: body) → requestForm code = some f →
        (s.port p).busy = false →
        let n := (hi ++ lo).toNat
        let refused : ReplyStatus → Prop := fun st =>
          exec i s = .next (s.modPort p fun x => { x with request := none, reply := .answered st code target [] })
        (p ∉ f.ports → refused .notPermitted) ∧
          (p ∈ f.ports → (n ≠ body.length ∨ n < f.least ∨ f.most < n) → refused .badLength) ∧
          (p ∈ f.ports → n = body.length → f.least ≤ n → n ≤ f.most →
            (f.target = .cage → 32 ≤ target.toNat → refused .badCage) ∧
              (f.target = .group ∨ f.target = .entry → 8 ≤ target.toNat → refused .badRequest))) ∧
      ∀ q : Req, (s.port q.port).busy = false →
        ((∀ c, s.TakesFor q 0 1 c →
          exec (.decideBadDecision q) s = .next (s.replied q 0x04 .badRequest []) ∧
            exec (.resetCageBadScope q) s = .next (s.replied q 0x08 .badRequest []) ∧
            exec (.readImageBadSection q) s = .next (s.replied q 0x0A .badRequest [])) ∧
          (s.Takes q 0 3 → q.port = .B →
            exec (.setTimingBadSelector q) s = .next (s.replied q 0x14 .badRequest []))) ∧
          (q.port = .A →
            exec (.restart q) s = .next (s.replied q 0x16 .notPermitted []) ∧
              exec (.setBudget q) s = .next (s.replied q 0x13 .notPermitted []) ∧
              exec (.setTimingDeviceSpacing q) s = .next (s.replied q 0x14 .notPermitted []) ∧
              exec (.setTimingGroupSpacing q) s = .next (s.replied q 0x14 .notPermitted []) ∧
              exec (.setTimingDebounceTime q) s = .next (s.replied q 0x14 .notPermitted []) ∧
              exec (.setTimingPollInterval q) s = .next (s.replied q 0x14 .notPermitted []) ∧
              exec (.setTimingReseatWindow q) s = .next (s.replied q 0x14 .notPermitted []) ∧
              exec (.setTimingBadSelector q) s = .next (s.replied q 0x14 .notPermitted [])) ∧
          (q.port = .B → exec (.hostSideDone q) s = .next (s.replied q 0x06 .notPermitted [])) ∧
          (q.len.toNat ≠ q.body.length →
            exec (.readStatus q) s = .next (s.replied q 0x09 .badLength []) ∧
              exec (.writeProfile q) s = .next (s.replied q 0x02 .badLength []) ∧
              exec (.release q) s = .next (s.replied q 0x05 .badLength []) ∧
              exec (.moduleWrite q) s = .next (s.replied q 0x0E .badLength [])) ∧
          (32 ≤ q.target.toNat → s.Takes q 0 0 →
            exec (.readStatus q) s = .next (s.replied q 0x09 .badCage []) ∧
              exec (.readProfile q) s = .next (s.replied q 0x01 .badCage []) ∧
              exec (.release q) s = .next (s.replied q 0x05 .badCage []) ∧
              exec (.clearFault q) s = .next (s.replied q 0x07 .badCage []))

/-! ### Module buses -/

/-- BUS_TRANSACTION_COMPLETE (R146, R149, R150, R151): a page-select write sets the page shadow and the bursts follow; a
burst, of the length of the map the item started with, adds its bytes, and between two bursts of a write the hold-off is
waited out; a read that is to put its page back does so last. With its last transaction the item ends: the segment is
deselected, the shadow and the hold-off are as R149 and R151 say, and its requester takes the outcome: a port is answered OK
with the data, the sequencer goes on as its access says (R47 to R52, R81 to R88, R37, R189 to R191), the poller writes the
status section (R165, R171). The outcome of a cancelled item is discarded (R154). The model's readings in this are
the stage LANE_MAP of an all-set tx-disable write (log entry 29), the ignored upper bits of the breakout byte at an adoption
(30), the note a matched adoption keeps (37), and the map that an item takes at its start with a byte beyond the data read as
0 (49 and 52); the location of a lane past the end of a replaced map's field is its choice (54). -/
def Obligations.BusTransactionsAdvance : Prop :=
  ∀ (s : State) (e : EngineNo) (k : Carry) (data : List Byte), s.inReset = false →
    (s.engine e).current = some k → k.pause = none → k.holdWait = none → k.clockLow = none → k.ending = false →
    engineOf k.item.cage = e →
    (k.phase = .pageSelect →
      exec (.busTransactionComplete e data) s =
        .next ((s.modBus k.item.cage fun b => { b with shadow := some k.item.page }).modEngine e fun g =>
          { g with current := some { k with phase := .burst, attempts := 0 } }).settle) ∧
      (∀ n, k.phase = .burst → n = min k.map.burst (k.item.len - k.done) → k.done + n < k.item.len →
        (k.item.write = false → data.length = n →
          exec (.busTransactionComplete e data) s =
            .next (s.modEngine e fun g =>
              { g with
                current := some { k with got := k.got ++ data, done := k.done + n, attempts := 0 } }).settle) ∧
          (k.item.write = true →
            exec (.busTransactionComplete e data) s =
              .next (s.modEngine e fun g =>
                { g with
                  current := some
                    { k with
                      done := k.done + n
                      attempts := 0
                      holdWait := if 0 < k.map.holdOff then some ⟨s.now, k.map.holdOff⟩ else none } }).settle)) ∧
      (∀ n, k.phase = .burst → n = min k.map.burst (k.item.len - k.done) → k.item.len ≤ k.done + n → k.PutsBack →
        data.length = n →
        exec (.busTransactionComplete e data) s =
          .next (s.modEngine e fun g =>
            { g with
              current := some
                { k with
                  got := k.got ++ data, done := k.done + n, attempts := 0, phase := .restorePage } }).settle) ∧
      ∀ got, k.EndsWith data got →
        (∀ (p : Port) (code target : Byte), k.item.who = .port p → (s.port p).reply = .pending code target →
          ∃ u, exec (.busTransactionComplete e data) s = .next u.settle ∧
            ((s.finished e k).answered p .ok code target got).DrainGoesOn u k.item.cage ∧
            (u.port p).reply = .answered .ok code target got) ∧
          (k.item.who = .seq ∨ k.item.who = .poll → k.cancelled = true →
            ∃ u, exec (.busTransactionComplete e data) s = .next u.settle ∧
              (s.finished e k).DrainGoesOn u k.item.cage) ∧
          (k.item.who = .seq → k.cancelled = false → (s.cage k.item.cage).seq.state ≠ .draining →
            (s.cage k.item.cage).bus.seg = .connected →
            ∃ u, exec (.busTransactionComplete e data) s = .next u.settle ∧
              (s.finished e k).SeqTook u k.item.cage (s.cage k.item.cage).seq.access got) ∧
          (k.item.who = .poll → k.cancelled = false → (s.cage k.item.cage).seq.state ≠ .draining →
            ∃ u, exec (.busTransactionComplete e data) s = .next u.settle ∧
              (s.finished e k).PollTook u k.item.cage k.map got)

/-- ADDRESS_NACK, NACK_RETRY_EXPIRY and DATA_NACK (R152): the address of a transaction is tried three times, 1 ms apart; the
third refusal, or a refused data byte of a write, ends the item NO_RESPONSE: a port is answered, the sequencer polls again,
faults or abandons its learning (R53, R80, R38, R189), the poller counts a failed poll (R172). A restore write that fails
leaves the read's outcome, and the shadow UNKNOWN (R149). That a write of which no byte was taken starts the hold-off (R151)
too, and that a refused data byte ends a page-select or a restore write at once, are the model's readings (log entries 13 and
17); that a pause which has not passed goes on is its choice (log entry 3). -/
def Obligations.NacksRetryAndEnd : Prop :=
  ∀ (s : State) (e : EngineNo) (k : Carry), s.inReset = false → (s.engine e).current = some k →
    k.holdWait = none → k.clockLow = none → k.ending = false → engineOf k.item.cage = e →
    (k.pause = none → k.attempts + 1 < 3 →
      exec (.addressNack e) s =
        .next (s.modEngine e fun g =>
          { g with current := some { k with attempts := k.attempts + 1, pause := some s.now } }).settle) ∧
      (∀ t, k.pause = some t →
        (1 ≤ (s.now - t).toNat →
          exec (.nackRetryExpiry e) s =
            .next (s.modEngine e fun g => { g with current := some { k with pause := none } }).settle) ∧
          ((s.now - t).toNat < 1 → exec (.nackRetryExpiry e) s = .next s.settle)) ∧
      ∀ i : Instr, k.pause = none →
        (i = .addressNack e ∧ 3 ≤ k.attempts + 1 ∨
          i = .dataNack e ∧ (k.item.write = true ∨ k.phase ≠ .burst)) →
        (∀ (p : Port) (code target : Byte), k.item.who = .port p → (s.port p).reply = .pending code target →
          (k.phase ≠ .restorePage →
            ∃ u, exec i s = .next u.settle ∧
              ((s.unanswered e k).answered p .noResponse code target []).DrainGoesOn u k.item.cage ∧
              (u.port p).reply = .answered .noResponse code target []) ∧
            (k.phase = .restorePage → (s.cage k.item.cage).seq.state ≠ .draining →
              exec i s =
                .next (((s.finished e k).answered p .ok code target k.got).modBus k.item.cage fun b =>
                  { b with shadow := none }).settle)) ∧
          (k.phase ≠ .restorePage → k.item.who = .seq ∨ k.item.who = .poll → k.cancelled = true →
            ∃ u, exec i s = .next u.settle ∧ (s.unanswered e k).DrainGoesOn u k.item.cage) ∧
          (k.phase ≠ .restorePage → k.item.who = .seq → k.cancelled = false →
            (s.cage k.item.cage).seq.state ≠ .draining →
            ∃ u, exec i s = .next u.settle ∧
              (s.unanswered e k).SeqFailed u k.item.cage (s.cage k.item.cage).seq.access) ∧
          (k.phase ≠ .restorePage → k.item.who = .poll → k.cancelled = false →
            (s.cage k.item.cage).seq.state ≠ .draining →
            ∃ u, exec i s = .next u.settle ∧ (s.unanswered e k).PollMissed u k.item.cage)

/-- STUCK_LIMIT_EXPIRY, HOLD_OFF_EXPIRY and ITEM_END_AT_BYTE_BOUNDARY (R147, R151, R153, R154). A clock held low for more than
25 ms makes the segment STUCK with the page shadow UNKNOWN and the recovery started; the carried item and every waiting item
of the cage end BUS_STUCK: ports are answered, a SEQ item is a module fault, a POLL item a failed poll. A hold-off that has
passed is cleared, and a write that waited for it between two bursts goes on. The item of a removed cage ends ABSENT, with
the shadow UNKNOWN, and the drain of the cage goes on. It is the model's choice that an early expiry changes nothing (log
entry 3) and that the items of a STUCK segment end in the order carried, passthroughs, POLL, SEQ (18), and its reading that
an item ends ABSENT at the end of its hold-off too (15). -/
def Obligations.BusLimitsEndItems : Prop :=
  ∀ (s : State), s.inReset = false →
    (∀ (e : EngineNo) (k : Carry) (t : Stamp), (s.engine e).current = some k → k.clockLow = some t →
      engineOf k.item.cage = e →
      ((s.now - t).toNat ≤ 25 → exec (.stuckLimitExpiry e) s = .next s.settle) ∧
        (25 < (s.now - t).toNat →
          ∃ u, exec (.stuckLimitExpiry e) s = .next u.settle ∧ s.OnlyCage u k.item.cage ∧
            (u.cage k.item.cage).bus.shadow = none ∧ (u.engine e).current = none ∧ (u.engine e).selected = none ∧
            (∀ i ∈ (u.engine e).waiting, i.cage ≠ k.item.cage) ∧
            (∀ p code target, (s.port p).reply = .pending code target →
              (k.item.who = .port p ∨
                ∃ i ∈ (s.engine e).waiting, i.cage = k.item.cage ∧ i.who = .port p) →
              (u.port p).reply = .answered .busStuck code target []) ∧
            ((s.cage k.item.cage).seq.state = .draining → (s.cage k.item.cage).seq.busRelease = true →
              (s.cage k.item.cage).seq.access = .none →
              (∀ i ∈ (s.engine e).waiting, i.cage = k.item.cage → i.who ≠ .seq) →
              (u.cage k.item.cage).bus.seg = .disconnected) ∧
            ((s.cage k.item.cage).seq.state ≠ .draining →
              (u.cage k.item.cage).bus.seg = .stuck ∧ (u.cage k.item.cage).bus.recovery = true ∧
                ((k.item.who = .seq ∧ k.cancelled = false ∧ (s.cage k.item.cage).seq.access ≠ .none ∨
                    ∃ i ∈ (s.engine e).waiting, i.cage = k.item.cage ∧ i.who = .seq) →
                  (u.cage k.item.cage).seq.state = .faulted ∧
                    (u.cage k.item.cage).seq.reason = some .busStuck ∧
                    (u.cage k.item.cage).ciu.lines =
                      { (s.cage k.item.cage).ciu.lines with reset := true, lp := true }) ∧
                (k.item.who ≠ .seq → (∀ i ∈ (s.engine e).waiting, i.cage = k.item.cage → i.who ≠ .seq) →
                  (u.cage k.item.cage).seq = (s.cage k.item.cage).seq ∧
                    (u.cage k.item.cage).ciu = (s.cage k.item.cage).ciu) ∧
                (k.item.who ≠ .seq →
                  (k.item.who = .poll ∧ k.cancelled = false ↔
                    ¬∃ i ∈ (s.engine e).waiting, i.cage = k.item.cage ∧ i.who = .poll) →
                  (u.cage k.item.cage).image.status.failures =
                    min 3 ((s.cage k.item.cage).image.status.failures + 1))))) ∧
      (∀ c,
        ((∀ k, (s.engine (engineOf c)).current = some k → k.item.cage = c → ¬Reached k.holdWait s.now) →
          (Reached (s.cage c).bus.hold s.now →
            exec (.holdOffExpiry c) s = .next (s.modBus c fun b => { b with hold := none }).settle) ∧
            (¬Reached (s.cage c).bus.hold s.now → exec (.holdOffExpiry c) s = .next s.settle)) ∧
          ∀ k, (s.engine (engineOf c)).current = some k → k.item.cage = c → Reached k.holdWait s.now →
            ∃ b, (b = s ∨ b = s.modBus c fun x => { x with hold := none }) ∧
              (k.ending = false →
                exec (.holdOffExpiry c) s =
                  .next (b.modEngine (engineOf c) fun g =>
                    { g with current := some { k with holdWait := none } }).settle) ∧
              (k.ending = true → ∀ p code target, k.item.who = .port p → (s.port p).reply = .pending code target →
                ∃ u : State, exec (.holdOffExpiry c) s = .next u.settle ∧
                  (u.port p).reply = .answered .absent code target [])) ∧
      ∀ (e : EngineNo) (k : Carry), (s.engine e).current = some k → k.ending = true → k.clockLow = none →
        engineOf k.item.cage = e →
        (let b := s.putAside e k.item.cage none (s.cage k.item.cage).bus.hold
         (∀ (p : Port) (code target : Byte), k.item.who = .port p → (s.port p).reply = .pending code target →
          ∃ u, exec (.itemEndAtByteBoundary e) s = .next u.settle ∧
            (b.answered p .absent code target []).DrainGoesOn u k.item.cage ∧
            (u.port p).reply = .answered .absent code target []) ∧
          (k.item.who = .poll ∨ k.item.who = .seq ∧ k.cancelled = true →
            ∃ u, exec (.itemEndAtByteBoundary e) s = .next u.settle ∧ b.DrainGoesOn u k.item.cage))

/-! ### Rail monitor and link stream -/

/-- PAIR_COMPLETE (R132 to R142): the latest codes and the power, the product of the codes times 20 by 1000 rounded down,
are stored and the scan goes on to the next cage. A pair whose rail has not been ON throughout is not evaluated. An evaluated
pair joins the window of four, moves the power-good state and counts the overdraw run. A rail that becomes good is
POWER_GOOD: slot 1 of a bring-up that waited for it starts (R45), an adopted module that waited for it is read (R187,
R189), otherwise it is held. RAIL_FAIL and OVERDRAW are reported once: the cage drains to FAULTED, and a drain to ADMIT_WAIT
is sent to FAULTED. That a cage FAULTED with a module fault takes them too is the model's reading (log entry 21); that the
state of the last pair is kept with the cage is its own (log entry 10). -/
def Obligations.PairsAreJudged : Prop :=
  ∀ (s : State) (vc ic : BitVec 10), s.inReset = false →
    (let c := s.scanCage
     let r := (s.cage c).rlm
     let q := (s.cage c).seq
     let margin := (s.profile c).overdraw
     let power := vc.toNat * ic.toNat * 20 / 1000
     ∃ u, exec (.pairComplete vc ic) s = .next u.settle ∧ u.scanCage.val = (c.val + 1) % 32 ∧
      (∀ d, d ≠ c → d ≠ u.scanCage → u.cage d = s.cage d) ∧
      (u.cage u.scanCage =
        { s.cage u.scanCage with
          rlm := { (s.cage u.scanCage).rlm with onPair := (s.cage u.scanCage).ciu.lines.rail } }) ∧
      (∀ g, g ≠ groupOf c → u.group g = s.group g) ∧ (∀ e, e ≠ engineOf c → u.engine e = s.engine e) ∧
      (u.cage c).rlm.vc = some vc ∧ (u.cage c).rlm.ic = some ic ∧ (u.cage c).rlm.power = some power ∧
      (u.cage c).profile = (s.cage c).profile ∧
      (r.onPair = false ∨ (s.cage c).ciu.lines.rail = false →
        u.cage c = { s.cage c with rlm := { r with vc := some vc, ic := some ic, power := some power } } ∧
          s.SameLists u) ∧
      (r.onPair = true → (s.cage c).ciu.lines.rail = true →
        ((∀ f, ¬r.Reports vc power margin f) →
          r.Judges (u.cage c).rlm vc power margin ∧
            (¬(r.pg = .notYet ∧ 785 ≤ vc.toNat) → (u.cage c).seq = q ∧ s.SameLists u) ∧
            (r.pg = .notYet → 785 ≤ vc.toNat →
              ((q.state = .powering → q.slot ≠ 0 ∨ ¬Reached q.timers.slot s.now →
                  (u.cage c).seq = { q with pgHeld := true, timers := { q.timers with pgLimit := none } }) ∧
                (∀ t, q.state = .powering → q.slot = 0 → Reached q.timers.slot s.now → q.table = some t →
                  (t.bus = 1 ∨ (s.cage c).bus.seg = .connected ∨ 1 < max t.bus t.ready) →
                  s.SlotStarted u c t 1 ∧ (u.cage c).seq.pgHeld = true ∧ (u.cage c).seq.timers.pgLimit = none) ∧
                (q.state = .adopting → q.adopted = true → q.pgHeld = false → (s.cage c).bus.seg = .connected →
                  s.ReadingStarted u c ∧ (u.cage c).seq.pgHeld = true ∧ (u.cage c).seq.timers.pgLimit = none) ∧
                (q.state = .adopting → q.adopted = false →
                  (u.cage c).seq = { q with pgHeld := true, timers := { q.timers with pgLimit := none } }) ∧
                (q.state ≠ .powering → q.state ≠ .adopting → (u.cage c).seq = q)))) ∧
          ∀ f, r.Reports vc power margin f →
            (u.cage c).rlm.reported = true ∧
              (q.state ≠ .draining → ¬(r.pg = .notYet ∧ 785 ≤ vc.toNat) →
                (u.cage c).seq.state = .draining ∧ (u.cage c).seq.dest = some .faulted ∧
                  (u.cage c).seq.reason = some f ∧ (u.cage c).seq.slot = q.firstDrainSlot ∧
                  (u.cage c).ciu.lines.lp = true ∧ (u.cage c).nextPoll = none ∧ s.Posted u c .fault) ∧
              (q.state ≠ .draining → r.pg = .notYet → 785 ≤ vc.toNat →
                (u.cage c).seq.state = .draining ∧ (u.cage c).seq.dest = some .faulted ∧
                  (u.cage c).seq.reason = some f) ∧
              (q.state = .draining → q.dest = some .admitWait →
                (u.cage c).seq = { q with dest := some .faulted, reason := some f } ∧ s.Posted u c .fault) ∧
              (q.state = .draining → q.dest ≠ some .admitWait → (u.cage c).seq = q ∧ s.SameLists u)))

/-- LINK_STREAM_FRAME and STREAM_STALE_TIMEOUT (R89 to R92, R94 to R96): a run of 256 bits closed by a marker makes a STALE
stream LIVE with every slot as the frame has it, STREAM_BACK is posted, and every cage evaluates its link summary; in LIVE a
slot takes a bit that the previous frame had too, and the cages with a used slot that changed evaluate theirs; a run of
another length is discarded; 50 ms without a valid frame make the stream STALE with every slot UNKNOWN, STREAM_LOST is
posted and every cage evaluates. The summary is ALL_UP, SOME_UP or NONE_UP by the used slots, UNKNOWN without a stream. No
evaluation touches a group's budget, queue, last inrush record or feed fault, and none its committed charge but a learning
that starts on a STUCK segment: it is the module fault BUS_STUCK, and a charge above 1500 falls (R37, R38, R107, R116, R117,
R147). That the bits before the first marker are none, so that a marker with no run in reception only opens one, and that a
stale timeout before its time or of a STALE stream changes nothing, are the model's choice (log entries 12 and 3); that an
evaluation which leaves a cage in LINK_WAIT records no last known summary (R94) is its reading (log entry 44). -/
def Obligations.LinkStreamIsFollowed : Prop :=
  ∀ s : State, s.inReset = false →
    (∀ (run bits : List Bool), s.lsr.reception = some run →
      (run.length + bits.length ≠ 256 →
        exec (.linkStreamFrame bits) s =
          .next ({ s with lsr := { s.lsr with reception := some [] } } : State).settle) ∧
        (run.length + bits.length = 256 →
          ∃ (u : State) (new : BitVec 256), exec (.linkStreamFrame bits) s = .next u.settle ∧
            (∀ n, n < 256 → new.getLsbD n = (run ++ bits).getD n false) ∧
            ({ s with lsr := u.lsr } : State).SameDevice u ∧ s.SameReplies u ∧
            (∀ g, u.group g = { s.group g with committed := (u.group g).committed }) ∧
            (∀ g, (∀ c, groupOf c = g → s.LearningDue c → (s.cage c).bus.seg ≠ .stuck) → u.group g = s.group g) ∧
            (∀ e, (∀ c, engineOf c = e → ¬s.LearningDue c) → u.engine e = s.engine e) ∧
            (s.lsr.live = false →
              u.lsr = ⟨true, some new, some new, some s.now, some []⟩ ∧ (∀ c, s.Told u c) ∧
                ∀ p, entriesOfDevice (u.port p).list =
                  entriesOfDevice (addKind (s.port p).list none DeviceKind.streamBack.bit none)) ∧
            ∀ old prev, s.lsr.live = true → s.lsr.accepted = some old → s.lsr.previous = some prev →
              ∃ acc : BitVec 256, u.lsr = ⟨true, some acc, some new, some s.now, some []⟩ ∧
                (∀ n, n < 256 →
                  acc.getLsbD n = if new.getLsbD n = prev.getLsbD n then new.getLsbD n else old.getLsbD n) ∧
                (∀ c, (∃ n, s.UsesSlot c n ∧ acc.getLsbD n ≠ old.getLsbD n) → s.Told u c) ∧
                (∀ c, (∀ n, s.UsesSlot c n → acc.getLsbD n = old.getLsbD n) → s.Untold u c) ∧
                ∀ p, entriesOfDevice (u.port p).list = entriesOfDevice (s.port p).list)) ∧
      (s.lsr.reception = none → ∀ bits,
        exec (.linkStreamFrame bits) s =
          .next ({ s with lsr := { s.lsr with reception := some [] } } : State).settle) ∧
      (∀ t, s.lsr.live = true → s.lsr.lastValid = some t →
        ((s.now - t).toNat < 50 → exec .streamStaleTimeout s = .next s) ∧
          (50 ≤ (s.now - t).toNat →
            ∃ u : State, exec .streamStaleTimeout s = .next u.settle ∧
              u.lsr = { s.lsr with live := false, accepted := none, previous := none } ∧
              ({ s with lsr := u.lsr } : State).SameDevice u ∧ s.SameReplies u ∧ (∀ g, u.group g = s.group g) ∧
              (∀ e, u.engine e = s.engine e) ∧ (∀ c, s.Told u c) ∧
              ∀ p, entriesOfDevice (u.port p).list =
                entriesOfDevice (addKind (s.port p).list none DeviceKind.streamLost.bit none))) ∧
      (s.lsr.live = false → exec .streamStaleTimeout s = .next s) ∧
      ∀ c,
        (s.lsr.live = false ∨ s.lsr.accepted = none → s.summary c = .unknown) ∧
          ∀ acc, s.lsr.live = true → s.lsr.accepted = some acc →
            (s.summary c = .allUp ↔ ∀ n, s.UsesSlot c n → acc.getLsbD n = true) ∧
              (s.summary c = .noneUp ↔
                (∃ n, s.UsesSlot c n) ∧ ∀ n, s.UsesSlot c n → acc.getLsbD n = false) ∧
              (s.summary c = .someUp ↔
                (∃ n, s.UsesSlot c n ∧ acc.getLsbD n = true) ∧ ∃ n, s.UsesSlot c n ∧ acc.getLsbD n = false)

/-! ### Derivations -/

/-- R70 to R73, R75, R76, R88: what the sequencer writes. A lane's raw eq and requested amplitude come from the tuned list,
from the module's advertised eq with the profile's trim, or from the profile, as the decision and the class say, SAME_UNIT
without a tuned list as SAME_TYPE; the eq is saturated to 0 to 15, the amplitude held to the advertised maximum, each with its
flag. FORCE_ON without a squelch-disable field is FOLLOW with its flag, and the two tx bytes have the bits of their lanes. The
breakout is the profile's, 1 for an invalid one, or where it does not fit the one applied before. -/
def Obligations.LanePlanIsDerived : Prop :=
  ∀ (s : State) (c : CageNo),
    let q := (s.cage c).seq
    let p := s.profile c
    let i := (s.cage c).image.identity
    (∀ k x, p.lanes[k]? = some x →
      (let raw : Int → Prop := fun r =>
        (s.lanePlan c k).eq = (if r < 0 then 0 else if 15 < r then 15 else r.toNat) ∧
          (s.lanePlan c k).eqClamped = (decide (r < 0) || decide (15 < r))
       let asked : Nat → Prop := fun a =>
        (∀ m, i.maxAmp = some m → (s.lanePlan c k).amp = min a m ∧ (s.lanePlan c k).ampClamped = decide (m < a)) ∧
          (i.maxAmp = none → (s.lanePlan c k).amp = a ∧ (s.lanePlan c k).ampClamped = false)
       (∀ l t, q.decision ≠ some .adoptNew → q.cls = some .sameUnit → p.tuned = some l → l[k]? = some t →
        raw t.eq ∧ asked t.amp) ∧
        (q.decision ≠ some .adoptNew → q.cls ≠ some .sameUnit ∨ p.tuned = none →
          asked x.amp ∧ (∀ l (v : Nat), i.eqRec = some l → l[k]? = some v → raw (v + x.trim)) ∧
            (i.eqRec = none → raw (x.eq + x.trim))) ∧
        (q.decision = some .adoptNew →
          asked x.amp ∧ (∀ l (v : Nat), i.eqRec = some l → l[k]? = some v → raw v) ∧ (i.eqRec = none → raw 8))) ∧
        s.laneTx c k =
          if x.tx = .forceOn then if (s.mapOf c).squelch = none then (.follow, true) else (.forceOn, false)
          else (x.tx, false)) ∧
      (∀ k, k < 8 → (s.cage c).profile.valid = false → s.laneTx c k = (.follow, false)) ∧
      (∀ k, k < 8 →
        ((s.squelchByte c).getLsbD k = true ↔ k < s.laneCount c ∧ (s.laneTx c k).1 = .forceOn) ∧
          ((s.txDisableByte c).getLsbD k = true ↔ s.laneCount c ≤ k ∨ (s.laneTx c k).1 = .squelch)) ∧
      ∀ set, i.breakouts = some set →
        let b := if (s.cage c).profile.valid then (s.cage c).profile.breakout else 1
        (BreakoutFits set (s.laneCount c) b → s.breakoutToWrite c = b) ∧
          ∀ n, ¬BreakoutFits set (s.laneCount c) b → (s.cage c).image.breakout = some n → s.breakoutToWrite c = n

/-- R64 to R66: the match class and the note TUNED_EXPIRED, the first row of the table that applies. A cage is classified by
its profile, the identity in its image and the reseat window test (R65). -/
def Obligations.ClassIsFirstRow : Prop :=
  (∀ (s : State) (c : CageNo),
    (s.WindowMet c → s.classify c = classOf (s.cage c).profile (s.cage c).image.identity true) ∧
      (¬s.WindowMet c → s.classify c = classOf (s.cage c).profile (s.cage c).image.identity false)) ∧
  ∀ (p : Profile) (i : Identity) (met : Bool),
    (p.valid = false → classOf p i met = (.noProfile, false)) ∧
      (p.valid = true →
        (p.lastUnit = none → classOf p i met = (.newType, false)) ∧
          ∀ u, p.lastUnit = some u →
            (¬(i.ident = some u.ident ∧ i.vendor = some u.vendor ∧ i.part = some u.part) →
              classOf p i met = (.newType, false)) ∧
              (i.ident = some u.ident ∧ i.vendor = some u.vendor ∧ i.part = some u.part →
                (i.serial = some u.serial → p.tuned ≠ none → met = true → classOf p i met = (.sameUnit, false)) ∧
                  (i.serial = some u.serial → p.tuned ≠ none → met = false →
                    classOf p i met = (.sameType, true)) ∧
                  (i.serial ≠ some u.serial ∨ p.tuned = none → classOf p i met = (.sameType, false))))
end

