-- ==== Sys2Proof/Laws/Closed.lean ====
section
/-! SUPPORT. What every operation on a cage keeps. A relation between states that is reflexive and transitive and holds
across the plain updates of a cage (`Closed`) holds across every shared operation: said once here, and used for the
frame (an operation on a cage touches that cage only) and for each invariant. -/

namespace Sys2Proof.Machine

/-- A reflexive and transitive relation between states. -/
structure Rel where
  R : State → State → Prop
  refl' : ∀ s, R s s
  trans' : ∀ {s t u}, R s t → R t u → R s u

/-- The relation holds from `s` to `t`. -/
def Rel.To (K : Rel) (s t : State) : Prop := K.R s t

theorem Rel.refl (K : Rel) (s : State) : K.To s s := K.refl' s

theorem Rel.To.trans {K : Rel} {s t u : State} (a : K.To s t) (b : K.To t u) : K.To s u := K.trans' a b

theorem Rel.To.ite {K : Rel} {s t u : State} {p : Prop} [Decidable p] (a : K.To s t) (b : K.To s u) :
    K.To s (if p then t else u) := by
  split
  · exact a
  · exact b

/-- A relation that holds across the plain updates of a cage `c`, of its engine, its group's queue and the attention
lists, and across each way in which a passthrough for the cage ends. -/
structure Closed (c : CageNo) extends Rel where
  modSeq : ∀ s f, toRel.To s (s.modSeq c f)
  modOutage : ∀ s f, toRel.To s (s.modOutage c f)
  modImage : ∀ s f, toRel.To s (s.modImage c f)
  modBus : ∀ s f, toRel.To s (s.modBus c f)
  modCiu : ∀ s f, (∀ k, (f k).lines = k.lines) → toRel.To s (s.modCiu c f)
  nextPoll : ∀ s (f : Option Timer → Option Timer), toRel.To s (s.modCage c fun k => { k with nextPoll := f k.nextPoll })
  learned : ∀ s unit l, toRel.To s (s.modProfile c fun p => p.withLearned unit (tunedList p.inForce l))
  setCharge : ∀ s n, toRel.To s (s.setCharge c n)
  railOn : ∀ s, toRel.To s (s.railOn c)
  railOff : ∀ s, toRel.To s (s.railOff c)
  resetAssert : ∀ s, toRel.To s (s.resetAssert c)
  resetRelease : ∀ s, toRel.To s (s.resetRelease c)
  lpLine : ∀ s, toRel.To s (s.modLines c fun l => { l with lp := true })
  lpRelease : ∀ s, toRel.To s (s.lpRelease c)
  settleBasis : ∀ s, toRel.To s (s.settleBasis c)
  queue : ∀ s (f : List Entry → List Entry),
    (∀ q, (f q).filter (fun e => decide (e.cage ≠ c)) = q.filter fun e => decide (e.cage ≠ c)) →
    toRel.To s (s.modGroup (groupOf c) fun g => { g with queue := f g.queue })
  cancel : ∀ s w, toRel.To s (s.modEngine (engineOf c) fun e => e.cancel c w)
  endPass : ∀ s st p, toRel.To s (s.endPass c st p)
  cutCarried : ∀ s, toRel.To s (s.cutCarried c)
  abortCarried : ∀ s, toRel.To s (s.abortCarried c)
  putAway : ∀ s k, (s.engine (engineOf c)).current = some k → k.item.cage = c →
    toRel.To s (s.modEngine (engineOf c) fun e => { e with current := none, selected := none })
  giveBack : ∀ s k o p, (s.engine (engineOf c)).current = some k → k.item.cage = c → k.item.who = .port p →
    toRel.To s ((s.putDown (engineOf c) k o).answer p o.reply.1 o.reply.2)
  addItem : ∀ s i, i.cage = c → (∀ p, i.who ≠ .port p) → toRel.To s (s.addItem i)
  postTo : ∀ s p k, toRel.To s (s.postTo p c k)
  postDeviceTo : ∀ s p k, toRel.To s (s.postDeviceTo p k)

variable {c : CageNo}

theorem Closed.post (K : Closed c) (s : State) (k : CageKind) : K.To s (s.post c k) :=
  (K.postTo s .A k).trans (K.postTo _ .B k)

theorem Closed.postDevice (K : Closed c) (s : State) (k : DeviceKind) : K.To s (s.postDevice k) :=
  (K.postDeviceTo s .A k).trans (K.postDeviceTo _ .B k)

theorem Closed.modTimers (K : Closed c) (s : State) (f : Timers → Timers) : K.To s (s.modTimers c f) := K.modSeq s _

theorem Closed.writeOpen (K : Closed c) (s : State) (f : Outage → Outage) : K.To s (s.writeOpen c f) := K.modOutage s _

theorem Closed.closeRecord (K : Closed c) (s : State) (r : Result) (w : Option Reason) :
    K.To s (s.closeRecord c r w) := K.writeOpen s _

theorem Closed.recordRemoval (K : Closed c) (s : State) (t : Stamp) : K.To s (s.recordRemoval c t) := K.modOutage s _

theorem Closed.recordInsertion (K : Closed c) (s : State) (t : Stamp) : K.To s (s.recordInsertion c t) :=
  K.modOutage s _

theorem Closed.emptyImage (K : Closed c) (s : State) : K.To s (s.emptyImage c) := K.modImage s _

theorem Closed.lpAssert (K : Closed c) (s : State) : K.To s (s.lpAssert c) := by
  unfold State.lpAssert
  have h := (K.lpLine s).trans
    (K.modSeq _ fun q => { q with hpOn := false })
  dsimp only
  split
  · exact h.trans (K.setCharge _ _)
  · exact h

/-! ### Items -/

theorem Closed.cancelSeq (K : Closed c) (s : State) : K.To s (s.cancelSeq c) := K.cancel s _
theorem Closed.withdrawPoll (K : Closed c) (s : State) : K.To s (s.withdrawPoll c) := K.cancel s _
theorem Closed.connect (K : Closed c) (s : State) : K.To s (s.connect c) := K.modBus s _

theorem Closed.endPasses (K : Closed c) (s : State) (st : ReplyStatus) : K.To s (s.endPasses c st) :=
  (K.endPass s st .A).trans (K.endPass _ st .B)

theorem Closed.disconnect (K : Closed c) (s : State) : K.To s (s.disconnect c) :=
  (((K.modBus s _).trans (K.cancelSeq _)).trans (K.withdrawPoll _)).trans
    (K.endPasses _ _)

/-! ### Entering a state, parks, queues -/

theorem Closed.leavePolls (K : Closed c) (s : State) : K.To s (s.leavePolls c) :=
  (K.nextPoll s fun _ => none).trans (K.withdrawPoll _)

theorem Closed.enter (K : Closed c) (s : State) (st : SeqState) (stage : Stage) :
    K.To s (s.enter c st stage) := by
  unfold State.enter
  dsimp only
  split
  · exact (K.modSeq s _).trans (K.settleBasis _)
  · exact ((K.modSeq s _).trans (K.leavePolls _)).trans (K.settleBasis _)

theorem Closed.stopWork (K : Closed c) (s : State) : K.To s (s.stopWork c) :=
  (K.modSeq s _).trans (K.cancelSeq _)

theorem Closed.parkNow (K : Closed c) (s : State) (r : Reason) (stage : Stage) (src : Option Source) :
    K.To s (s.parkNow c r stage src) :=
  (((((K.stopWork s).trans (K.enter _ .parked stage)).trans (K.modSeq _ _)).trans
    (K.post _ .parked)).trans (K.writeOpen _ _)).trans (K.closeRecord _ _ _)

/-- R120: a cage's entry joins a queue without moving the others. -/
theorem joinQueue_others (e : Entry) (q : List Entry) :
    (joinQueue e q).filter (fun x => decide (x.cage ≠ e.cage)) = q.filter fun x => decide (x.cage ≠ e.cage) := by
  induction q with
  | nil => simp [joinQueue]
  | cons x q ih =>
    unfold joinQueue
    split
    · rw [List.filter_cons_of_neg (by simp)]
    · simp only [List.filter_cons, ih]

theorem Closed.enqueue (K : Closed c) (s : State) (k : QueueKind) (n : Nat) (stage : Stage) :
    K.To s (s.enqueue c k n stage) := by
  unfold State.enqueue
  split
  · exact K.parkNow s _ _ _
  · exact K.queue s _ (joinQueue_others ⟨c, k, n, (s.profile c).priority, s.now, s.elapsed⟩)

theorem Closed.withdrawEntry (K : Closed c) (s : State) : K.To s (s.withdrawEntry c) :=
  K.queue s _ fun q => by simp [List.filter_filter]

theorem Closed.enterAdmit (K : Closed c) (s : State) : K.To s (s.enterAdmit c) :=
  (((K.stopWork s).trans (K.enter _ _ _)).trans (K.modSeq _ _)).trans
    (K.enqueue _ _ _ _)

theorem Closed.readmit (K : Closed c) (s : State) : K.To s (s.readmit c) := (K.emptyImage s).trans (K.enterAdmit _)

theorem Closed.enterEmpty (K : Closed c) (s : State) : K.To s (s.enterEmpty c) :=
  ((K.stopWork s).trans (K.enter _ _ _)).trans (K.modSeq _ _)

theorem Closed.moduleFault (K : Closed c) (s : State) (r : Reason) : K.To s (s.moduleFault c r) :=
  ((((((K.stopWork s).trans (K.resetAssert _)).trans (K.lpAssert _)).trans
    (K.enter _ _ _)).trans (K.modSeq _ _)).trans (K.post _ _)).trans
    (K.closeRecord _ _ _)

/-! ### Drains and power faults -/

theorem Closed.busUndo (K : Closed c) (s : State) : K.To s (s.busUndo c) := by
  unfold State.busUndo
  split
  · exact K.refl s
  · exact K.disconnect s
  · split
    · exact (K.endPasses s _).trans (K.modSeq _ _)
    · exact K.disconnect s

theorem Closed.undoSlot (K : Closed c) (s : State) (n : Nat) : K.To s (s.undoSlot c n) := by
  unfold State.undoSlot
  exact ((Rel.To.ite (K.resetAssert s) (K.refl s)).trans (.ite (K.busUndo _) (K.refl _))).trans
    (.ite (K.railOff _) (K.refl _))

theorem Closed.startDrainSlot (K : Closed c) (s : State) (n : Nat) : K.To s (s.startDrainSlot c n) :=
  (K.modSeq s _).trans (K.undoSlot _ n)

theorem Closed.startDrain (K : Closed c) (s : State) (dest : Dest) (r : Option Reason) :
    K.To s (s.startDrain c dest r) := by
  unfold State.startDrain
  exact (((((K.stopWork s).trans (K.withdrawEntry _)).trans (K.enter _ _ _)).trans
    (K.modSeq _ _)).trans (K.lpAssert _)).trans (K.startDrainSlot _ _)

theorem Closed.enterPowerFault (K : Closed c) (s : State) (r : Reason) (stage : Stage) :
    K.To s (s.enterPowerFault c r stage) :=
  (((K.stopWork s).trans (K.enter _ _ _)).trans (K.modSeq _ _)).trans
    (K.closeRecord _ _ _)

theorem Closed.endDrain (K : Closed c) (s : State) : K.To s (s.endDrain c) := by
  unfold State.endDrain
  split
  · exact K.readmit s
  · exact (K.emptyImage s).trans (K.enterPowerFault _ _ _)
  · exact .ite (K.readmit s) ((K.emptyImage s).trans (K.enterEmpty _))

theorem Closed.powerFault (K : Closed c) (s : State) (r : Reason) : K.To s (s.powerFault c r) := by
  unfold State.powerFault
  split
  · split
    · split
      · exact (K.modSeq s _).trans (K.post _ _)
      · exact K.refl s
    · exact (K.post s _).trans (K.startDrain _ _ _)
  · exact K.refl s

theorem Closed.enterGroupFeed (K : Closed c) (s : State) : K.To s (s.enterGroupFeed c) := by
  unfold State.enterGroupFeed
  dsimp only
  split
  · exact K.enterPowerFault s _ _
  · exact (K.enterPowerFault s _ _).trans (K.modSeq _ _)

theorem Closed.cut (K : Closed c) (s : State) : K.To s (s.cut c) := by
  have h : K.To s (((((s.cutCarried c).disconnect c).withdrawEntry c).railOff c).lpAssert c) :=
    ((((K.cutCarried s).trans (K.disconnect _)).trans (K.withdrawEntry _)).trans
      (K.railOff _)).trans (K.lpAssert _)
  unfold State.cut
  dsimp only
  split
  · split
    · exact (h.trans (K.emptyImage _)).trans (K.enterGroupFeed _)
    · exact h.trans (K.endDrain _)
  · exact h.trans (K.enterGroupFeed _)
  · exact (h.trans (K.post _ _)).trans (K.enterGroupFeed _)

/-! ### Items and polls -/

theorem State.accessItem_cage (s : State) (c : CageNo) (a : Access) : (s.accessItem c a).cage = c := by
  cases a <;> rfl

theorem State.accessItem_who (s : State) (c : CageNo) (a : Access) : (s.accessItem c a).who = .seq := by
  cases a <;> rfl

theorem Closed.postSeq (K : Closed c) (s : State) (a : Access) : K.To s (s.postSeq c a) := by
  unfold State.postSeq
  split
  · exact (K.modSeq s _).trans (K.addItem _ _ (s.accessItem_cage c a) (by simp [State.accessItem_who]))
  · exact K.moduleFault s _
  · exact K.modSeq s _

theorem Closed.pollFailed (K : Closed c) (s : State) : K.To s (s.pollFailed c) := by
  unfold State.pollFailed
  exact .ite ((K.modImage s _).trans (K.post _ _)) (K.modImage s _)

theorem Closed.postPoll (K : Closed c) (s : State) : K.To s (s.postPoll c) := by
  unfold State.postPoll
  refine .ite (K.refl s) ?_
  split
  · exact K.addItem s _ rfl (by simp [State.pollItem, readItem])
  · exact K.pollFailed s
  · exact K.refl s

theorem Closed.joinPolls (K : Closed c) (s : State) : K.To s (s.joinPolls c) :=
  ((K.postPoll s).trans (K.modCiu _ (fun k => { k with latch := none }) fun _ => rfl)).trans
    (K.nextPoll _ fun _ => some ⟨s.now, s.settings.pollInterval⟩)

theorem Closed.offerLatch (K : Closed c) (s : State) : K.To s (s.offerLatch c) := by
  unfold State.offerLatch
  split
  · exact (K.modCiu s (fun k => { k with latch := none }) fun _ => rfl).trans (K.postPoll _)
  · exact K.refl s

theorem Closed.pollTaken (K : Closed c) (s : State) (m : FieldMap) (data : List Byte) :
    K.To s (s.pollTaken c m data) := by
  unfold State.pollTaken
  have h := (K.modImage s fun i =>
    { i with
      status := ⟨some (readingOf m (s.laneCount c) data).temperature,
        some (readingOf m (s.laneCount c) data).laneLoss,
        some (readingOf m (s.laneCount c) data).alert, some s.now, 0⟩
      state := if i.state = .stale then .valid else i.state })
  exact (h.trans (.ite (K.post _ _) (K.refl _))).trans (.ite (K.post _ _) (K.refl _))

/-! ### The link -/

theorem Closed.noticeRestored (K : Closed c) (s : State) : K.To s (s.noticeRestored c) := by
  unfold State.noticeRestored
  exact .ite ((K.post s _).trans (K.modSeq _ _)) (K.refl s)

theorem Closed.abandonLearning (K : Closed c) (s : State) : K.To s (s.abandonLearning c) := K.modSeq s _

theorem Closed.storeLearned (K : Closed c) (s : State) : K.To s (s.storeLearned c) := by
  unfold State.storeLearned
  exact ((K.learned s _ _).trans (K.post _ _)).trans (K.abandonLearning _)

theorem Closed.learnLane (K : Closed c) (s : State) (k : Nat) : K.To s (s.learnLane c k) := by
  unfold State.learnLane
  exact .ite (K.postSeq s _) (K.storeLearned s)

theorem Closed.startLearning (K : Closed c) (s : State) : K.To s (s.startLearning c) := by
  unfold State.startLearning
  exact (K.modSeq s _).trans (K.learnLane _ 0)

theorem Closed.restoreUp (K : Closed c) (s : State) : K.To s (s.restoreUp c) := by
  unfold State.restoreUp
  exact (((K.enter s _ _).trans (K.modSeq _ _)).trans ((K.closeRecord _ _ _).trans
    (K.noticeRestored _))).trans (.ite (K.startLearning _) (K.modSeq _ _))

theorem Closed.restoreDegraded (K : Closed c) (s : State) (r : Reason) (k : Option Summary) :
    K.To s (s.restoreDegraded c r k) := by
  unfold State.restoreDegraded
  exact ((K.enter s _ _).trans (K.modSeq _ _)).trans ((K.closeRecord _ _ _).trans
    (K.post _ _))

theorem Closed.followLink (K : Closed c) (s : State) : K.To s (s.followLink c) := by
  unfold State.followLink
  refine .ite (K.refl s) (.ite (K.refl s) ?_)
  exact ((K.modSeq s _).trans (.ite (K.post _ _) (K.refl _))).trans
    (.ite (K.noticeRestored _) (K.refl _))

theorem Closed.evalLink (K : Closed c) (s : State) : K.To s (s.evalLink c) := by
  unfold State.evalLink
  split
  · exact .ite (K.restoreUp s) (K.refl s)
  · exact K.followLink s
  · exact K.followLink s
  · exact K.refl s

theorem Closed.enterLinkWait (K : Closed c) (s : State) (n : Option Nat) : K.To s (s.enterLinkWait c n) := by
  unfold State.enterLinkWait
  exact ((K.enter s _ _).trans (K.modSeq _ _)).trans ((K.joinPolls _).trans
    (K.evalLink _))

theorem Closed.retryLink (K : Closed c) (s : State) : K.To s (s.retryLink c) := by
  unfold State.retryLink
  exact ((K.enter s _ _).trans (K.modSeq _ _)).trans (K.postSeq _ _)

theorem Closed.linkExpired (K : Closed c) (s : State) : K.To s (s.linkExpired c) := by
  unfold State.linkExpired
  split
  · exact K.restoreDegraded s _ _
  · exact K.restoreDegraded s _ _
  · split
    · exact K.restoreDegraded s _ _
    · exact .ite ((K.modSeq s _).trans (K.retryLink _)) ((K.modSeq s _).trans (K.moduleFault _ _))
  · exact K.restoreUp s

/-! ### Decisions -/

theorem Closed.recordClass (K : Closed c) (s : State) (k : MatchClass × Bool) : K.To s (s.recordClass c k) :=
  (K.modSeq s _).trans (K.writeOpen _ _)

theorem Closed.parkFromDecide (K : Closed c) (s : State) (r : Reason) (src : Option Source) :
    K.To s (s.parkFromDecide c r src) := by
  unfold State.parkFromDecide
  exact .ite ((((K.stopWork s).trans (K.modSeq _ _)).trans (K.writeOpen _ _)).trans ((K.lpAssert _).trans
    (K.postSeq _ _))) (K.parkNow s _ _ _)

theorem Closed.commit (K : Closed c) (s : State) (d : Decision) (src : Source) : K.To s (s.commit c d src) := by
  unfold State.commit
  exact (K.modSeq s _).trans (K.writeOpen _ _)

theorem Closed.enterHpWait (K : Closed c) (s : State) : K.To s (s.enterHpWait c) :=
  ((K.stopWork s).trans (K.enter _ _ _)).trans (K.enqueue _ _ _ _)

theorem Closed.enterLaneMap (K : Closed c) (s : State) : K.To s (s.enterLaneMap c) :=
  (K.enter s _ _).trans (K.postSeq _ _)

theorem Closed.proceed (K : Closed c) (s : State) (d : Decision) (src : Source) :
    K.To s (s.proceed c d src) := by
  unfold State.proceed
  refine (K.commit s d src).trans (.ite ?_ (K.enterHpWait _))
  cases d
  · exact K.enterLaneMap _
  · exact K.enterLinkWait _ _

theorem Closed.waitDecision (K : Closed c) (s : State) (w : Bool) : K.To s (s.waitDecision c w) := by
  unfold State.waitDecision
  exact (K.modSeq s _).trans (K.post _ _)

theorem Closed.decideEval (K : Closed c) (s : State) : K.To s (s.decideEval c) := by
  unfold State.decideEval
  dsimp only
  refine ((K.modTimers s fun t => { t with window := none }).trans
    (K.recordClass _ (s.classify c))).trans ?_
  split
  · exact K.parkFromDecide _ _ _
  · exact K.proceed _ _ _
  · exact K.waitDecision _ _
  · exact K.waitDecision _ _

theorem Closed.enterDecide (K : Closed c) (s : State) : K.To s (s.enterDecide c) :=
  ((K.enter s _ _).trans (K.modImage _ _)).trans (K.decideEval _)

theorem Closed.startIdentPoll (K : Closed c) (s : State) : K.To s (s.startIdentPoll c) :=
  (K.modImage s _).trans (K.postSeq _ _)

theorem Closed.enterFind (K : Closed c) (s : State) : K.To s (s.enterFind c) := by
  unfold State.enterFind
  exact ((K.enter s _ _).trans (K.modTimers _ _)).trans (K.startIdentPoll _)

theorem Closed.resume (K : Closed c) (s : State) : K.To s (s.resume c) := by
  unfold State.resume
  exact (K.modSeq s _).trans (.ite (K.enterAdmit _) (.ite (K.enterFind _)
    ((K.enter _ _ _).trans (K.decideEval _))))

/-! ### Outcomes of the sequencer's items -/

theorem Closed.pollAgain (K : Closed c) (s : State) (a : Access) : K.To s (s.pollAgain c a) := K.modSeq s _

theorem Closed.identityDone (K : Closed c) (s : State) : K.To s (s.identityDone c) := by
  unfold State.identityDone
  exact (K.modImage s _).trans (.ite (K.postSeq _ _) (K.enterDecide _))

theorem Closed.tookField (K : Closed c) (s : State) (f : IdField) (data : List Byte) :
    K.To s (s.tookField c f data) := by
  unfold State.tookField
  refine (K.modImage s fun i =>
    { i with identity := i.identity.store f data (s.mapOf c).laneCount }).trans ?_
  dsimp only
  split
  · exact K.postSeq _ _
  · exact K.identityDone _

theorem Closed.writeIdent (K : Closed c) (s : State) (b : Byte) : K.To s (s.writeIdent c b) :=
  K.modImage s _

theorem Closed.tookIdent (K : Closed c) (s : State) (b : Byte) : K.To s (s.tookIdent c b) := by
  unfold State.tookIdent
  have h := K.writeIdent s b
  have k := h.trans (K.modTimers _ fun t => { t with init := none })
  dsimp only
  split
  · exact k.trans (K.postSeq _ _)
  · exact (k.trans (K.lpAssert _)).trans (K.parkNow _ _ _ _)
  · exact (h.trans (K.modSeq _ _)).trans (K.postSeq _ _)
  · exact k.trans (K.parkNow _ _ _ _)

theorem Closed.tookReady (K : Closed c) (s : State) (b : Byte) : K.To s (s.tookReady c b) := by
  unfold State.tookReady
  exact .ite (((K.modTimers s _).trans (K.modSeq _ _)).trans (K.postSeq _ _))
    (K.pollAgain s _)

theorem Closed.overcommit (K : Closed c) (s : State) (g : GroupNo) : K.To s (s.overcommit g) := by
  unfold State.overcommit
  exact .ite (K.postDevice s _) (K.refl s)

theorem Closed.adoptMatched (K : Closed c) (s : State) : K.To s (s.adoptMatched c) := by
  unfold State.adoptMatched
  exact ((K.modSeq s _).trans (K.writeOpen _ _)).trans (K.enterLinkWait _ _)

theorem Closed.adoptDone (K : Closed c) (s : State) (b : Byte) : K.To s (s.adoptDone c b) := by
  unfold State.adoptDone
  exact ((K.modImage s _).trans (.ite ((K.setCharge _ _).trans (K.overcommit _ _))
    (K.lpAssert _))).trans (.ite (K.adoptMatched _) (K.enterDecide _))

theorem Closed.tookAdoptHp (K : Closed c) (s : State) (b : Byte) : K.To s (s.tookAdoptHp c b) := by
  unfold State.tookAdoptHp
  exact (K.modSeq s _).trans (K.postSeq _ _)

theorem Closed.tookAdoptTx (K : Closed c) (s : State) (b : Byte) : K.To s (s.tookAdoptTx c b) := by
  unfold State.tookAdoptTx
  exact (K.modSeq s _).trans (K.postSeq _ _)

theorem Closed.enterHpSettle (K : Closed c) (s : State) : K.To s (s.enterHpSettle c) := by
  unfold State.enterHpSettle
  exact (K.modSeq s _).trans (K.postSeq _ _)

theorem Closed.tookHpDone (K : Closed c) (s : State) (b : Byte) : K.To s (s.tookHpDone c b) := by
  unfold State.tookHpDone
  exact .ite ((K.modSeq s _).trans (K.postSeq _ _)) (K.pollAgain s _)

theorem Closed.wroteBreakout (K : Closed c) (s : State) : K.To s (s.wroteBreakout c) :=
  ((K.modImage s _).trans (K.modSeq _ _)).trans (K.postSeq _ _)

theorem Closed.enterHostSide (K : Closed c) (s : State) : K.To s (s.enterHostSide c) := by
  unfold State.enterHostSide
  exact (K.modSeq s _).trans (K.postTo _ _ _)

theorem Closed.laneDone (K : Closed c) (s : State) (k : Nat) : K.To s (s.laneDone c k) := by
  unfold State.laneDone
  exact .ite ((K.modImage s _).trans (K.writeOpen _ _)) (K.modImage s _)

theorem Closed.writeLane (K : Closed c) (s : State) (k : Nat) : K.To s (s.writeLane c k) := by
  unfold State.writeLane
  exact .ite (K.postSeq s _) (K.enterHostSide s)

theorem Closed.enterDatapath (K : Closed c) (s : State) : K.To s (s.enterDatapath c) := by
  unfold State.enterDatapath
  refine (K.modSeq s fun q =>
    { q with stage := .datapathEnable, timers := { q.timers with hostSide := none } }).trans ?_
  dsimp only
  split
  · exact K.postSeq _ _
  · exact K.postSeq _ _

theorem Closed.datapathDone (K : Closed c) (s : State) : K.To s (s.datapathDone c) := by
  unfold State.datapathDone
  exact ((K.modImage s _).trans (K.modSeq _ _)).trans (K.enterLinkWait _ _)

theorem Closed.learnedLane (K : Closed c) (s : State) (k eq : Nat) (b : Byte) :
    K.To s (s.learnedLane c k eq b) :=
  (K.modSeq s _).trans (K.learnLane _ _)

theorem Closed.parkAdopted (K : Closed c) (s : State) : K.To s (s.parkAdopted c) := by
  unfold State.parkAdopted
  split
  · exact K.parkNow s _ _ _
  · exact K.refl s

theorem Closed.seqOk (K : Closed c) (s : State) (a : Access) (data : List Byte) : K.To s (s.seqOk c a data) := by
  cases a <;> unfold State.seqOk <;> dsimp only
  · exact K.refl s
  · exact K.tookIdent s _
  · exact K.tookReady s _
  · exact K.tookField s _ _
  · exact K.tookAdoptHp s _
  · exact K.tookAdoptTx s _
  · exact K.adoptDone s _
  · exact .ite (K.postSeq s _) (K.postSeq s _)
  · exact K.postSeq s _
  · exact K.enterHpSettle s
  · exact K.tookHpDone s _
  · exact K.wroteBreakout s
  · exact K.writeLane s 0
  · exact K.postSeq s _
  · exact (K.laneDone s _).trans (K.writeLane _ _)
  · exact K.postSeq s _
  · exact K.datapathDone s
  · exact K.postSeq s _
  · exact K.learnedLane s _ _ _
  · exact K.postSeq s _
  · exact K.parkAdopted s

theorem Closed.seqNoResponse (K : Closed c) (s : State) (a : Access) : K.To s (s.seqNoResponse c a) := by
  cases a
  case none => exact K.refl s
  case ident => exact K.pollAgain s _
  case readyFlag => exact K.pollAgain s _
  case hpDone => exact K.pollAgain s _
  case learnEq => exact K.abandonLearning s
  case learnAmp => exact K.abandonLearning s
  all_goals exact K.moduleFault s _

theorem Closed.seqOutcome (K : Closed c) (s : State) (o : Ending) : K.To s (s.seqOutcome c o) := by
  unfold State.seqOutcome
  refine (K.modSeq s fun q => { q with access := .none }).trans ?_
  cases o <;> dsimp only
  · exact K.seqOk _ _ _
  · exact K.seqNoResponse _ _
  · exact .ite (K.refl _) (K.moduleFault _ _)
  · exact K.refl _
  · exact K.refl _

/-! ### Items on the bus -/

theorem Closed.pollOutcome (K : Closed c) (s : State) (m : FieldMap) (o : Ending) :
    K.To s (s.pollOutcome c m o) := by
  unfold State.pollOutcome
  cases o <;> dsimp only
  · exact K.pollTaken s _ _
  · exact K.pollFailed s
  · exact K.pollFailed s
  · exact K.refl s
  · exact K.refl s

theorem Closed.handOver (K : Closed c) (s : State) (k : Carry) (o : Ending) (h : k.item.cage = c)
    (hp : ∀ p, k.item.who ≠ .port p) : K.To s (s.handOver k o) := by
  subst h
  unfold State.handOver
  split
  · next p hw => exact absurd hw (hp p)
  · exact .ite (K.refl s) (K.seqOutcome s o)
  · exact .ite (K.refl s) (K.pollOutcome s _ o)

theorem Closed.nextDrainSlot (K : Closed c) (s : State) : K.To s (s.nextDrainSlot c) := K.startDrainSlot s _

theorem Closed.drainRelease (K : Closed c) (s : State) : K.To s (s.drainRelease c) := by
  unfold State.drainRelease
  exact .ite (((K.disconnect s).trans (K.modSeq _ _)).trans (.ite (K.nextDrainSlot _) (K.refl _))) (K.refl s)

theorem Closed.putDown (K : Closed c) (s : State) (e : EngineNo) (k : Carry) (o : Ending)
    (hk : (s.engine e).current = some k) (hc : k.item.cage = c) (h : engineOf c = e) : K.To s (s.putDown e k o) := by
  subst hc; subst h
  unfold State.putDown
  exact (K.putAway s k hk rfl).trans (K.modBus _ _)

/-- The outcome of a carried item of the cage reaches its requester. -/
theorem Closed.outcome (K : Closed c) (s : State) (e : EngineNo) (k : Carry) (o : Ending)
    (hk : (s.engine e).current = some k) (hc : k.item.cage = c) (h : engineOf c = e) :
    K.To s ((s.putDown e k o).handOver k o) := by
  subst h
  cases hw : k.item.who with
  | port p =>
    have he : (s.putDown (engineOf c) k o).handOver k o =
        (s.putDown (engineOf c) k o).answer p o.reply.1 o.reply.2 := by simp [State.handOver, hw]
    rw [he]
    exact K.giveBack s k o p hk hc hw
  | seq => exact (K.putDown s _ k o hk hc rfl).trans (K.handOver _ k o hc (by simp [hw]))
  | poll => exact (K.putDown s _ k o hk hc rfl).trans (K.handOver _ k o hc (by simp [hw]))

/-- An item's end is an operation on the item's cage. -/
theorem Closed.endItem (K : Closed c) (s : State) (e : EngineNo) (k : Carry) (o : Ending)
    (hk : (s.engine e).current = some k) (hc : k.item.cage = c) (h : engineOf c = e) : K.To s (s.endItem e o) := by
  subst hc
  unfold State.endItem
  rw [hk]
  exact (K.outcome s e k o hk rfl h).trans (K.drainRelease _)

theorem Closed.stickPoll (K : Closed c) (s : State) : K.To s (s.stickPoll c) := by
  unfold State.stickPoll
  exact .ite ((K.withdrawPoll s).trans (K.pollFailed _)) (K.refl s)

theorem Closed.stickSeq (K : Closed c) (s : State) : K.To s (s.stickSeq c) := by
  unfold State.stickSeq
  exact .ite (K.moduleFault s _) (K.refl s)

theorem State.modBus_answer (s : State) (c : CageNo) (f : Bus → Bus) (p : Port) (st : ReplyStatus)
    (data : List Byte) : (s.modBus c f).answer p st data = (s.answer p st data).modBus c f := by
  cases p <;> rfl

/-- The stuck clock of an item of the cage is an operation on the cage. -/
theorem Closed.stick (K : Closed c) (s : State) (e : EngineNo) (k : Carry) (hk : (s.engine e).current = some k)
    (hc : k.item.cage = c) (h : engineOf c = e) : K.To s (s.stick e) := by
  unfold State.stick
  rw [hk]
  subst hc
  dsimp only
  split
  · exact K.refl s
  · refine .ite ?_ (K.refl s)
    have ho : K.To s (((s.putDown e k .busStuck).modBus k.item.cage fun b =>
        { b with seg := .stuck, recovery := true }).handOver k .busStuck) := by
      have hd := K.putDown s e k .busStuck hk rfl h
      cases hw : k.item.who with
      | port p =>
        have hg := K.outcome s e k .busStuck hk rfl h
        simp only [State.handOver, hw] at hg ⊢
        rw [State.modBus_answer]
        exact hg.trans (K.modBus _ _)
      | seq => exact (hd.trans (K.modBus _ _)).trans (K.handOver _ k _ rfl (by simp [hw]))
      | poll => exact (hd.trans (K.modBus _ _)).trans (K.handOver _ k _ rfl (by simp [hw]))
    exact (((ho.trans (K.endPasses _ _)).trans (K.stickPoll _)).trans (K.stickSeq _)).trans (K.drainRelease _)

/-! ### Presence -/

theorem Closed.tearDown (K : Closed c) (s : State) : K.To s (s.tearDown c) := by
  unfold State.tearDown
  exact ((((K.abortCarried s).trans (K.endPasses _ _)).trans (K.emptyImage _)).trans (K.modSeq _ _)).trans
    (K.startDrain _ _ _)

theorem Closed.removedUnpowered (K : Closed c) (s : State) : K.To s (s.removedUnpowered c) := by
  unfold State.removedUnpowered
  exact ((K.abortCarried s).trans (K.emptyImage _)).trans
    (.ite (K.modSeq _ _) ((K.withdrawEntry _).trans (K.enterEmpty _)))

theorem Closed.removed (K : Closed c) (s : State) : K.To s (s.removed c) := by
  unfold State.removed
  exact .ite (K.tearDown s) (K.removedUnpowered s)

theorem Closed.inserted (K : Closed c) (s : State) (t : Stamp) : K.To s (s.inserted c t) := by
  unfold State.inserted
  split
  · exact (K.modSeq s _).trans (K.enterAdmit _)
  · exact K.modSeq s _
  · exact K.refl s

theorem Closed.accept (K : Closed c) (s : State) (k : Candidate) : K.To s (s.accept c k) := by
  unfold State.accept
  refine .ite ?_ ?_
  · exact (((K.modCiu s (fun x => { x with presence := .present, candidate := none }) fun _ => rfl).trans (K.recordInsertion _ _)).trans (K.inserted _ _)).trans (K.post _ _)
  · exact (((K.modCiu s (fun x => { x with presence := .absent, candidate := none, latch := none }) fun _ => rfl).trans (K.recordRemoval _ _)).trans (K.removed _)).trans (K.post _ _)

theorem Closed.acceptDue (K : Closed c) (s : State) : K.To s (s.acceptDue c) := by
  unfold State.acceptDue
  split
  · exact .ite (K.accept s _) (K.refl s)
  · exact K.refl s

theorem Closed.recordA (K : Closed c) (s : State) : K.To s (s.recordA c) := by
  unfold State.recordA
  exact .ite (K.recordRemoval s _) (K.refl s)

theorem Closed.noticeA (K : Closed c) (s : State) (w : Bool) : K.To s (s.noticeA c w) := by
  unfold State.noticeA
  exact .ite (K.post s _) (K.refl s)

theorem Closed.recordB (K : Closed c) (s : State) : K.To s (s.recordB c) := (K.modOutage s _).trans (K.modSeq _ _)

theorem Closed.recordC (K : Closed c) (s : State) : K.To s (s.recordC c) := by
  unfold State.recordC
  exact .ite (K.modSeq s _) (K.recordB s)

theorem Closed.drainAdoption (K : Closed c) (s : State) (d : Dest) : K.To s (s.drainAdoption c d) := by
  unfold State.drainAdoption
  exact (K.startDrain s _ _).trans (K.modTimers _ _)

theorem Closed.startReading (K : Closed c) (s : State) : K.To s (s.startReading c) := by
  unfold State.startReading
  exact (K.modTimers s _).trans (K.startIdentPoll _)

theorem Closed.adopt (K : Closed c) (s : State) : K.To s (s.adopt c) := by
  unfold State.adopt
  exact ((K.recordC s).trans (K.modSeq _ _)).trans (.ite (K.startReading _) (K.refl _))

theorem Closed.adoptionRow (K : Closed c) (s : State) (b : Bool) : K.To s (s.adoptionRow c b) := by
  unfold State.adoptionRow
  refine .ite (.ite ((K.recordB s).trans (K.enterAdmit _)) (.ite ((K.recordB s).trans (K.drainAdoption _ _))
    (K.adopt s))) ?_
  exact ((K.recordA s).trans (.ite (K.drainAdoption _ _) (K.enterEmpty _))).trans (K.noticeA _ _)

theorem Closed.adoptionLate (K : Closed c) (s : State) (b : Bool) : K.To s (s.adoptionLate c b) := by
  unfold State.adoptionLate
  exact .ite ((K.recordB s).trans (.ite (K.closeRecord _ _ _) (K.refl _)))
    (((K.recordA s).trans (K.removed _)).trans (K.noticeA _ _))

theorem Closed.endSettle (K : Closed c) (s : State) : K.To s (s.endSettle c) := by
  unfold State.endSettle State.adoptionPresence
  exact (K.modCiu s (fun k =>
    { k with
      settle := none
      presence := if (s.cage c).ciu.presentPin then .present else .absent }) fun _ => rfl).trans
    (.ite (K.adoptionRow _ _) ((K.adoptionLate _ _).trans (K.settleBasis _)))

theorem Closed.latchEdge (K : Closed c) (s : State) : K.To s (s.latchEdge c) := by
  unfold State.latchEdge
  refine .ite ?_ (K.refl s)
  split
  · exact K.refl s
  · exact (K.modCiu s (fun k => { k with latch := some s.now }) fun _ => rfl).trans (K.offerLatch _)

/-! ### Timed events of the sequencer -/

theorem Closed.startInit (K : Closed c) (s : State) : K.To s (s.startInit c) := by
  unfold State.startInit
  exact K.modTimers s _

theorem Closed.slotSteps (K : Closed c) (s : State) (n : Nat) : K.To s (s.slotSteps c n) := by
  unfold State.slotSteps
  exact ((Rel.To.ite (K.connect s) (K.refl s)).trans (.ite (K.resetRelease _) (K.refl _))).trans
    (.ite (K.startInit _) (K.refl _))

theorem Closed.endPowering (K : Closed c) (s : State) : K.To s (s.endPowering c) :=
  ((K.enter s _ _).trans (K.modTimers _ _)).trans (K.startIdentPoll _)

theorem Closed.startSlot (K : Closed c) (s : State) (n : Nat) : K.To s (s.startSlot c n) := by
  unfold State.startSlot
  exact ((K.modSeq s _).trans (K.slotSteps _ n)).trans (.ite (K.endPowering _) (K.refl _))

theorem Closed.slotOver (K : Closed c) (s : State) : K.To s (s.slotOver c) := by
  unfold State.slotOver
  exact .ite (K.modSeq s _) (K.startSlot s _)

theorem Closed.powerGood (K : Closed c) (s : State) : K.To s (s.powerGood c) := by
  unfold State.powerGood
  have h := K.modSeq s fun q => { q with pgHeld := true, timers := { q.timers with pgLimit := none } }
  dsimp only
  split
  · exact .ite (h.trans (K.startSlot _ 1)) h
  · exact .ite (h.trans (K.startReading _)) h
  · exact K.refl s

theorem Closed.adoptionLimit (K : Closed c) (s : State) : K.To s (s.adoptionLimit c) :=
  (K.modTimers s _).trans (K.powerFault _ _)

theorem Closed.pollDue (K : Closed c) (s : State) : K.To s (s.pollDue c) := (K.modTimers s _).trans (K.postSeq _ _)

theorem Closed.windowOver (K : Closed c) (s : State) : K.To s (s.windowOver c) := by
  unfold State.windowOver
  have h := K.modTimers s fun t => { t with window := none }
  dsimp only
  split
  · exact h.trans (K.proceed _ _ _)
  · exact h.trans (K.parkFromDecide _ _ _)

theorem Closed.hostSideOver (K : Closed c) (s : State) : K.To s (s.hostSideOver c) :=
  (K.writeOpen s _).trans (K.enterDatapath _)

theorem Closed.pollTimeReached (K : Closed c) (s : State) : K.To s (s.pollTimeReached c) := by
  unfold State.pollTimeReached
  exact (K.postPoll s).trans (K.nextPoll _ fun x => x.map fun t => t.advance s.settings.pollInterval)

/-! ### Feed faults and grants -/

theorem Closed.stopFeedClear (K : Closed c) (s : State) : K.To s (s.stopFeedClear c) := by
  unfold State.stopFeedClear
  exact .ite (K.modSeq s _) (K.refl s)

theorem Closed.startFeedClear (K : Closed c) (s : State) : K.To s (s.startFeedClear c) := by
  unfold State.startFeedClear
  exact .ite (K.modSeq s _) (K.refl s)

theorem Closed.feedFault (K : Closed c) (s : State) : K.To s (s.feedFault c) := by
  unfold State.feedFault
  exact .ite (K.cut s) (K.stopFeedClear s)

theorem Closed.neverFit (K : Closed c) (s : State) (g : GroupNo) (e : Entry) (h : e.cage = c) :
    K.To s (s.neverFit g e) := by
  subst h
  unfold State.neverFit
  exact .ite ((K.withdrawEntry s).trans (K.parkNow _ _ _ _)) (K.refl s)

/-! ### Requests -/

theorem Closed.reidentify (K : Closed c) (s : State) : K.To s (s.reidentify c) := by
  unfold State.reidentify
  exact ((((((K.stopWork s).trans (K.modSeq _ _)).trans (K.lpAssert _)).trans
    (.ite (K.resetRelease _) (K.refl _))).trans (K.emptyImage _)).trans (K.connect _)).trans (K.enterFind _)

theorem Closed.resequence (K : Closed c) (s : State) : K.To s (s.resequence c) :=
  ((K.stopWork s).trans (K.modSeq _ _)).trans (K.enterLaneMap _)

theorem Closed.powerCycle (K : Closed c) (s : State) : K.To s (s.powerCycle c) := by
  unfold State.powerCycle
  exact .ite (K.startDrain s _ _) (.ite (K.refl s) (K.enterAdmit s))

theorem Closed.profileChanged (K : Closed c) (s : State) (p : Port) : K.To s (s.profileChanged p c) := by
  unfold State.profileChanged
  exact (K.postTo s _ _).trans (.ite (K.decideEval _) (K.refl _))

end Sys2Proof.Machine
end

