-- ==== Sys2Proof/Laws/State.lean ====
section
/-! SUPPORT. One lemma per field for each update of a part of the state: what a change of one cage, group, engine or
port leaves, and what the changed part holds. -/

namespace Sys2Proof.Machine

variable (s : State) (c d : CageNo) (g h : GroupNo) (e e2 : EngineNo)

@[simp] theorem onEach_eq {α β : Type} {n : Nat} (f : α → β) (v : Vector α n) : onEach f v = v.map f := by
  apply Vector.toArray_inj.mp
  simp [onEach, ← Array.toList_inj]

/-! ### A cage -/

@[simp] theorem State.modCage_now (f : Cage → Cage) : (s.modCage c f).now = s.now := rfl
@[simp] theorem State.modCage_elapsed (f : Cage → Cage) : (s.modCage c f).elapsed = s.elapsed := rfl
@[simp] theorem State.modCage_inReset (f : Cage → Cage) : (s.modCage c f).inReset = s.inReset := rfl
@[simp] theorem State.modCage_cause (f : Cage → Cage) : (s.modCage c f).cause = s.cause := rfl
@[simp] theorem State.modCage_releaseTime (f : Cage → Cage) : (s.modCage c f).releaseTime = s.releaseTime := rfl
@[simp] theorem State.modCage_settings (f : Cage → Cage) : (s.modCage c f).settings = s.settings := rfl
@[simp] theorem State.modCage_deviceLast (f : Cage → Cage) : (s.modCage c f).deviceLast = s.deviceLast := rfl
@[simp] theorem State.modCage_scanCage (f : Cage → Cage) : (s.modCage c f).scanCage = s.scanCage := rfl
@[simp] theorem State.modCage_groups (f : Cage → Cage) : (s.modCage c f).groups = s.groups := rfl
@[simp] theorem State.modCage_engines (f : Cage → Cage) : (s.modCage c f).engines = s.engines := rfl
@[simp] theorem State.modCage_fieldMaps (f : Cage → Cage) : (s.modCage c f).fieldMaps = s.fieldMaps := rfl
@[simp] theorem State.modCage_lsr (f : Cage → Cage) : (s.modCage c f).lsr = s.lsr := rfl
@[simp] theorem State.modCage_portA (f : Cage → Cage) : (s.modCage c f).portA = s.portA := rfl
@[simp] theorem State.modCage_portB (f : Cage → Cage) : (s.modCage c f).portB = s.portB := rfl
@[simp] theorem State.modCage_pending (f : Cage → Cage) : (s.modCage c f).pending = s.pending := rfl

@[simp] theorem State.modCage_modCage (f g : Cage → Cage) :
    (s.modCage c f).modCage c g = s.modCage c fun k => g (f k) := by
  simp [State.modCage]

@[simp] theorem State.modCage_cage_self (f : Cage → Cage) : (s.modCage c f).cage c = f (s.cage c) := by
  unfold State.modCage State.cage; simp

theorem State.modCage_cage_ne (f : Cage → Cage) (hd : d ≠ c) : (s.modCage c f).cage d = s.cage d := by
  have hv : c.val ≠ d.val := fun hv => hd (Fin.ext hv.symm)
  unfold State.modCage State.cage; simp [hv]

theorem State.modCage_cage (f : Cage → Cage) :
    (s.modCage c f).cage d = if d = c then f (s.cage c) else s.cage d := by
  split
  · next hd => subst hd; simp
  · next hd => exact s.modCage_cage_ne c d f hd

@[simp] theorem State.modCage_group (f : Cage → Cage) : (s.modCage c f).group g = s.group g := rfl
@[simp] theorem State.modCage_engine (f : Cage → Cage) : (s.modCage c f).engine e = s.engine e := rfl
@[simp] theorem State.modCage_port (f : Cage → Cage) (p : Port) : (s.modCage c f).port p = s.port p := by
  cases p <;> rfl

/-! ### A group -/

@[simp] theorem State.modGroup_now (f : Group → Group) : (s.modGroup g f).now = s.now := rfl
@[simp] theorem State.modGroup_elapsed (f : Group → Group) : (s.modGroup g f).elapsed = s.elapsed := rfl
@[simp] theorem State.modGroup_inReset (f : Group → Group) : (s.modGroup g f).inReset = s.inReset := rfl
@[simp] theorem State.modGroup_cause (f : Group → Group) : (s.modGroup g f).cause = s.cause := rfl
@[simp] theorem State.modGroup_releaseTime (f : Group → Group) : (s.modGroup g f).releaseTime = s.releaseTime := rfl
@[simp] theorem State.modGroup_settings (f : Group → Group) : (s.modGroup g f).settings = s.settings := rfl
@[simp] theorem State.modGroup_deviceLast (f : Group → Group) : (s.modGroup g f).deviceLast = s.deviceLast := rfl
@[simp] theorem State.modGroup_scanCage (f : Group → Group) : (s.modGroup g f).scanCage = s.scanCage := rfl
@[simp] theorem State.modGroup_cages (f : Group → Group) : (s.modGroup g f).cages = s.cages := rfl
@[simp] theorem State.modGroup_engines (f : Group → Group) : (s.modGroup g f).engines = s.engines := rfl
@[simp] theorem State.modGroup_fieldMaps (f : Group → Group) : (s.modGroup g f).fieldMaps = s.fieldMaps := rfl
@[simp] theorem State.modGroup_lsr (f : Group → Group) : (s.modGroup g f).lsr = s.lsr := rfl
@[simp] theorem State.modGroup_portA (f : Group → Group) : (s.modGroup g f).portA = s.portA := rfl
@[simp] theorem State.modGroup_portB (f : Group → Group) : (s.modGroup g f).portB = s.portB := rfl
@[simp] theorem State.modGroup_pending (f : Group → Group) : (s.modGroup g f).pending = s.pending := rfl

@[simp] theorem State.modGroup_group_self (f : Group → Group) : (s.modGroup g f).group g = f (s.group g) := by
  unfold State.modGroup State.group; simp

theorem State.modGroup_group_ne (f : Group → Group) (hh : h ≠ g) : (s.modGroup g f).group h = s.group h := by
  have hv : g.val ≠ h.val := fun hv => hh (Fin.ext hv.symm)
  unfold State.modGroup State.group; simp [hv]

theorem State.modGroup_group (f : Group → Group) :
    (s.modGroup g f).group h = if h = g then f (s.group g) else s.group h := by
  split
  · next hh => subst hh; simp
  · next hh => exact s.modGroup_group_ne g h f hh

@[simp] theorem State.modGroup_cage (f : Group → Group) : (s.modGroup g f).cage c = s.cage c := rfl
@[simp] theorem State.modGroup_engine (f : Group → Group) : (s.modGroup g f).engine e = s.engine e := rfl
@[simp] theorem State.modGroup_port (f : Group → Group) (p : Port) : (s.modGroup g f).port p = s.port p := by
  cases p <;> rfl

/-! ### An engine -/

@[simp] theorem State.modEngine_now (f : Engine → Engine) : (s.modEngine e f).now = s.now := rfl
@[simp] theorem State.modEngine_elapsed (f : Engine → Engine) : (s.modEngine e f).elapsed = s.elapsed := rfl
@[simp] theorem State.modEngine_inReset (f : Engine → Engine) : (s.modEngine e f).inReset = s.inReset := rfl
@[simp] theorem State.modEngine_cause (f : Engine → Engine) : (s.modEngine e f).cause = s.cause := rfl
@[simp] theorem State.modEngine_releaseTime (f : Engine → Engine) : (s.modEngine e f).releaseTime = s.releaseTime := rfl
@[simp] theorem State.modEngine_settings (f : Engine → Engine) : (s.modEngine e f).settings = s.settings := rfl
@[simp] theorem State.modEngine_deviceLast (f : Engine → Engine) : (s.modEngine e f).deviceLast = s.deviceLast := rfl
@[simp] theorem State.modEngine_scanCage (f : Engine → Engine) : (s.modEngine e f).scanCage = s.scanCage := rfl
@[simp] theorem State.modEngine_cages (f : Engine → Engine) : (s.modEngine e f).cages = s.cages := rfl
@[simp] theorem State.modEngine_groups (f : Engine → Engine) : (s.modEngine e f).groups = s.groups := rfl
@[simp] theorem State.modEngine_fieldMaps (f : Engine → Engine) : (s.modEngine e f).fieldMaps = s.fieldMaps := rfl
@[simp] theorem State.modEngine_lsr (f : Engine → Engine) : (s.modEngine e f).lsr = s.lsr := rfl
@[simp] theorem State.modEngine_portA (f : Engine → Engine) : (s.modEngine e f).portA = s.portA := rfl
@[simp] theorem State.modEngine_portB (f : Engine → Engine) : (s.modEngine e f).portB = s.portB := rfl
@[simp] theorem State.modEngine_pending (f : Engine → Engine) : (s.modEngine e f).pending = s.pending := rfl

@[simp] theorem State.modEngine_engine_self (f : Engine → Engine) :
    (s.modEngine e f).engine e = f (s.engine e) := by
  unfold State.modEngine State.engine; simp

theorem State.modEngine_engine_ne (f : Engine → Engine) (h2 : e2 ≠ e) :
    (s.modEngine e f).engine e2 = s.engine e2 := by
  have hv : e.val ≠ e2.val := fun hv => h2 (Fin.ext hv.symm)
  unfold State.modEngine State.engine; simp [hv]

theorem State.modEngine_engine (f : Engine → Engine) :
    (s.modEngine e f).engine e2 = if e2 = e then f (s.engine e) else s.engine e2 := by
  split
  · next h2 => subst h2; simp
  · next h2 => exact s.modEngine_engine_ne e e2 f h2

@[simp] theorem State.modEngine_cage (f : Engine → Engine) : (s.modEngine e f).cage c = s.cage c := rfl
@[simp] theorem State.modEngine_group (f : Engine → Engine) : (s.modEngine e f).group g = s.group g := rfl
@[simp] theorem State.modEngine_port (f : Engine → Engine) (p : Port) :
    (s.modEngine e f).port p = s.port p := by
  cases p <;> rfl

/-! ### A port -/

@[simp] theorem State.modPort_now (p : Port) (f : PortState → PortState) : (s.modPort p f).now = s.now := by
  cases p <;> rfl
@[simp] theorem State.modPort_elapsed (p : Port) (f : PortState → PortState) : (s.modPort p f).elapsed = s.elapsed := by
  cases p <;> rfl
@[simp] theorem State.modPort_inReset (p : Port) (f : PortState → PortState) : (s.modPort p f).inReset = s.inReset := by
  cases p <;> rfl
@[simp] theorem State.modPort_cause (p : Port) (f : PortState → PortState) : (s.modPort p f).cause = s.cause := by
  cases p <;> rfl
@[simp] theorem State.modPort_releaseTime (p : Port) (f : PortState → PortState) : (s.modPort p f).releaseTime = s.releaseTime := by
  cases p <;> rfl
@[simp] theorem State.modPort_settings (p : Port) (f : PortState → PortState) : (s.modPort p f).settings = s.settings := by
  cases p <;> rfl
@[simp] theorem State.modPort_deviceLast (p : Port) (f : PortState → PortState) : (s.modPort p f).deviceLast = s.deviceLast := by
  cases p <;> rfl
@[simp] theorem State.modPort_scanCage (p : Port) (f : PortState → PortState) : (s.modPort p f).scanCage = s.scanCage := by
  cases p <;> rfl
@[simp] theorem State.modPort_cages (p : Port) (f : PortState → PortState) : (s.modPort p f).cages = s.cages := by
  cases p <;> rfl
@[simp] theorem State.modPort_groups (p : Port) (f : PortState → PortState) : (s.modPort p f).groups = s.groups := by
  cases p <;> rfl
@[simp] theorem State.modPort_engines (p : Port) (f : PortState → PortState) : (s.modPort p f).engines = s.engines := by
  cases p <;> rfl
@[simp] theorem State.modPort_fieldMaps (p : Port) (f : PortState → PortState) : (s.modPort p f).fieldMaps = s.fieldMaps := by
  cases p <;> rfl
@[simp] theorem State.modPort_lsr (p : Port) (f : PortState → PortState) : (s.modPort p f).lsr = s.lsr := by
  cases p <;> rfl
@[simp] theorem State.modPort_pending (p : Port) (f : PortState → PortState) : (s.modPort p f).pending = s.pending := by
  cases p <;> rfl

@[simp] theorem State.modPort_port_self (p : Port) (f : PortState → PortState) :
    (s.modPort p f).port p = f (s.port p) := by
  cases p <;> rfl

theorem State.modPort_port (p q : Port) (f : PortState → PortState) :
    (s.modPort p f).port q = if q = p then f (s.port p) else s.port q := by
  cases p <;> cases q <;> rfl

@[simp] theorem State.modPort_cage (p : Port) (f : PortState → PortState) : (s.modPort p f).cage c = s.cage c := by
  cases p <;> rfl
@[simp] theorem State.modPort_group (p : Port) (f : PortState → PortState) :
    (s.modPort p f).group g = s.group g := by
  cases p <;> rfl
@[simp] theorem State.modPort_engine (p : Port) (f : PortState → PortState) :
    (s.modPort p f).engine e = s.engine e := by
  cases p <;> rfl
@[simp] theorem State.modPort_A_portA (f : PortState → PortState) : (s.modPort .A f).portA = f s.portA := rfl
@[simp] theorem State.modPort_A_portB (f : PortState → PortState) : (s.modPort .A f).portB = s.portB := rfl
@[simp] theorem State.modPort_B_portA (f : PortState → PortState) : (s.modPort .B f).portA = s.portA := rfl
@[simp] theorem State.modPort_B_portB (f : PortState → PortState) : (s.modPort .B f).portB = f s.portB := rfl

/-! ### Settings -/

@[simp] theorem State.modSettings_now (f : Settings → Settings) : (s.modSettings f).now = s.now := rfl
@[simp] theorem State.modSettings_elapsed (f : Settings → Settings) : (s.modSettings f).elapsed = s.elapsed := rfl
@[simp] theorem State.modSettings_inReset (f : Settings → Settings) : (s.modSettings f).inReset = s.inReset := rfl
@[simp] theorem State.modSettings_cause (f : Settings → Settings) : (s.modSettings f).cause = s.cause := rfl
@[simp] theorem State.modSettings_releaseTime (f : Settings → Settings) : (s.modSettings f).releaseTime = s.releaseTime := rfl
@[simp] theorem State.modSettings_deviceLast (f : Settings → Settings) : (s.modSettings f).deviceLast = s.deviceLast := rfl
@[simp] theorem State.modSettings_scanCage (f : Settings → Settings) : (s.modSettings f).scanCage = s.scanCage := rfl
@[simp] theorem State.modSettings_cages (f : Settings → Settings) : (s.modSettings f).cages = s.cages := rfl
@[simp] theorem State.modSettings_groups (f : Settings → Settings) : (s.modSettings f).groups = s.groups := rfl
@[simp] theorem State.modSettings_engines (f : Settings → Settings) : (s.modSettings f).engines = s.engines := rfl
@[simp] theorem State.modSettings_fieldMaps (f : Settings → Settings) : (s.modSettings f).fieldMaps = s.fieldMaps := rfl
@[simp] theorem State.modSettings_lsr (f : Settings → Settings) : (s.modSettings f).lsr = s.lsr := rfl
@[simp] theorem State.modSettings_portA (f : Settings → Settings) : (s.modSettings f).portA = s.portA := rfl
@[simp] theorem State.modSettings_portB (f : Settings → Settings) : (s.modSettings f).portB = s.portB := rfl
@[simp] theorem State.modSettings_pending (f : Settings → Settings) : (s.modSettings f).pending = s.pending := rfl

end Sys2Proof.Machine
end

