-- ==== Sys2Proof/Laws/Local.lean ====
section
/-! SUPPORT. Which parts of the state each shared operation can touch: the operations on a cage touch that cage, its
group, its engine, the reply slots, and its and DEVICE's attention entries only. -/

namespace Sys2Proof.Machine

/-! ### The relation -/

theorem State.SameDevice.refl (s : State) : s.SameDevice s := by constructor <;> rfl

theorem State.SameDevice.trans {s t u : State} (a : s.SameDevice t) (b : t.SameDevice u) : s.SameDevice u := by
  constructor
  · exact b.now.trans a.now
  · exact b.elapsed.trans a.elapsed
  · exact b.inReset.trans a.inReset
  · exact b.cause.trans a.cause
  · exact b.releaseTime.trans a.releaseTime
  · exact b.settings.trans a.settings
  · exact b.deviceLast.trans a.deviceLast
  · exact b.scanCage.trans a.scanCage
  · exact b.fieldMaps.trans a.fieldMaps
  · exact b.lsr.trans a.lsr
  · exact b.pending.trans a.pending

theorem State.OnlyCage.refl (s : State) (c : CageNo) : s.OnlyCage s c :=
  ⟨.refl s, fun _ _ => rfl, fun _ _ => rfl, rfl, rfl, fun _ _ => rfl, rfl, rfl, fun _ => ⟨rfl, rfl⟩,
    fun _ => ⟨rfl, rfl⟩, fun _ _ _ => rfl⟩

theorem State.OnlyCage.trans {s t u : State} {c : CageNo} (a : s.OnlyCage t c) (b : t.OnlyCage u c) :
    s.OnlyCage u c where
  device := a.device.trans b.device
  cages := fun d h => (b.cages d h).trans (a.cages d h)
  groups := fun g h => (b.groups g h).trans (a.groups g h)
  group := by rw [b.group, a.group]
  queue := b.queue.trans a.queue
  engines := fun e h => (b.engines e h).trans (a.engines e h)
  waiting := b.waiting.trans a.waiting
  served := b.served.trans a.served
  carried := fun h =>
    have x := a.carried h
    have y := b.carried (by unfold Engine.Free; rw [x.1]; exact h)
    ⟨y.1.trans x.1, y.2.trans x.2⟩
  masks := fun p => ⟨(b.masks p).1.trans (a.masks p).1, (b.masks p).2.trans (a.masks p).2⟩
  entries := fun p d h => (b.entries p d h).trans (a.entries p d h)

theorem State.OnlyCage.ite {s t u : State} {c : CageNo} {p : Prop} [Decidable p] (a : s.OnlyCage t c)
    (b : s.OnlyCage u c) : s.OnlyCage (if p then t else u) c := by
  split
  · exact a
  · exact b

/-! ### The plain updates -/

theorem State.modCage_only (s : State) (c : CageNo) (f : Cage → Cage) : s.OnlyCage (s.modCage c f) c :=
  ⟨by constructor <;> rfl, fun d h => s.modCage_cage_ne c d f h, fun _ _ => rfl, rfl, rfl,
    fun _ _ => rfl, rfl, rfl, fun _ => ⟨rfl, rfl⟩, fun p => by cases p <;> exact ⟨rfl, rfl⟩,
    fun p _ _ => by cases p <;> rfl⟩

/-- A change of a group's committed charge, and of its queue but for the entries of the other cages. -/
theorem State.modGroup_only (s : State) (c : CageNo) (f : Group → Group)
    (hf : ∀ g, f g = { g with committed := (f g).committed, queue := (f g).queue })
    (hq : ∀ g, (f g).others c = g.others c) : s.OnlyCage (s.modGroup (groupOf c) f) c where
  device := by constructor <;> rfl
  cages := fun _ _ => rfl
  groups := fun g h => s.modGroup_group_ne _ g f h
  group := by rw [State.modGroup_group_self]; exact hf _
  queue := by rw [State.modGroup_group_self]; exact hq _
  engines := fun _ _ => rfl
  waiting := rfl
  served := rfl
  carried := fun _ => ⟨rfl, rfl⟩
  masks := fun p => by cases p <;> exact ⟨rfl, rfl⟩
  entries := fun p _ _ => by cases p <;> rfl

/-- A change of an engine that leaves the waiting items of the other cages, the port last served and, where it carries
no item of the cage, what it carries. -/
theorem State.modEngine_only (s : State) (c : CageNo) (f : Engine → Engine)
    (hw : ∀ e, (f e).others c = e.others c) (hl : ∀ e, (f e).lastServed = e.lastServed)
    (hc : (s.engine (engineOf c)).Free c →
      (f (s.engine (engineOf c))).current = (s.engine (engineOf c)).current ∧
        (f (s.engine (engineOf c))).selected = (s.engine (engineOf c)).selected) :
    s.OnlyCage (s.modEngine (engineOf c) f) c where
  device := by constructor <;> rfl
  cages := fun _ _ => rfl
  groups := fun _ _ => rfl
  group := rfl
  queue := rfl
  engines := fun e h => s.modEngine_engine_ne _ e f h
  waiting := by rw [State.modEngine_engine_self]; exact hw _
  served := by rw [State.modEngine_engine_self]; exact hl _
  carried := fun h => by rw [State.modEngine_engine_self]; exact hc h
  masks := fun p => by cases p <;> exact ⟨rfl, rfl⟩
  entries := fun p _ _ => by cases p <;> rfl

/-- The items of one requester for a cage leave the waiting items without moving those of the other cages. -/
theorem filter_isOf_others (l : List Item) (c : CageNo) (w : Requester) :
    (l.filter fun i => !i.isOf c w).filter (fun i => decide (i.cage ≠ c)) = l.filter fun i => decide (i.cage ≠ c) := by
  rw [List.filter_filter]
  congr 1
  funext i
  by_cases h : i.cage = c <;> simp [Item.isOf, h]

theorem State.cancel_only (s : State) (c : CageNo) (w : Requester) :
    s.OnlyCage (s.modEngine (engineOf c) fun e => e.cancel c w) c := by
  refine s.modEngine_only c _ (fun e => filter_isOf_others _ _ _) (fun _ => rfl) fun h => ⟨?_, rfl⟩
  cases hk : (s.engine (engineOf c)).current with
  | none => simp [Engine.cancel, hk]
  | some k => simp [Engine.cancel, hk, Item.isOf, h k hk]

theorem State.abortCarried_only (s : State) (c : CageNo) : s.OnlyCage (s.abortCarried c) c := by
  refine s.modEngine_only c _ (fun e => rfl) (fun _ => rfl) fun h => ⟨?_, rfl⟩
  cases hk : (s.engine (engineOf c)).current with
  | none => simp
  | some k => simp [h k hk]

theorem State.addItem_only (s : State) (i : Item) : s.OnlyCage (s.addItem i) i.cage :=
  s.modEngine_only i.cage _ (fun e => by simp [Engine.others]) (fun _ => rfl) fun _ => ⟨rfl, rfl⟩

/-- A change of a port that leaves its masks and the entries of every other cage touches one cage only. -/
theorem State.modPort_only (s : State) (c : CageNo) (p : Port) (f : PortState → PortState)
    (hm : (f (s.port p)).cageMask = (s.port p).cageMask ∧ (f (s.port p)).deviceMask = (s.port p).deviceMask)
    (he : ∀ d, d ≠ c → entriesOf (f (s.port p)).list d = entriesOf (s.port p).list d) :
    s.OnlyCage (s.modPort p f) c := by
  refine ⟨by constructor <;> simp, by simp, by simp, by simp, by simp, by simp, by simp, by simp, by simp,
    fun q => ?_, fun q d h => ?_⟩
  · rw [State.modPort_port]
    split
    · next hq => subst hq; exact hm
    · exact ⟨rfl, rfl⟩
  · rw [State.modPort_port]
    split
    · next hq => subst hq; exact he d h
    · rfl

theorem entriesOf_addKind (l : List AttEntry) (w : Option CageNo) (k : BitVec 16) (r : Option ResetCause)
    (d : CageNo) (h : w ≠ some d) : entriesOf (addKind l w k r) d = entriesOf l d := by
  induction l with
  | nil => simp [addKind, entriesOf, h]
  | cons a l ih =>
    unfold addKind
    split
    · next ha => simp [entriesOf, ha, h]
    · have hi : List.filter (fun x => decide (x.who = some d)) (addKind l w k r) =
          List.filter (fun x => decide (x.who = some d)) l := ih
      simp only [entriesOf, List.filter_cons, hi]

theorem State.answer_only (s : State) (c : CageNo) (p : Port) (st : ReplyStatus) (data : List Byte) :
    s.OnlyCage (s.answer p st data) c := by
  apply State.modPort_only
  · split <;> exact ⟨rfl, rfl⟩
  · intro d _
    split <;> rfl

theorem State.postTo_only (s : State) (c : CageNo) (p : Port) (k : CageKind) : s.OnlyCage (s.postTo p c k) c :=
  s.modPort_only c p _ ⟨rfl, rfl⟩ fun d h => entriesOf_addKind _ _ _ _ d (fun hc => h (Option.some.inj hc).symm)

theorem State.postDeviceTo_only (s : State) (c : CageNo) (p : Port) (k : DeviceKind) :
    s.OnlyCage (s.postDeviceTo p k) c :=
  s.modPort_only c p _ ⟨rfl, rfl⟩ fun d _ => entriesOf_addKind _ _ _ _ d (by simp)

/-! ### Items that end -/

theorem State.putAway_only (s : State) (c : CageNo) (k : Carry) (hk : (s.engine (engineOf c)).current = some k)
    (hc : k.item.cage = c) :
    s.OnlyCage (s.modEngine (engineOf c) fun e => { e with current := none, selected := none }) c :=
  s.modEngine_only c _ (fun _ => rfl) (fun _ => rfl) fun h => absurd hc (h k hk)

theorem State.endPass_only (s : State) (c : CageNo) (st : ReplyStatus) (p : Port) :
    s.OnlyCage (s.endPass c st p) c := by
  unfold State.endPass
  refine .ite ?_ (.refl s c)
  exact ((s.modEngine_only c (fun e => { e with waiting := e.waiting.filter fun i => !i.isOf c (.port p) })
    (fun e => filter_isOf_others _ _ _) (fun _ => rfl) fun _ => ⟨rfl, rfl⟩).trans (State.modCage_only _ c _)).trans
    (State.answer_only _ c p st [])

theorem State.cutCarried_only (s : State) (c : CageNo) : s.OnlyCage (s.cutCarried c) c := by
  unfold State.cutCarried
  split
  · next k hk =>
    split
    · next hc =>
      dsimp only
      split
      · exact (s.putAway_only c k hk hc).trans (State.answer_only _ c _ _ _)
      · exact s.putAway_only c k hk hc
    · exact .refl s c
  · exact .refl s c

/-! ### Rails and charges -/

theorem State.modSeq_only (s : State) (c : CageNo) (f : Ctx → Ctx) : s.OnlyCage (s.modSeq c f) c := s.modCage_only c _
theorem State.modCiu_only (s : State) (c : CageNo) (f : Ciu → Ciu) : s.OnlyCage (s.modCiu c f) c := s.modCage_only c _
theorem State.modLines_only (s : State) (c : CageNo) (f : Lines → Lines) : s.OnlyCage (s.modLines c f) c :=
  s.modCiu_only c _
theorem State.modRlm_only (s : State) (c : CageNo) (f : Rlm → Rlm) : s.OnlyCage (s.modRlm c f) c := s.modCage_only c _
theorem State.modBus_only (s : State) (c : CageNo) (f : Bus → Bus) : s.OnlyCage (s.modBus c f) c := s.modCage_only c _

theorem State.setCharge_only (s : State) (c : CageNo) (n : Nat) : s.OnlyCage (s.setCharge c n) c :=
  (s.modGroup_only c (fun g => { g with committed := g.committed + n - (s.cage c).charge }) (fun _ => rfl) fun _ => rfl).trans
    (State.modCage_only _ c _)

theorem State.railOn_only (s : State) (c : CageNo) : s.OnlyCage (s.railOn c) c := by
  unfold State.railOn
  split
  · exact .refl s c
  · exact (s.modLines_only c _).trans (State.modRlm_only _ c _)

theorem State.railOff_only (s : State) (c : CageNo) : s.OnlyCage (s.railOff c) c := by
  unfold State.railOff
  split
  · exact (((s.modCiu_only c _).trans (State.setCharge_only _ c 0)).trans (State.modRlm_only _ c _)).trans
      (State.modBus_only _ c _)
  · exact s.modLines_only c _

theorem State.settleBasis_only (s : State) (c : CageNo) : s.OnlyCage (s.settleBasis c) c := by
  unfold State.settleBasis
  split
  · exact s.modCage_only c _
  · exact .refl s c

/-! ### All operations -/

/-- To touch one cage only is kept by every operation on the cage. -/
def State.OnlyCage.closed (c : CageNo) : Closed c where
  R := fun s t => s.OnlyCage t c
  refl' := fun s => .refl s c
  trans' := fun a b => a.trans b
  modSeq := fun s _ => s.modCage_only c _
  modOutage := fun s _ => s.modCage_only c _
  modImage := fun s _ => s.modCage_only c _
  modBus := fun s _ => s.modCage_only c _
  modCiu := fun s _ _ => s.modCage_only c _
  nextPoll := fun s _ => s.modCage_only c _
  learned := fun s _ _ => s.modCage_only c _
  setCharge := fun s n => s.setCharge_only c n
  railOn := fun s => s.railOn_only c
  railOff := fun s => s.railOff_only c
  resetAssert := fun s => s.modLines_only c _
  resetRelease := fun s => s.modLines_only c _
  lpLine := fun s => s.modLines_only c _
  lpRelease := fun s => s.modLines_only c _
  settleBasis := fun s => s.settleBasis_only c
  queue := fun s _ h => s.modGroup_only c _ (fun _ => rfl) fun g => h g.queue
  cancel := fun s w => s.cancel_only c w
  endPass := fun s st p => s.endPass_only c st p
  cutCarried := fun s => s.cutCarried_only c
  abortCarried := fun s => s.abortCarried_only c
  putAway := fun s k hk hc => s.putAway_only c k hk hc
  giveBack := fun s k o p hk hc _ =>
    ((s.putAway_only c k hk hc).trans (by unfold State.putDown; rw [hc]; exact State.modCage_only _ c _)).trans (State.answer_only _ c p _ _)
  addItem := fun s i h _ => by subst h; exact s.addItem_only i
  postTo := fun s p k => s.postTo_only c p k
  postDeviceTo := fun s p k => s.postDeviceTo_only c p k

/-- The operations on a cage as what touches that cage only: `(only c).parkNow s …`. -/
abbrev only (c : CageNo) : Closed c := State.OnlyCage.closed c

end Sys2Proof.Machine
end

