-- ==== Sys2Proof/Laws/Ops.lean ====
section
/-! SUPPORT. What each shared operation on a cage leaves in every part of the cage, its group, its engine and the ports,
said once, so that no later proof unfolds the operation. -/

namespace Sys2Proof.Machine

@[simp] theorem State.modSeq_parts (s : State) (c : CageNo) (f : Ctx → Ctx) :
    ((s.modSeq c f).cage c).ciu = (s.cage c).ciu ∧
      ((s.modSeq c f).cage c).outage = (s.cage c).outage ∧
      ((s.modSeq c f).cage c).profile = (s.cage c).profile ∧
      ((s.modSeq c f).cage c).seq = f (s.cage c).seq ∧
      ((s.modSeq c f).cage c).charge = (s.cage c).charge ∧
      ((s.modSeq c f).cage c).rlm = (s.cage c).rlm ∧
      ((s.modSeq c f).cage c).bus = (s.cage c).bus ∧
      ((s.modSeq c f).cage c).image = (s.cage c).image ∧
      ((s.modSeq c f).cage c).nextPoll = (s.cage c).nextPoll ∧
      (s.modSeq c f).group (groupOf c) = s.group (groupOf c) ∧
      (s.modSeq c f).engine (engineOf c) = s.engine (engineOf c) ∧
      (s.modSeq c f).portA = s.portA ∧
      (s.modSeq c f).portB = s.portB ∧
      (s.modSeq c f).now = s.now ∧
      (s.modSeq c f).elapsed = s.elapsed ∧
      (s.modSeq c f).settings = s.settings ∧
      (s.modSeq c f).fieldMaps = s.fieldMaps ∧
      (s.modSeq c f).lsr = s.lsr ∧
      (s.modSeq c f).inReset = s.inReset := by
  simp [State.modSeq]

@[simp] theorem State.modCiu_parts (s : State) (c : CageNo) (f : Ciu → Ciu) :
    ((s.modCiu c f).cage c).ciu = f (s.cage c).ciu ∧
      ((s.modCiu c f).cage c).outage = (s.cage c).outage ∧
      ((s.modCiu c f).cage c).profile = (s.cage c).profile ∧
      ((s.modCiu c f).cage c).seq = (s.cage c).seq ∧
      ((s.modCiu c f).cage c).charge = (s.cage c).charge ∧
      ((s.modCiu c f).cage c).rlm = (s.cage c).rlm ∧
      ((s.modCiu c f).cage c).bus = (s.cage c).bus ∧
      ((s.modCiu c f).cage c).image = (s.cage c).image ∧
      ((s.modCiu c f).cage c).nextPoll = (s.cage c).nextPoll ∧
      (s.modCiu c f).group (groupOf c) = s.group (groupOf c) ∧
      (s.modCiu c f).engine (engineOf c) = s.engine (engineOf c) ∧
      (s.modCiu c f).portA = s.portA ∧
      (s.modCiu c f).portB = s.portB ∧
      (s.modCiu c f).now = s.now ∧
      (s.modCiu c f).elapsed = s.elapsed ∧
      (s.modCiu c f).settings = s.settings ∧
      (s.modCiu c f).fieldMaps = s.fieldMaps ∧
      (s.modCiu c f).lsr = s.lsr ∧
      (s.modCiu c f).inReset = s.inReset := by
  simp [State.modCiu]

@[simp] theorem State.modOutage_parts (s : State) (c : CageNo) (f : Outage → Outage) :
    ((s.modOutage c f).cage c).ciu = (s.cage c).ciu ∧
      ((s.modOutage c f).cage c).outage = f (s.cage c).outage ∧
      ((s.modOutage c f).cage c).profile = (s.cage c).profile ∧
      ((s.modOutage c f).cage c).seq = (s.cage c).seq ∧
      ((s.modOutage c f).cage c).charge = (s.cage c).charge ∧
      ((s.modOutage c f).cage c).rlm = (s.cage c).rlm ∧
      ((s.modOutage c f).cage c).bus = (s.cage c).bus ∧
      ((s.modOutage c f).cage c).image = (s.cage c).image ∧
      ((s.modOutage c f).cage c).nextPoll = (s.cage c).nextPoll ∧
      (s.modOutage c f).group (groupOf c) = s.group (groupOf c) ∧
      (s.modOutage c f).engine (engineOf c) = s.engine (engineOf c) ∧
      (s.modOutage c f).portA = s.portA ∧
      (s.modOutage c f).portB = s.portB ∧
      (s.modOutage c f).now = s.now ∧
      (s.modOutage c f).elapsed = s.elapsed ∧
      (s.modOutage c f).settings = s.settings ∧
      (s.modOutage c f).fieldMaps = s.fieldMaps ∧
      (s.modOutage c f).lsr = s.lsr ∧
      (s.modOutage c f).inReset = s.inReset := by
  simp [State.modOutage]

@[simp] theorem State.modProfile_parts (s : State) (c : CageNo) (f : Profile → Profile) :
    ((s.modProfile c f).cage c).ciu = (s.cage c).ciu ∧
      ((s.modProfile c f).cage c).outage = (s.cage c).outage ∧
      ((s.modProfile c f).cage c).profile = f (s.cage c).profile ∧
      ((s.modProfile c f).cage c).seq = (s.cage c).seq ∧
      ((s.modProfile c f).cage c).charge = (s.cage c).charge ∧
      ((s.modProfile c f).cage c).rlm = (s.cage c).rlm ∧
      ((s.modProfile c f).cage c).bus = (s.cage c).bus ∧
      ((s.modProfile c f).cage c).image = (s.cage c).image ∧
      ((s.modProfile c f).cage c).nextPoll = (s.cage c).nextPoll ∧
      (s.modProfile c f).group (groupOf c) = s.group (groupOf c) ∧
      (s.modProfile c f).engine (engineOf c) = s.engine (engineOf c) ∧
      (s.modProfile c f).portA = s.portA ∧
      (s.modProfile c f).portB = s.portB ∧
      (s.modProfile c f).now = s.now ∧
      (s.modProfile c f).elapsed = s.elapsed ∧
      (s.modProfile c f).settings = s.settings ∧
      (s.modProfile c f).fieldMaps = s.fieldMaps ∧
      (s.modProfile c f).lsr = s.lsr ∧
      (s.modProfile c f).inReset = s.inReset := by
  simp [State.modProfile]

@[simp] theorem State.modImage_parts (s : State) (c : CageNo) (f : Image → Image) :
    ((s.modImage c f).cage c).ciu = (s.cage c).ciu ∧
      ((s.modImage c f).cage c).outage = (s.cage c).outage ∧
      ((s.modImage c f).cage c).profile = (s.cage c).profile ∧
      ((s.modImage c f).cage c).seq = (s.cage c).seq ∧
      ((s.modImage c f).cage c).charge = (s.cage c).charge ∧
      ((s.modImage c f).cage c).rlm = (s.cage c).rlm ∧
      ((s.modImage c f).cage c).bus = (s.cage c).bus ∧
      ((s.modImage c f).cage c).image = f (s.cage c).image ∧
      ((s.modImage c f).cage c).nextPoll = (s.cage c).nextPoll ∧
      (s.modImage c f).group (groupOf c) = s.group (groupOf c) ∧
      (s.modImage c f).engine (engineOf c) = s.engine (engineOf c) ∧
      (s.modImage c f).portA = s.portA ∧
      (s.modImage c f).portB = s.portB ∧
      (s.modImage c f).now = s.now ∧
      (s.modImage c f).elapsed = s.elapsed ∧
      (s.modImage c f).settings = s.settings ∧
      (s.modImage c f).fieldMaps = s.fieldMaps ∧
      (s.modImage c f).lsr = s.lsr ∧
      (s.modImage c f).inReset = s.inReset := by
  simp [State.modImage]

@[simp] theorem State.modRlm_parts (s : State) (c : CageNo) (f : Rlm → Rlm) :
    ((s.modRlm c f).cage c).ciu = (s.cage c).ciu ∧
      ((s.modRlm c f).cage c).outage = (s.cage c).outage ∧
      ((s.modRlm c f).cage c).profile = (s.cage c).profile ∧
      ((s.modRlm c f).cage c).seq = (s.cage c).seq ∧
      ((s.modRlm c f).cage c).charge = (s.cage c).charge ∧
      ((s.modRlm c f).cage c).rlm = f (s.cage c).rlm ∧
      ((s.modRlm c f).cage c).bus = (s.cage c).bus ∧
      ((s.modRlm c f).cage c).image = (s.cage c).image ∧
      ((s.modRlm c f).cage c).nextPoll = (s.cage c).nextPoll ∧
      (s.modRlm c f).group (groupOf c) = s.group (groupOf c) ∧
      (s.modRlm c f).engine (engineOf c) = s.engine (engineOf c) ∧
      (s.modRlm c f).portA = s.portA ∧
      (s.modRlm c f).portB = s.portB ∧
      (s.modRlm c f).now = s.now ∧
      (s.modRlm c f).elapsed = s.elapsed ∧
      (s.modRlm c f).settings = s.settings ∧
      (s.modRlm c f).fieldMaps = s.fieldMaps ∧
      (s.modRlm c f).lsr = s.lsr ∧
      (s.modRlm c f).inReset = s.inReset := by
  simp [State.modRlm]

@[simp] theorem State.modBus_parts (s : State) (c : CageNo) (f : Bus → Bus) :
    ((s.modBus c f).cage c).ciu = (s.cage c).ciu ∧
      ((s.modBus c f).cage c).outage = (s.cage c).outage ∧
      ((s.modBus c f).cage c).profile = (s.cage c).profile ∧
      ((s.modBus c f).cage c).seq = (s.cage c).seq ∧
      ((s.modBus c f).cage c).charge = (s.cage c).charge ∧
      ((s.modBus c f).cage c).rlm = (s.cage c).rlm ∧
      ((s.modBus c f).cage c).bus = f (s.cage c).bus ∧
      ((s.modBus c f).cage c).image = (s.cage c).image ∧
      ((s.modBus c f).cage c).nextPoll = (s.cage c).nextPoll ∧
      (s.modBus c f).group (groupOf c) = s.group (groupOf c) ∧
      (s.modBus c f).engine (engineOf c) = s.engine (engineOf c) ∧
      (s.modBus c f).portA = s.portA ∧
      (s.modBus c f).portB = s.portB ∧
      (s.modBus c f).now = s.now ∧
      (s.modBus c f).elapsed = s.elapsed ∧
      (s.modBus c f).settings = s.settings ∧
      (s.modBus c f).fieldMaps = s.fieldMaps ∧
      (s.modBus c f).lsr = s.lsr ∧
      (s.modBus c f).inReset = s.inReset := by
  simp [State.modBus]

@[simp] theorem State.modLines_parts (s : State) (c : CageNo) (f : Lines → Lines) :
    ((s.modLines c f).cage c).ciu = { (s.cage c).ciu with lines := f (s.cage c).ciu.lines } ∧
      ((s.modLines c f).cage c).outage = (s.cage c).outage ∧
      ((s.modLines c f).cage c).profile = (s.cage c).profile ∧
      ((s.modLines c f).cage c).seq = (s.cage c).seq ∧
      ((s.modLines c f).cage c).charge = (s.cage c).charge ∧
      ((s.modLines c f).cage c).rlm = (s.cage c).rlm ∧
      ((s.modLines c f).cage c).bus = (s.cage c).bus ∧
      ((s.modLines c f).cage c).image = (s.cage c).image ∧
      ((s.modLines c f).cage c).nextPoll = (s.cage c).nextPoll ∧
      (s.modLines c f).group (groupOf c) = s.group (groupOf c) ∧
      (s.modLines c f).engine (engineOf c) = s.engine (engineOf c) ∧
      (s.modLines c f).portA = s.portA ∧
      (s.modLines c f).portB = s.portB ∧
      (s.modLines c f).now = s.now ∧
      (s.modLines c f).elapsed = s.elapsed ∧
      (s.modLines c f).settings = s.settings ∧
      (s.modLines c f).fieldMaps = s.fieldMaps ∧
      (s.modLines c f).lsr = s.lsr ∧
      (s.modLines c f).inReset = s.inReset := by
  simp [State.modLines]

@[simp] theorem State.modTimers_parts (s : State) (c : CageNo) (f : Timers → Timers) :
    ((s.modTimers c f).cage c).ciu = (s.cage c).ciu ∧
      ((s.modTimers c f).cage c).outage = (s.cage c).outage ∧
      ((s.modTimers c f).cage c).profile = (s.cage c).profile ∧
      ((s.modTimers c f).cage c).seq = { (s.cage c).seq with timers := f (s.cage c).seq.timers } ∧
      ((s.modTimers c f).cage c).charge = (s.cage c).charge ∧
      ((s.modTimers c f).cage c).rlm = (s.cage c).rlm ∧
      ((s.modTimers c f).cage c).bus = (s.cage c).bus ∧
      ((s.modTimers c f).cage c).image = (s.cage c).image ∧
      ((s.modTimers c f).cage c).nextPoll = (s.cage c).nextPoll ∧
      (s.modTimers c f).group (groupOf c) = s.group (groupOf c) ∧
      (s.modTimers c f).engine (engineOf c) = s.engine (engineOf c) ∧
      (s.modTimers c f).portA = s.portA ∧
      (s.modTimers c f).portB = s.portB ∧
      (s.modTimers c f).now = s.now ∧
      (s.modTimers c f).elapsed = s.elapsed ∧
      (s.modTimers c f).settings = s.settings ∧
      (s.modTimers c f).fieldMaps = s.fieldMaps ∧
      (s.modTimers c f).lsr = s.lsr ∧
      (s.modTimers c f).inReset = s.inReset := by
  simp [State.modTimers]

@[simp] theorem State.writeOpen_parts (s : State) (c : CageNo) (f : Outage → Outage) :
    ((s.writeOpen c f).cage c).ciu = (s.cage c).ciu ∧
      ((s.writeOpen c f).cage c).outage = (if (s.cage c).outage.isOpen then f (s.cage c).outage else (s.cage c).outage) ∧
      ((s.writeOpen c f).cage c).profile = (s.cage c).profile ∧
      ((s.writeOpen c f).cage c).seq = (s.cage c).seq ∧
      ((s.writeOpen c f).cage c).charge = (s.cage c).charge ∧
      ((s.writeOpen c f).cage c).rlm = (s.cage c).rlm ∧
      ((s.writeOpen c f).cage c).bus = (s.cage c).bus ∧
      ((s.writeOpen c f).cage c).image = (s.cage c).image ∧
      ((s.writeOpen c f).cage c).nextPoll = (s.cage c).nextPoll ∧
      (s.writeOpen c f).group (groupOf c) = s.group (groupOf c) ∧
      (s.writeOpen c f).engine (engineOf c) = s.engine (engineOf c) ∧
      (s.writeOpen c f).portA = s.portA ∧
      (s.writeOpen c f).portB = s.portB ∧
      (s.writeOpen c f).now = s.now ∧
      (s.writeOpen c f).elapsed = s.elapsed ∧
      (s.writeOpen c f).settings = s.settings ∧
      (s.writeOpen c f).fieldMaps = s.fieldMaps ∧
      (s.writeOpen c f).lsr = s.lsr ∧
      (s.writeOpen c f).inReset = s.inReset := by
  simp [State.writeOpen]

@[simp] theorem State.closeRecord_parts (s : State) (c : CageNo) (r : Result) (w : Option Reason) :
    ((s.closeRecord c r w).cage c).ciu = (s.cage c).ciu ∧
      ((s.closeRecord c r w).cage c).outage = closedRecord (s.cage c).outage s.now (s.cage c).seq.retry r w ∧
      ((s.closeRecord c r w).cage c).profile = (s.cage c).profile ∧
      ((s.closeRecord c r w).cage c).seq = (s.cage c).seq ∧
      ((s.closeRecord c r w).cage c).charge = (s.cage c).charge ∧
      ((s.closeRecord c r w).cage c).rlm = (s.cage c).rlm ∧
      ((s.closeRecord c r w).cage c).bus = (s.cage c).bus ∧
      ((s.closeRecord c r w).cage c).image = (s.cage c).image ∧
      ((s.closeRecord c r w).cage c).nextPoll = (s.cage c).nextPoll ∧
      (s.closeRecord c r w).group (groupOf c) = s.group (groupOf c) ∧
      (s.closeRecord c r w).engine (engineOf c) = s.engine (engineOf c) ∧
      (s.closeRecord c r w).portA = s.portA ∧
      (s.closeRecord c r w).portB = s.portB ∧
      (s.closeRecord c r w).now = s.now ∧
      (s.closeRecord c r w).elapsed = s.elapsed ∧
      (s.closeRecord c r w).settings = s.settings ∧
      (s.closeRecord c r w).fieldMaps = s.fieldMaps ∧
      (s.closeRecord c r w).lsr = s.lsr ∧
      (s.closeRecord c r w).inReset = s.inReset := by
  simp [State.closeRecord, closedRecord, Outage.isOpen]

@[simp] theorem State.emptyImage_parts (s : State) (c : CageNo) :
    ((s.emptyImage c).cage c).ciu = (s.cage c).ciu ∧
      ((s.emptyImage c).cage c).outage = (s.cage c).outage ∧
      ((s.emptyImage c).cage c).profile = (s.cage c).profile ∧
      ((s.emptyImage c).cage c).seq = (s.cage c).seq ∧
      ((s.emptyImage c).cage c).charge = (s.cage c).charge ∧
      ((s.emptyImage c).cage c).rlm = (s.cage c).rlm ∧
      ((s.emptyImage c).cage c).bus = (s.cage c).bus ∧
      ((s.emptyImage c).cage c).image = Machine.emptyImage ∧
      ((s.emptyImage c).cage c).nextPoll = (s.cage c).nextPoll ∧
      (s.emptyImage c).group (groupOf c) = s.group (groupOf c) ∧
      (s.emptyImage c).engine (engineOf c) = s.engine (engineOf c) ∧
      (s.emptyImage c).portA = s.portA ∧
      (s.emptyImage c).portB = s.portB ∧
      (s.emptyImage c).now = s.now ∧
      (s.emptyImage c).elapsed = s.elapsed ∧
      (s.emptyImage c).settings = s.settings ∧
      (s.emptyImage c).fieldMaps = s.fieldMaps ∧
      (s.emptyImage c).lsr = s.lsr ∧
      (s.emptyImage c).inReset = s.inReset := by
  simp [State.emptyImage]

/-- R182. -/
@[simp] theorem State.post_parts (s : State) (c : CageNo) (k : CageKind) :
    ((s.post c k).cage c).ciu = (s.cage c).ciu ∧
      ((s.post c k).cage c).outage = (s.cage c).outage ∧
      ((s.post c k).cage c).profile = (s.cage c).profile ∧
      ((s.post c k).cage c).seq = (s.cage c).seq ∧
      ((s.post c k).cage c).charge = (s.cage c).charge ∧
      ((s.post c k).cage c).rlm = (s.cage c).rlm ∧
      ((s.post c k).cage c).bus = (s.cage c).bus ∧
      ((s.post c k).cage c).image = (s.cage c).image ∧
      ((s.post c k).cage c).nextPoll = (s.cage c).nextPoll ∧
      (s.post c k).group (groupOf c) = s.group (groupOf c) ∧
      (s.post c k).engine (engineOf c) = s.engine (engineOf c) ∧
      (s.post c k).portA = { s.portA with list := addKind s.portA.list (some c) k.bit none } ∧
      (s.post c k).portB = { s.portB with list := addKind s.portB.list (some c) k.bit none } ∧
      (s.post c k).now = s.now ∧
      (s.post c k).elapsed = s.elapsed ∧
      (s.post c k).settings = s.settings ∧
      (s.post c k).fieldMaps = s.fieldMaps ∧
      (s.post c k).lsr = s.lsr ∧
      (s.post c k).inReset = s.inReset := by
  simp [State.post, State.postTo]

/-- R116, R117. -/
@[simp] theorem State.setCharge_parts (s : State) (c : CageNo) (n : Nat) :
    ((s.setCharge c n).cage c).ciu = (s.cage c).ciu ∧
      ((s.setCharge c n).cage c).outage = (s.cage c).outage ∧
      ((s.setCharge c n).cage c).profile = (s.cage c).profile ∧
      ((s.setCharge c n).cage c).seq = (s.cage c).seq ∧
      ((s.setCharge c n).cage c).charge = n ∧
      ((s.setCharge c n).cage c).rlm = (if n = (s.cage c).charge then (s.cage c).rlm else (s.cage c).rlm.chargeChange n s.now) ∧
      ((s.setCharge c n).cage c).bus = (s.cage c).bus ∧
      ((s.setCharge c n).cage c).image = (s.cage c).image ∧
      ((s.setCharge c n).cage c).nextPoll = (s.cage c).nextPoll ∧
      (s.setCharge c n).group (groupOf c) = { s.group (groupOf c) with committed := (s.group (groupOf c)).committed + n - (s.cage c).charge } ∧
      (s.setCharge c n).engine (engineOf c) = s.engine (engineOf c) ∧
      (s.setCharge c n).portA = s.portA ∧
      (s.setCharge c n).portB = s.portB ∧
      (s.setCharge c n).now = s.now ∧
      (s.setCharge c n).elapsed = s.elapsed ∧
      (s.setCharge c n).settings = s.settings ∧
      (s.setCharge c n).fieldMaps = s.fieldMaps ∧
      (s.setCharge c n).lsr = s.lsr ∧
      (s.setCharge c n).inReset = s.inReset := by
  simp [State.setCharge]
  rfl

/-- R3. -/
@[simp] theorem State.resetAssert_parts (s : State) (c : CageNo) :
    ((s.resetAssert c).cage c).ciu = { (s.cage c).ciu with lines := { (s.cage c).ciu.lines with reset := true } } ∧
      ((s.resetAssert c).cage c).outage = (s.cage c).outage ∧
      ((s.resetAssert c).cage c).profile = (s.cage c).profile ∧
      ((s.resetAssert c).cage c).seq = (s.cage c).seq ∧
      ((s.resetAssert c).cage c).charge = (s.cage c).charge ∧
      ((s.resetAssert c).cage c).rlm = (s.cage c).rlm ∧
      ((s.resetAssert c).cage c).bus = (s.cage c).bus ∧
      ((s.resetAssert c).cage c).image = (s.cage c).image ∧
      ((s.resetAssert c).cage c).nextPoll = (s.cage c).nextPoll ∧
      (s.resetAssert c).group (groupOf c) = s.group (groupOf c) ∧
      (s.resetAssert c).engine (engineOf c) = s.engine (engineOf c) ∧
      (s.resetAssert c).portA = s.portA ∧
      (s.resetAssert c).portB = s.portB ∧
      (s.resetAssert c).now = s.now ∧
      (s.resetAssert c).elapsed = s.elapsed ∧
      (s.resetAssert c).settings = s.settings ∧
      (s.resetAssert c).fieldMaps = s.fieldMaps ∧
      (s.resetAssert c).lsr = s.lsr ∧
      (s.resetAssert c).inReset = s.inReset := by
  simp [State.resetAssert]

/-- R3. -/
@[simp] theorem State.lpRelease_parts (s : State) (c : CageNo) :
    ((s.lpRelease c).cage c).ciu = { (s.cage c).ciu with lines := { (s.cage c).ciu.lines with lp := false } } ∧
      ((s.lpRelease c).cage c).outage = (s.cage c).outage ∧
      ((s.lpRelease c).cage c).profile = (s.cage c).profile ∧
      ((s.lpRelease c).cage c).seq = (s.cage c).seq ∧
      ((s.lpRelease c).cage c).charge = (s.cage c).charge ∧
      ((s.lpRelease c).cage c).rlm = (s.cage c).rlm ∧
      ((s.lpRelease c).cage c).bus = (s.cage c).bus ∧
      ((s.lpRelease c).cage c).image = (s.cage c).image ∧
      ((s.lpRelease c).cage c).nextPoll = (s.cage c).nextPoll ∧
      (s.lpRelease c).group (groupOf c) = s.group (groupOf c) ∧
      (s.lpRelease c).engine (engineOf c) = s.engine (engineOf c) ∧
      (s.lpRelease c).portA = s.portA ∧
      (s.lpRelease c).portB = s.portB ∧
      (s.lpRelease c).now = s.now ∧
      (s.lpRelease c).elapsed = s.elapsed ∧
      (s.lpRelease c).settings = s.settings ∧
      (s.lpRelease c).fieldMaps = s.fieldMaps ∧
      (s.lpRelease c).lsr = s.lsr ∧
      (s.lpRelease c).inReset = s.inReset := by
  simp [State.lpRelease]

/-- R3. -/
@[simp] theorem State.resetRelease_parts (s : State) (c : CageNo) :
    ((s.resetRelease c).cage c).ciu = (if (s.cage c).ciu.lines.rail then
        { (s.cage c).ciu with lines := { (s.cage c).ciu.lines with reset := false } }
      else (s.cage c).ciu) ∧
      ((s.resetRelease c).cage c).outage = (s.cage c).outage ∧
      ((s.resetRelease c).cage c).profile = (s.cage c).profile ∧
      ((s.resetRelease c).cage c).seq = (s.cage c).seq ∧
      ((s.resetRelease c).cage c).charge = (s.cage c).charge ∧
      ((s.resetRelease c).cage c).rlm = (s.cage c).rlm ∧
      ((s.resetRelease c).cage c).bus = (s.cage c).bus ∧
      ((s.resetRelease c).cage c).image = (s.cage c).image ∧
      ((s.resetRelease c).cage c).nextPoll = (s.cage c).nextPoll ∧
      (s.resetRelease c).group (groupOf c) = s.group (groupOf c) ∧
      (s.resetRelease c).engine (engineOf c) = s.engine (engineOf c) ∧
      (s.resetRelease c).portA = s.portA ∧
      (s.resetRelease c).portB = s.portB ∧
      (s.resetRelease c).now = s.now ∧
      (s.resetRelease c).elapsed = s.elapsed ∧
      (s.resetRelease c).settings = s.settings ∧
      (s.resetRelease c).fieldMaps = s.fieldMaps ∧
      (s.resetRelease c).lsr = s.lsr ∧
      (s.resetRelease c).inReset = s.inReset := by
  cases h : (s.cage c).ciu.lines.rail <;> simp [State.resetRelease, h]

/-- R3, R116, R117. -/
@[simp] theorem State.lpAssert_parts (s : State) (c : CageNo) :
    ((s.lpAssert c).cage c).ciu = { (s.cage c).ciu with lines := { (s.cage c).ciu.lines with lp := true } } ∧
      ((s.lpAssert c).cage c).outage = (s.cage c).outage ∧
      ((s.lpAssert c).cage c).profile = (s.cage c).profile ∧
      ((s.lpAssert c).cage c).seq = { (s.cage c).seq with hpOn := false } ∧
      ((s.lpAssert c).cage c).charge = min (s.cage c).charge lowPowerCharge ∧
      ((s.lpAssert c).cage c).rlm = (if lowPowerCharge < (s.cage c).charge then (s.cage c).rlm.chargeChange lowPowerCharge s.now
        else (s.cage c).rlm) ∧
      ((s.lpAssert c).cage c).bus = (s.cage c).bus ∧
      ((s.lpAssert c).cage c).image = (s.cage c).image ∧
      ((s.lpAssert c).cage c).nextPoll = (s.cage c).nextPoll ∧
      (s.lpAssert c).group (groupOf c) = { s.group (groupOf c) with
        committed := (s.group (groupOf c)).committed + min (s.cage c).charge lowPowerCharge - (s.cage c).charge } ∧
      (s.lpAssert c).engine (engineOf c) = s.engine (engineOf c) ∧
      (s.lpAssert c).portA = s.portA ∧
      (s.lpAssert c).portB = s.portB ∧
      (s.lpAssert c).now = s.now ∧
      (s.lpAssert c).elapsed = s.elapsed ∧
      (s.lpAssert c).settings = s.settings ∧
      (s.lpAssert c).fieldMaps = s.fieldMaps ∧
      (s.lpAssert c).lsr = s.lsr ∧
      (s.lpAssert c).inReset = s.inReset := by
  by_cases h : lowPowerCharge < (s.cage c).charge
  · have h2 : min (s.cage c).charge lowPowerCharge = lowPowerCharge := by omega
    have h3 : lowPowerCharge ≠ (s.cage c).charge := by omega
    simp [State.lpAssert, h, h2, h3]
  · have h2 : min (s.cage c).charge lowPowerCharge = (s.cage c).charge := by omega
    simp [State.lpAssert, h, h2]

/-- R3, R4, R6, R117, R137. -/
@[simp] theorem State.railOff_parts (s : State) (c : CageNo) :
    ((s.railOff c).cage c).ciu = (if (s.cage c).ciu.lines.rail then
        { (s.cage c).ciu with
          lines := { (s.cage c).ciu.lines with rail := false, reset := true }
          latch := none }
      else { (s.cage c).ciu with lines := { (s.cage c).ciu.lines with reset := true } }) ∧
      ((s.railOff c).cage c).outage = (s.cage c).outage ∧
      ((s.railOff c).cage c).profile = (s.cage c).profile ∧
      ((s.railOff c).cage c).seq = (s.cage c).seq ∧
      ((s.railOff c).cage c).charge = (if (s.cage c).ciu.lines.rail then 0 else (s.cage c).charge) ∧
      ((s.railOff c).cage c).rlm = (if (s.cage c).ciu.lines.rail then
        (if 0 = (s.cage c).charge then (s.cage c).rlm else (s.cage c).rlm.chargeChange 0 s.now).railOff
      else (s.cage c).rlm) ∧
      ((s.railOff c).cage c).bus = (if (s.cage c).ciu.lines.rail ∧ (s.cage c).bus.seg = .stuck then (s.cage c).bus.disconnect
      else (s.cage c).bus) ∧
      ((s.railOff c).cage c).image = (s.cage c).image ∧
      ((s.railOff c).cage c).nextPoll = (s.cage c).nextPoll ∧
      (s.railOff c).group (groupOf c) = (if (s.cage c).ciu.lines.rail then
        { s.group (groupOf c) with committed := (s.group (groupOf c)).committed - (s.cage c).charge }
      else s.group (groupOf c)) ∧
      (s.railOff c).engine (engineOf c) = s.engine (engineOf c) ∧
      (s.railOff c).portA = s.portA ∧
      (s.railOff c).portB = s.portB ∧
      (s.railOff c).now = s.now ∧
      (s.railOff c).elapsed = s.elapsed ∧
      (s.railOff c).settings = s.settings ∧
      (s.railOff c).fieldMaps = s.fieldMaps ∧
      (s.railOff c).lsr = s.lsr ∧
      (s.railOff c).inReset = s.inReset := by
  cases h : (s.cage c).ciu.lines.rail <;> simp [State.railOff, h]

/-- R3, R6, R137. -/
@[simp] theorem State.railOn_parts (s : State) (c : CageNo) :
    ((s.railOn c).cage c).ciu = (if (s.cage c).ciu.lines.rail then (s.cage c).ciu
      else { (s.cage c).ciu with lines := { (s.cage c).ciu.lines with rail := true } }) ∧
      ((s.railOn c).cage c).outage = (s.cage c).outage ∧
      ((s.railOn c).cage c).profile = (s.cage c).profile ∧
      ((s.railOn c).cage c).seq = (s.cage c).seq ∧
      ((s.railOn c).cage c).charge = (s.cage c).charge ∧
      ((s.railOn c).cage c).rlm = (if (s.cage c).ciu.lines.rail then (s.cage c).rlm else (s.cage c).rlm.railOn (s.cage c).charge) ∧
      ((s.railOn c).cage c).bus = (s.cage c).bus ∧
      ((s.railOn c).cage c).image = (s.cage c).image ∧
      ((s.railOn c).cage c).nextPoll = (s.cage c).nextPoll ∧
      (s.railOn c).group (groupOf c) = s.group (groupOf c) ∧
      (s.railOn c).engine (engineOf c) = s.engine (engineOf c) ∧
      (s.railOn c).portA = s.portA ∧
      (s.railOn c).portB = s.portB ∧
      (s.railOn c).now = s.now ∧
      (s.railOn c).elapsed = s.elapsed ∧
      (s.railOn c).settings = s.settings ∧
      (s.railOn c).fieldMaps = s.fieldMaps ∧
      (s.railOn c).lsr = s.lsr ∧
      (s.railOn c).inReset = s.inReset := by
  cases h : (s.cage c).ciu.lines.rail <;> simp [State.railOn, h]

/-- R154. -/
@[simp] theorem State.cancelSeq_parts (s : State) (c : CageNo) :
    ((s.cancelSeq c).cage c).ciu = (s.cage c).ciu ∧
      ((s.cancelSeq c).cage c).outage = (s.cage c).outage ∧
      ((s.cancelSeq c).cage c).profile = (s.cage c).profile ∧
      ((s.cancelSeq c).cage c).seq = (s.cage c).seq ∧
      ((s.cancelSeq c).cage c).charge = (s.cage c).charge ∧
      ((s.cancelSeq c).cage c).rlm = (s.cage c).rlm ∧
      ((s.cancelSeq c).cage c).bus = (s.cage c).bus ∧
      ((s.cancelSeq c).cage c).image = (s.cage c).image ∧
      ((s.cancelSeq c).cage c).nextPoll = (s.cage c).nextPoll ∧
      (s.cancelSeq c).group (groupOf c) = s.group (groupOf c) ∧
      (s.cancelSeq c).engine (engineOf c) = (s.engine (engineOf c)).cancel c .seq ∧
      (s.cancelSeq c).portA = s.portA ∧
      (s.cancelSeq c).portB = s.portB ∧
      (s.cancelSeq c).now = s.now ∧
      (s.cancelSeq c).elapsed = s.elapsed ∧
      (s.cancelSeq c).settings = s.settings ∧
      (s.cancelSeq c).fieldMaps = s.fieldMaps ∧
      (s.cancelSeq c).lsr = s.lsr ∧
      (s.cancelSeq c).inReset = s.inReset := by
  simp [State.cancelSeq]

/-- R169. -/
@[simp] theorem State.withdrawPoll_parts (s : State) (c : CageNo) :
    ((s.withdrawPoll c).cage c).ciu = (s.cage c).ciu ∧
      ((s.withdrawPoll c).cage c).outage = (s.cage c).outage ∧
      ((s.withdrawPoll c).cage c).profile = (s.cage c).profile ∧
      ((s.withdrawPoll c).cage c).seq = (s.cage c).seq ∧
      ((s.withdrawPoll c).cage c).charge = (s.cage c).charge ∧
      ((s.withdrawPoll c).cage c).rlm = (s.cage c).rlm ∧
      ((s.withdrawPoll c).cage c).bus = (s.cage c).bus ∧
      ((s.withdrawPoll c).cage c).image = (s.cage c).image ∧
      ((s.withdrawPoll c).cage c).nextPoll = (s.cage c).nextPoll ∧
      (s.withdrawPoll c).group (groupOf c) = s.group (groupOf c) ∧
      (s.withdrawPoll c).engine (engineOf c) = (s.engine (engineOf c)).cancel c .poll ∧
      (s.withdrawPoll c).portA = s.portA ∧
      (s.withdrawPoll c).portB = s.portB ∧
      (s.withdrawPoll c).now = s.now ∧
      (s.withdrawPoll c).elapsed = s.elapsed ∧
      (s.withdrawPoll c).settings = s.settings ∧
      (s.withdrawPoll c).fieldMaps = s.fieldMaps ∧
      (s.withdrawPoll c).lsr = s.lsr ∧
      (s.withdrawPoll c).inReset = s.inReset := by
  simp [State.withdrawPoll]

/-- R147. -/
@[simp] theorem State.connect_parts (s : State) (c : CageNo) :
    ((s.connect c).cage c).ciu = (s.cage c).ciu ∧
      ((s.connect c).cage c).outage = (s.cage c).outage ∧
      ((s.connect c).cage c).profile = (s.cage c).profile ∧
      ((s.connect c).cage c).seq = (s.cage c).seq ∧
      ((s.connect c).cage c).charge = (s.cage c).charge ∧
      ((s.connect c).cage c).rlm = (s.cage c).rlm ∧
      ((s.connect c).cage c).bus = { (s.cage c).bus with seg := .connected, shadow := none, recovery := false } ∧
      ((s.connect c).cage c).image = (s.cage c).image ∧
      ((s.connect c).cage c).nextPoll = (s.cage c).nextPoll ∧
      (s.connect c).group (groupOf c) = s.group (groupOf c) ∧
      (s.connect c).engine (engineOf c) = s.engine (engineOf c) ∧
      (s.connect c).portA = s.portA ∧
      (s.connect c).portB = s.portB ∧
      (s.connect c).now = s.now ∧
      (s.connect c).elapsed = s.elapsed ∧
      (s.connect c).settings = s.settings ∧
      (s.connect c).fieldMaps = s.fieldMaps ∧
      (s.connect c).lsr = s.lsr ∧
      (s.connect c).inReset = s.inReset := by
  simp [State.connect]

/-- R122. -/
@[simp] theorem State.withdrawEntry_parts (s : State) (c : CageNo) :
    ((s.withdrawEntry c).cage c).ciu = (s.cage c).ciu ∧
      ((s.withdrawEntry c).cage c).outage = (s.cage c).outage ∧
      ((s.withdrawEntry c).cage c).profile = (s.cage c).profile ∧
      ((s.withdrawEntry c).cage c).seq = (s.cage c).seq ∧
      ((s.withdrawEntry c).cage c).charge = (s.cage c).charge ∧
      ((s.withdrawEntry c).cage c).rlm = (s.cage c).rlm ∧
      ((s.withdrawEntry c).cage c).bus = (s.cage c).bus ∧
      ((s.withdrawEntry c).cage c).image = (s.cage c).image ∧
      ((s.withdrawEntry c).cage c).nextPoll = (s.cage c).nextPoll ∧
      (s.withdrawEntry c).group (groupOf c) = { s.group (groupOf c) with
        queue := (s.group (groupOf c)).queue.filter fun e => decide (e.cage ≠ c) } ∧
      (s.withdrawEntry c).engine (engineOf c) = s.engine (engineOf c) ∧
      (s.withdrawEntry c).portA = s.portA ∧
      (s.withdrawEntry c).portB = s.portB ∧
      (s.withdrawEntry c).now = s.now ∧
      (s.withdrawEntry c).elapsed = s.elapsed ∧
      (s.withdrawEntry c).settings = s.settings ∧
      (s.withdrawEntry c).fieldMaps = s.fieldMaps ∧
      (s.withdrawEntry c).lsr = s.lsr ∧
      (s.withdrawEntry c).inReset = s.inReset := by
  simp [State.withdrawEntry]

/-- R138. -/
@[simp] theorem State.settleBasis_parts (s : State) (c : CageNo) :
    ((s.settleBasis c).cage c).ciu = (s.cage c).ciu ∧
      ((s.settleBasis c).cage c).outage = (s.cage c).outage ∧
      ((s.settleBasis c).cage c).profile = (s.cage c).profile ∧
      ((s.settleBasis c).cage c).seq = (s.cage c).seq ∧
      ((s.settleBasis c).cage c).charge = (s.cage c).charge ∧
      ((s.settleBasis c).cage c).rlm = (if (s.cage c).seq.state ≠ .adopting ∧ (s.cage c).ciu.presence ≠ .unsettled then
        (s.cage c).rlm.endReset18 (s.cage c).charge s.now
      else (s.cage c).rlm) ∧
      ((s.settleBasis c).cage c).bus = (s.cage c).bus ∧
      ((s.settleBasis c).cage c).image = (s.cage c).image ∧
      ((s.settleBasis c).cage c).nextPoll = (s.cage c).nextPoll ∧
      (s.settleBasis c).group (groupOf c) = s.group (groupOf c) ∧
      (s.settleBasis c).engine (engineOf c) = s.engine (engineOf c) ∧
      (s.settleBasis c).portA = s.portA ∧
      (s.settleBasis c).portB = s.portB ∧
      (s.settleBasis c).now = s.now ∧
      (s.settleBasis c).elapsed = s.elapsed ∧
      (s.settleBasis c).settings = s.settings ∧
      (s.settleBasis c).fieldMaps = s.fieldMaps ∧
      (s.settleBasis c).lsr = s.lsr ∧
      (s.settleBasis c).inReset = s.inReset := by
  by_cases h : (s.cage c).seq.state ≠ .adopting ∧ (s.cage c).ciu.presence ≠ .unsettled <;>
    simp [State.settleBasis, h]

/-- R100, R107. -/
@[simp] theorem State.stopWork_parts (s : State) (c : CageNo) :
    ((s.stopWork c).cage c).ciu = (s.cage c).ciu ∧
      ((s.stopWork c).cage c).outage = (s.cage c).outage ∧
      ((s.stopWork c).cage c).profile = (s.cage c).profile ∧
      ((s.stopWork c).cage c).seq = { (s.cage c).seq with timers := {}, access := .none } ∧
      ((s.stopWork c).cage c).charge = (s.cage c).charge ∧
      ((s.stopWork c).cage c).rlm = (s.cage c).rlm ∧
      ((s.stopWork c).cage c).bus = (s.cage c).bus ∧
      ((s.stopWork c).cage c).image = (s.cage c).image ∧
      ((s.stopWork c).cage c).nextPoll = (s.cage c).nextPoll ∧
      (s.stopWork c).group (groupOf c) = s.group (groupOf c) ∧
      (s.stopWork c).engine (engineOf c) = (s.engine (engineOf c)).cancel c .seq ∧
      (s.stopWork c).portA = s.portA ∧
      (s.stopWork c).portB = s.portB ∧
      (s.stopWork c).now = s.now ∧
      (s.stopWork c).elapsed = s.elapsed ∧
      (s.stopWork c).settings = s.settings ∧
      (s.stopWork c).fieldMaps = s.fieldMaps ∧
      (s.stopWork c).lsr = s.lsr ∧
      (s.stopWork c).inReset = s.inReset := by
  simp [State.stopWork]

/-- A state is entered. -/
@[simp] theorem State.enter_parts (s : State) (c : CageNo) (st : SeqState) (stage : Stage) :
    ((s.enter c st stage).cage c).ciu = (s.cage c).ciu ∧
      ((s.enter c st stage).cage c).outage = (s.cage c).outage ∧
      ((s.enter c st stage).cage c).profile = (s.cage c).profile ∧
      ((s.enter c st stage).cage c).seq = (s.cage c).seq.entered st stage ∧
      ((s.enter c st stage).cage c).charge = (s.cage c).charge ∧
      ((s.enter c st stage).cage c).rlm = (if st ≠ .adopting ∧ (s.cage c).ciu.presence ≠ .unsettled then
        (s.cage c).rlm.endReset18 (s.cage c).charge s.now
      else (s.cage c).rlm) ∧
      ((s.enter c st stage).cage c).bus = (s.cage c).bus ∧
      ((s.enter c st stage).cage c).image = (s.cage c).image ∧
      ((s.enter c st stage).cage c).nextPoll = (if st.polled then (s.cage c).nextPoll else none) ∧
      (s.enter c st stage).group (groupOf c) = s.group (groupOf c) ∧
      (s.enter c st stage).engine (engineOf c) = (if st.polled then s.engine (engineOf c) else (s.engine (engineOf c)).cancel c .poll) ∧
      (s.enter c st stage).portA = s.portA ∧
      (s.enter c st stage).portB = s.portB ∧
      (s.enter c st stage).now = s.now ∧
      (s.enter c st stage).elapsed = s.elapsed ∧
      (s.enter c st stage).settings = s.settings ∧
      (s.enter c st stage).fieldMaps = s.fieldMaps ∧
      (s.enter c st stage).lsr = s.lsr ∧
      (s.enter c st stage).inReset = s.inReset := by
  cases h : st.polled <;> simp [State.enter, State.leavePolls, Ctx.entered, h]

end Sys2Proof.Machine
end

