-- ==== Sys2Proof/Laws/Slots.lean ====
section
/-! SUPPORT. A command about a cage leaves the slots of a port that has no passthrough for the cage. -/

namespace Sys2Proof.Machine

/-! ### The slots of a port -/

/-- Where a port has no passthrough for the cage, its reply slot and the request it serves stay, and so does that it has
none. -/
def State.KeepsSlots (s t : State) (c : CageNo) (p : Port) : Prop :=
  s.NoPassFor c p →
    t.NoPassFor c p ∧ (t.port p).reply = (s.port p).reply ∧ (t.port p).request = (s.port p).request

theorem State.KeepsSlots.of_engine {s t : State} {c : CageNo} {p : Port}
    (he : t.engine (engineOf c) = s.engine (engineOf c)) (hp : (t.port p).reply = (s.port p).reply)
    (hq : (t.port p).request = (s.port p).request) : s.KeepsSlots t c p := fun h => by
  refine ⟨?_, hp, hq⟩
  unfold State.NoPassFor
  rw [he]
  exact h

theorem State.KeepsSlots.trans {s t u : State} {c : CageNo} {p : Port} (a : s.KeepsSlots t c p)
    (b : t.KeepsSlots u c p) : s.KeepsSlots u c p := fun h =>
  have x := a h
  have y := b x.1
  ⟨y.1, y.2.1.trans x.2.1, y.2.2.trans x.2.2⟩

theorem State.KeepsSlots.modCage (s : State) (c : CageNo) (p : Port) (f : Cage → Cage) :
    s.KeepsSlots (s.modCage c f) c p :=
  .of_engine rfl (by cases p <;> rfl) (by cases p <;> rfl)

/-- A change of the cage's engine whose waiting items and carried item are among those before. -/
theorem State.KeepsSlots.modEngine (s : State) (c : CageNo) (p : Port) (f : Engine → Engine)
    (hw : ∀ i ∈ (f (s.engine (engineOf c))).waiting, i ∈ (s.engine (engineOf c)).waiting ∨ i.who ≠ .port p)
    (hc : ∀ k, (f (s.engine (engineOf c))).current = some k →
      ∃ x, (s.engine (engineOf c)).current = some x ∧ x.item = k.item) :
    s.KeepsSlots (s.modEngine (engineOf c) f) c p := fun h => by
  refine ⟨⟨fun i hi hic => ?_, fun k hk hkc => ?_⟩, by cases p <;> rfl, by cases p <;> rfl⟩
  · rw [State.modEngine_engine_self] at hi
    rcases hw i hi with h' | h'
    · exact h.1 i h' hic
    · exact h'
  · rw [State.modEngine_engine_self] at hk
    obtain ⟨x, hx, hxi⟩ := hc k hk
    rw [← hxi] at hkc ⊢
    exact h.2 x hx hkc

theorem State.answer_engine (s : State) (p : Port) (st : ReplyStatus) (data : List Byte) (e : EngineNo) :
    (s.answer p st data).engine e = s.engine e := by
  cases p <;> rfl

theorem State.answer_port_ne (s : State) {p q : Port} (h : q ≠ p) (st : ReplyStatus) (data : List Byte) :
    (s.answer p st data).port q = s.port q := by
  unfold State.answer
  rw [State.modPort_port, if_neg h]

/-- An answer to another port than `p`. -/
theorem State.KeepsSlots.answer (s : State) (c : CageNo) {p q : Port} (h : p ≠ q) (st : ReplyStatus) (data : List Byte) :
    s.KeepsSlots (s.answer q st data) c p :=
  .of_engine (s.answer_engine ..) (by rw [s.answer_port_ne h]) (by rw [s.answer_port_ne h])

theorem State.KeepsSlots.putAway (s : State) (c : CageNo) (p : Port) :
    s.KeepsSlots (s.modEngine (engineOf c) fun e => { e with current := none, selected := none }) c p :=
  .modEngine s c p _ (fun i hi => .inl hi) fun k hk => by simp at hk

theorem State.KeepsSlots.endPass (s : State) (c : CageNo) (p q : Port) (st : ReplyStatus) :
    s.KeepsSlots (s.endPass c st q) c p := by
  unfold State.endPass
  split
  · next hw =>
    intro h
    have hq : p ≠ q := by
      rintro rfl
      obtain ⟨i, hi, ho⟩ := List.any_eq_true.mp hw
      simp only [Item.isOf, Bool.and_eq_true, decide_eq_true_eq] at ho
      exact h.1 i hi ho.1 ho.2
    exact (((State.KeepsSlots.modEngine s c p _ (fun i hi => .inl (List.mem_of_mem_filter hi)) fun k hk => ⟨k, hk, rfl⟩).trans
      (.modCage _ c p _)).trans (.answer _ c hq st [])) h
  · exact fun h => ⟨h, rfl, rfl⟩

theorem State.KeepsSlots.cutCarried (s : State) (c : CageNo) (p : Port) : s.KeepsSlots (s.cutCarried c) c p := by
  unfold State.cutCarried
  split
  · next k hk =>
    split
    · next hc =>
      dsimp only
      split
      · next q hq =>
        intro h
        have hpq : p ≠ q := fun e => h.2 k hk hc (e ▸ hq)
        exact ((State.KeepsSlots.putAway s c p).trans (.answer _ c hpq _ _)) h
      · exact .putAway s c p
    · exact fun h => ⟨h, rfl, rfl⟩
  · exact fun h => ⟨h, rfl, rfl⟩

/-- To keep the slots of a port that has no passthrough for the cage is kept by every operation on the cage. -/
def State.KeepsSlots.closed (c : CageNo) (p : Port) : Closed c where
  R := fun s t => s.KeepsSlots t c p
  refl' := fun s h => ⟨h, rfl, rfl⟩
  trans' := fun a b => a.trans b
  modSeq := fun s _ => .modCage s c p _
  modOutage := fun s _ => .modCage s c p _
  modImage := fun s _ => .modCage s c p _
  modBus := fun s _ => .modCage s c p _
  modCiu := fun s _ _ => .modCage s c p _
  nextPoll := fun s _ => .modCage s c p _
  learned := fun s _ _ => .modCage s c p _
  setCharge := fun s n => .of_engine (by simp) (by cases p <;> simp [State.port]) (by cases p <;> simp [State.port])
  railOn := fun s => .of_engine (by simp) (by cases p <;> simp [State.port]) (by cases p <;> simp [State.port])
  railOff := fun s => .of_engine (by simp) (by cases p <;> simp [State.port]) (by cases p <;> simp [State.port])
  resetAssert := fun s => .modCage s c p _
  resetRelease := fun s => .modCage s c p _
  lpLine := fun s => .modCage s c p _
  lpRelease := fun s => .modCage s c p _
  settleBasis := fun s => .of_engine (by simp) (by cases p <;> simp [State.port]) (by cases p <;> simp [State.port])
  queue := fun s _ _ => .of_engine rfl (by cases p <;> rfl) (by cases p <;> rfl)
  cancel := fun s w => .modEngine s c p _ (fun i hi => .inl (List.mem_of_mem_filter hi)) fun k hk => by
    simp only [Engine.cancel, Option.map_eq_some_iff] at hk
    obtain ⟨x, hx, rfl⟩ := hk
    exact ⟨x, hx, by split <;> rfl⟩
  endPass := fun s st q => .endPass s c p q st
  cutCarried := fun s => .cutCarried s c p
  abortCarried := fun s => .modEngine s c p _ (fun i hi => .inl hi) fun k hk => by
    simp only [Option.map_eq_some_iff] at hk
    obtain ⟨x, hx, rfl⟩ := hk
    exact ⟨x, hx, by split <;> rfl⟩
  putAway := fun s _ _ _ => .putAway s c p
  giveBack := fun s k o q hk hc hw h =>
    have hpq : p ≠ q := fun e => h.2 k hk hc (e ▸ hw)
    (((State.KeepsSlots.putAway s c p).trans
      (by unfold State.putDown; rw [hc]; exact .modCage _ c p _)).trans (.answer _ c hpq _ _)) h
  addItem := fun s i hi hw => by
    subst hi
    refine .modEngine s _ p _ (fun j hj => ?_) fun k hk => ⟨k, hk, rfl⟩
    rcases List.mem_append.mp hj with h' | h'
    · exact .inl h'
    · exact .inr (List.mem_singleton.mp h' ▸ hw p)
  postTo := fun s q k => .of_engine (by cases q <;> rfl)
    (by unfold State.postTo; rw [State.modPort_port]; split <;> rename_i h <;> [subst h; skip] <;> rfl)
    (by unfold State.postTo; rw [State.modPort_port]; split <;> rename_i h <;> [subst h; skip] <;> rfl)
  postDeviceTo := fun s q k => .of_engine (by cases q <;> rfl)
    (by unfold State.postDeviceTo; rw [State.modPort_port]; split <;> rename_i h <;> [subst h; skip] <;> rfl)
    (by unfold State.postDeviceTo; rw [State.modPort_port]; split <;> rename_i h <;> [subst h; skip] <;> rfl)

end Sys2Proof.Machine
end

