-- ==== Sys2Proof/Laws/Transitions.lean ====
section
/-! SUPPORT. One specification for each transition of the sequencer that several commands share: what a module fault, a
park, an entry to ADMIT_WAIT or EMPTY and a drain start leave. -/

namespace Sys2Proof.Machine

theorem Reached.due {t : Option Timer} {now : Stamp} (h : Reached t now) : dueTimer t now = true := by
  obtain ⟨x, rfl, hx⟩ := h
  exact decide_eq_true hx

theorem State.moduleFault_spec (s : State) (c : CageNo) (r : Reason) : s.ModuleFaulted (s.moduleFault c r) c r := by
  refine ⟨(only c).moduleFault s r, ?_, ?_, ?_, ?_, ?_, ?_, ?_, ?_, ?_, fun p => ?_⟩
  rotate_right
  · cases p <;> simp [State.moduleFault, State.port]
  all_goals simp [State.moduleFault, Ctx.entered, SeqState.frees, SeqState.polled, lowPowerCharge]

theorem State.moduleFault_replies (s : State) (c : CageNo) (r : Reason) : s.SameReplies (s.moduleFault c r) := by
  constructor <;> intro p <;> cases p <;> simp [State.moduleFault, State.port]

theorem State.parkNow_spec (s : State) (c : CageNo) (r : Reason) (stage : Stage) (src : Option Source) :
    s.Parked (s.parkNow c r stage src) c r stage src := by
  refine ⟨(only c).parkNow s r stage src, ?_, ?_, ?_, ?_, ?_, ?_, ?_, ?_, fun p => ?_⟩
  rotate_right
  · cases p <;> simp [State.parkNow, State.port]
  all_goals simp [State.parkNow, Ctx.entered, SeqState.frees, SeqState.polled, Outage.isOpen]

theorem State.parkNow_replies (s : State) (c : CageNo) (r : Reason) (stage : Stage) (src : Option Source) :
    s.SameReplies (s.parkNow c r stage src) := by
  constructor <;> intro p <;> cases p <;> simp [State.parkNow, State.port]

theorem State.enterAdmit_spec (s : State) (c : CageNo) (h : 1500 ≤ (s.group (groupOf c)).budget) :
    s.Admitted (s.enterAdmit c) c (s.cage c).image := by
  have hb : ¬ (s.group (groupOf c)).budget < 1500 := by omega
  refine ⟨(only c).enterAdmit s, ?_, ?_, ?_, ?_, ?_, ?_, ?_, ?_⟩
  all_goals
    simp [State.enterAdmit, State.enqueue, State.newEntry, Ctx.clearRestore, Ctx.entered, SeqState.polled, lowPowerCharge,
      hb, State.profile]

theorem State.readmit_spec (s : State) (c : CageNo) (h : 1500 ≤ (s.group (groupOf c)).budget) :
    s.Admitted (s.readmit c) c Machine.emptyImage := by
  have hb : ¬ (s.group (groupOf c)).budget < 1500 := by omega
  refine ⟨(only c).readmit s, ?_, ?_, ?_, ?_, ?_, ?_, ?_, ?_⟩
  all_goals
    simp [State.readmit, State.enterAdmit, State.enqueue, State.newEntry, Ctx.clearRestore, Ctx.entered, SeqState.polled,
      lowPowerCharge, hb, State.profile]

theorem State.enterAdmit_never (s : State) (c : CageNo) (h : (s.group (groupOf c)).budget < 1500) :
    s.NeverFits (s.enterAdmit c) c (s.cage c).image (s.cage c).outage ∧ s.Posted (s.enterAdmit c) c .parked ∧
      s.SameReplies (s.enterAdmit c) ∧ ((s.enterAdmit c).cage c).seq.insertion = (s.cage c).seq.insertion := by
  refine ⟨⟨(only c).enterAdmit s, ?_, ?_, ?_, ?_, ?_, ?_, ?_, ?_, ?_⟩, fun p => ?_, ⟨fun p => ?_, fun p => ?_⟩, ?_⟩
  rotate_left 9
  · cases p <;> simp [State.enterAdmit, State.enqueue, h, lowPowerCharge, State.parkNow, State.port]
  · cases p <;> simp [State.enterAdmit, State.enqueue, h, lowPowerCharge, State.parkNow, State.port]
  · cases p <;> simp [State.enterAdmit, State.enqueue, h, lowPowerCharge, State.parkNow, State.port]
  all_goals
    simp [State.enterAdmit, State.enqueue, h, Ctx.clearRestore, Ctx.entered, SeqState.polled, lowPowerCharge,
      State.parkNow, Outage.isOpen, closedRecord]

theorem State.readmit_never (s : State) (c : CageNo) (h : (s.group (groupOf c)).budget < 1500) :
    s.NeverFits (s.readmit c) c Machine.emptyImage (s.cage c).outage ∧ s.Posted (s.readmit c) c .parked ∧
      s.SameReplies (s.readmit c) ∧ ((s.readmit c).cage c).seq.insertion = (s.cage c).seq.insertion := by
  refine ⟨⟨(only c).readmit s, ?_, ?_, ?_, ?_, ?_, ?_, ?_, ?_, ?_⟩, fun p => ?_, ⟨fun p => ?_, fun p => ?_⟩, ?_⟩
  rotate_left 9
  · cases p <;> simp [State.readmit, State.enterAdmit, State.enqueue, h, lowPowerCharge, State.parkNow, State.port]
  · cases p <;> simp [State.readmit, State.enterAdmit, State.enqueue, h, lowPowerCharge, State.parkNow, State.port]
  · cases p <;> simp [State.readmit, State.enterAdmit, State.enqueue, h, lowPowerCharge, State.parkNow, State.port]
  all_goals
    simp [State.readmit, State.enterAdmit, State.enqueue, h, Ctx.clearRestore, Ctx.entered, SeqState.polled,
      lowPowerCharge, State.parkNow, Outage.isOpen, closedRecord]

theorem State.enterEmpty_spec (s : State) (c : CageNo) : s.Emptied (s.enterEmpty c) c := by
  refine ⟨(only c).enterEmpty s, ?_, ?_, ?_, ?_, ?_⟩
  all_goals simp [State.enterEmpty, Ctx.clearRestore, Ctx.entered, SeqState.polled]

/-! ### Drains -/

/-- Only the engine's records of the cage may have changed. -/
structure Cage.OnlyBus (k u : Cage) : Prop where
  ciu : u.ciu = k.ciu
  outage : u.outage = k.outage
  profile : u.profile = k.profile
  seq : u.seq = k.seq
  charge : u.charge = k.charge
  rlm : u.rlm = k.rlm
  image : u.image = k.image
  nextPoll : u.nextPoll = k.nextPoll

theorem Cage.OnlyBus.trans {k u v : Cage} (a : k.OnlyBus u) (b : u.OnlyBus v) : k.OnlyBus v :=
  ⟨b.ciu.trans a.ciu, b.outage.trans a.outage, b.profile.trans a.profile, b.seq.trans a.seq, b.charge.trans a.charge,
    b.rlm.trans a.rlm, b.image.trans a.image, b.nextPoll.trans a.nextPoll⟩

/-- What an operation that ends waiting passthroughs leaves. -/
structure State.PassesEnded (s u : State) (c : CageNo) : Prop where
  cage : (s.cage c).OnlyBus (u.cage c)
  group : u.group (groupOf c) = s.group (groupOf c)
  now : u.now = s.now
  list : ∀ p, (u.port p).list = (s.port p).list

theorem State.PassesEnded.trans {s u v : State} {c : CageNo} (a : s.PassesEnded u c) (b : u.PassesEnded v c) :
    s.PassesEnded v c :=
  ⟨a.cage.trans b.cage, b.group.trans a.group, b.now.trans a.now, fun p => (b.list p).trans (a.list p)⟩

theorem State.answer_list (s : State) (p q : Port) (st : ReplyStatus) (data : List Byte) :
    ((s.answer p st data).port q).list = (s.port q).list := by
  unfold State.answer
  rw [State.modPort_port]
  split
  · next h => subst h; split <;> rfl
  · rfl

theorem State.answer_cage (s : State) (p : Port) (st : ReplyStatus) (data : List Byte) (c : CageNo) :
    (s.answer p st data).cage c = s.cage c := by simp [State.answer]

theorem State.endPass_spec (s : State) (c : CageNo) (st : ReplyStatus) (p : Port) :
    s.PassesEnded (s.endPass c st p) c ∧ ((s.endPass c st p).cage c).bus.seg = (s.cage c).bus.seg := by
  unfold State.endPass
  split
  · refine ⟨⟨?_, ?_, ?_, fun q => ?_⟩, ?_⟩
    · constructor <;> simp [State.answer_cage]
    · simp [State.answer]
    · simp [State.answer]
    · rw [State.answer_list]; cases q <;> simp [State.port]
    · simp [State.answer_cage]
  · exact ⟨⟨by constructor <;> rfl, rfl, rfl, fun _ => rfl⟩, rfl⟩

theorem State.endPasses_spec (s : State) (c : CageNo) (st : ReplyStatus) :
    s.PassesEnded (s.endPasses c st) c ∧ ((s.endPasses c st).cage c).bus.seg = (s.cage c).bus.seg := by
  have a := s.endPass_spec c st .A
  have b := (s.endPass c st .A).endPass_spec c st .B
  exact ⟨a.1.trans b.1, b.2.trans a.2⟩

/-- R147: a disconnection leaves the segment DISCONNECTED. -/
theorem State.disconnect_spec (s : State) (c : CageNo) :
    s.PassesEnded (s.disconnect c) c ∧ ((s.disconnect c).cage c).bus.seg = .disconnected := by
  have a := (((s.modBus c Bus.disconnect).cancelSeq c).withdrawPoll c).endPasses_spec c .state
  refine ⟨.trans ⟨?_, ?_, ?_, fun q => ?_⟩ a.1, a.2.trans ?_⟩
  · constructor <;> simp
  · simp
  · simp
  · cases q <;> simp [State.port]
  · simp [Bus.disconnect]

/-- What the undo of drain steps leaves of the context: only whether it waits for the bus, and its stage, change. -/
def Ctx.OnlyWait (q u : Ctx) : Prop := u = { q with busRelease := u.busRelease, stage := u.stage }

/-- R101, R147: what the BUS_CONNECT undo of a drain leaves. -/
structure State.BusUndone (s u : State) (c : CageNo) : Prop where
  ciu : (u.cage c).ciu = (s.cage c).ciu
  outage : (u.cage c).outage = (s.cage c).outage
  profile : (u.cage c).profile = (s.cage c).profile
  charge : (u.cage c).charge = (s.cage c).charge
  rlm : (u.cage c).rlm = (s.cage c).rlm
  image : (u.cage c).image = (s.cage c).image
  nextPoll : (u.cage c).nextPoll = (s.cage c).nextPoll
  seq : (s.cage c).seq.OnlyWait (u.cage c).seq
  done : (u.cage c).bus.seg = .disconnected ∨ (u.cage c).seq.busRelease = true
  group : u.group (groupOf c) = s.group (groupOf c)
  now : u.now = s.now
  list : ∀ p, (u.port p).list = (s.port p).list

theorem State.PassesEnded.undone {s u : State} {c : CageNo} (a : s.PassesEnded u c)
    (h : (u.cage c).bus.seg = .disconnected) : s.BusUndone u c :=
  ⟨a.cage.ciu, a.cage.outage, a.cage.profile, a.cage.charge, a.cage.rlm, a.cage.image, a.cage.nextPoll,
    by rw [Ctx.OnlyWait, a.cage.seq], .inl h, a.group, a.now, a.list⟩

theorem State.busUndo_spec (s : State) (c : CageNo) : s.BusUndone (s.busUndo c) c := by
  unfold State.busUndo
  have hd := s.disconnect_spec c
  have hp := s.endPasses_spec c .state
  split
  · next h => exact ⟨rfl, rfl, rfl, rfl, rfl, rfl, rfl, rfl, .inl h, rfl, rfl, fun _ => rfl⟩
  · exact hd.1.undone hd.2
  · split
    · have a := hp.1
      refine ⟨?_, ?_, ?_, ?_, ?_, ?_, ?_, ?_, .inr ?_, ?_, ?_, fun p => ?_⟩
      · simpa using a.cage.ciu
      · simpa using a.cage.outage
      · simpa using a.cage.profile
      · simpa using a.cage.charge
      · simpa using a.cage.rlm
      · simpa using a.cage.image
      · simpa using a.cage.nextPoll
      · simp [Ctx.OnlyWait, a.cage.seq]
      · simp
      · simpa using a.group
      · simpa using a.now
      · have h := a.list p
        cases p <;> simpa [State.port] using h
    · exact hd.1.undone hd.2

/-- What the undo of a drain slot's steps leaves. -/
structure State.SlotUndone (s u : State) (c : CageNo) (t : SlotTable) (n : Nat) : Prop where
  undone : (s.cage c).Undone (u.cage c) t n
  seq : (s.cage c).seq.OnlyWait (u.cage c).seq
  lp : (u.cage c).ciu.lines.lp = (s.cage c).ciu.lines.lp
  charge : (u.cage c).charge ≤ (s.cage c).charge
  presence : (u.cage c).ciu.presence = (s.cage c).ciu.presence
  outage : (u.cage c).outage = (s.cage c).outage
  profile : (u.cage c).profile = (s.cage c).profile
  image : (u.cage c).image = (s.cage c).image
  nextPoll : (u.cage c).nextPoll = (s.cage c).nextPoll
  queue : (u.group (groupOf c)).queue = (s.group (groupOf c)).queue
  list : ∀ p, (u.port p).list = (s.port p).list

theorem State.resetUndo_spec (s : State) (c : CageNo) (t : SlotTable) (n : Nat) :
    let u := if t.reset = n then s.resetAssert c else s
    (u.cage c).seq = (s.cage c).seq ∧ (u.cage c).bus = (s.cage c).bus ∧ (u.cage c).charge = (s.cage c).charge ∧
    (u.cage c).outage = (s.cage c).outage ∧ (u.cage c).profile = (s.cage c).profile ∧ (u.cage c).image = (s.cage c).image ∧
    (u.cage c).nextPoll = (s.cage c).nextPoll ∧ u.group (groupOf c) = s.group (groupOf c) ∧ (∀ p, (u.port p).list = (s.port p).list) ∧
    (u.cage c).ciu.lines.rail = (s.cage c).ciu.lines.rail ∧ (u.cage c).ciu.lines.lp = (s.cage c).ciu.lines.lp ∧
    (u.cage c).ciu.presence = (s.cage c).ciu.presence ∧
    (u.cage c).ciu.lines.reset = (decide (t.reset = n) || (s.cage c).ciu.lines.reset) := by
  dsimp only
  split
  · next h =>
    refine ⟨?_, ?_, ?_, ?_, ?_, ?_, ?_, ?_, fun p => ?_, ?_, ?_, ?_, ?_⟩
    rotate_left 8
    · cases p <;> simp [State.port]
    all_goals simp [h]
  · next h => simp [h]

theorem State.railUndo_spec (s : State) (c : CageNo) (t : SlotTable) (n : Nat) :
    let u := if t.rail = n then s.railOff c else s
    (u.cage c).seq = (s.cage c).seq ∧
    (u.cage c).outage = (s.cage c).outage ∧ (u.cage c).profile = (s.cage c).profile ∧ (u.cage c).image = (s.cage c).image ∧
    (u.cage c).nextPoll = (s.cage c).nextPoll ∧ (u.group (groupOf c)).queue = (s.group (groupOf c)).queue ∧
    (∀ p, (u.port p).list = (s.port p).list) ∧
    (u.cage c).ciu.lines.lp = (s.cage c).ciu.lines.lp ∧ (u.cage c).ciu.presence = (s.cage c).ciu.presence ∧
    (u.cage c).ciu.lines.rail = (decide (t.rail ≠ n) && (s.cage c).ciu.lines.rail) ∧
    (u.cage c).ciu.lines.reset = (decide (t.rail = n) || (s.cage c).ciu.lines.reset) ∧
    (u.cage c).charge = (if t.rail = n ∧ (s.cage c).ciu.lines.rail = true then 0 else (s.cage c).charge) ∧
    (t.rail ≠ n → (u.cage c).bus = (s.cage c).bus) ∧
    ((s.cage c).bus.seg = .disconnected → (u.cage c).bus.seg = .disconnected) := by
  dsimp only
  split
  · next h =>
    cases hr : (s.cage c).ciu.lines.rail
    all_goals
      refine ⟨?_, ?_, ?_, ?_, ?_, ?_, fun p => ?_, ?_, ?_, ?_, ?_, ?_, ?_, ?_⟩
      rotate_left 6
      · cases p <;> simp [State.port]
      rotate_left 6
      · intro hd; simp [hr, hd]
      all_goals simp [h, hr]
  · next h => simp [h]

theorem State.undoSlot_spec (s : State) (c : CageNo) (n : Nat) :
    s.SlotUndone (s.undoSlot c n) c (s.cage c).seq.drainTable n := by
  unfold State.undoSlot
  dsimp only
  generalize (s.cage c).seq.drainTable = t
  obtain ⟨a1, a2, a3, a4, a5, a6, a7, a8, a9, a10, a11, a12, a13⟩ := s.resetUndo_spec c t n
  generalize (if t.reset = n then s.resetAssert c else s) = s1 at *
  have hb := s1.busUndo_spec c
  have hs2 : ∃ s2, (if t.bus = n then s1.busUndo c else s1) = s2 ∧ (s2.cage c).ciu = (s1.cage c).ciu ∧
     (s2.cage c).outage = (s1.cage c).outage ∧ (s2.cage c).profile = (s1.cage c).profile ∧ (s2.cage c).charge = (s1.cage c).charge ∧
     (s2.cage c).image = (s1.cage c).image ∧ (s2.cage c).nextPoll = (s1.cage c).nextPoll ∧ (s1.cage c).seq.OnlyWait (s2.cage c).seq ∧
     (t.bus = n → (s2.cage c).bus.seg = .disconnected ∨ (s2.cage c).seq.busRelease = true) ∧ (t.bus ≠ n → (s2.cage c).bus = (s1.cage c).bus) ∧
     s2.group (groupOf c) = s1.group (groupOf c) ∧ (∀ p, (s2.port p).list = (s1.port p).list) := by
    split
    · next h => exact ⟨_, rfl, hb.ciu, hb.outage, hb.profile, hb.charge, hb.image, hb.nextPoll, hb.seq, fun _ => hb.done, fun hn => absurd h hn, hb.group, hb.list⟩
    · next h => exact ⟨_, rfl, rfl, rfl, rfl, rfl, rfl, rfl, rfl, fun hn => absurd hn h, fun _ => rfl, rfl, fun _ => rfl⟩
  obtain ⟨s2, h2, b1, b2, b3, b4, b5, b6, b7, b8, b9, b10, b11⟩ := hs2
  rw [h2]
  clear h2 hb
  obtain ⟨d1, d2, d3, d4, d5, d6, d7, d8, d9, d10, d11, d12, d13, d14⟩ := s2.railUndo_spec c t n
  generalize (if t.rail = n then s2.railOff c else s2) = u at *
  refine ⟨⟨?_, ?_, ?_, ?_, ?_, ?_⟩, ?_, ?_, ?_, ?_, ?_, ?_, ?_, ?_, ?_, fun p => ?_⟩
  · intro h; simp [d11, b1, a13, h]
  · intro h; simp only [d10, d11, d12, b1, a10, h]; refine ⟨by simp, by simp, fun hr => by simp [hr]⟩
  · intro h; simp [d10, b1, a10, h]
  · intro h h'; simp [d11, b1, a13, h, h']
  · intro h
    rcases b8 h with h' | h'
    · exact .inl (d14 h')
    · right; rw [d1]; exact h'
  · intro h h'; rw [d13 h', b9 h, a2]
  · rw [d1, ← a1]; exact b7
  · rw [d8, b1, a11]
  · rw [d12, b4, a3]; split <;> omega
  · rw [d9, b1, a12]
  · rw [d2, b2, a4]
  · rw [d3, b3, a5]
  · rw [d4, b5, a6]
  · rw [d5, b6, a7]
  · rw [d6, b10, a8]
  · rw [d7, b11, a9]

theorem State.startDrain_spec (s : State) (c : CageNo) (dest : Dest) (r : Option Reason) :
    s.Draining (s.startDrain c dest r) c dest r := by
  have honly := (only c).startDrain s dest r
  revert honly
  unfold State.startDrain State.startDrainSlot
  dsimp only
  intro honly
  generalize hs0 : ((((s.stopWork c).withdrawEntry c).enter c SeqState.draining (Stage.slot (s.cage c).seq.firstDrainSlot)).modSeq c _).lpAssert c = s0 at *
  have h := (s0.modSeq c fun q =>
    { q with slot := (s.cage c).seq.firstDrainSlot, stage := .slot (s.cage c).seq.firstDrainSlot, timers := { q.timers with slot := some ⟨s0.now, q.drainTable.len⟩ } }).undoSlot_spec c (s.cage c).seq.firstDrainSlot
  generalize State.undoSlot _ c _ = u at *
  have hw := h.seq
  have ht : (s0.cage c).seq.drainTable = (s.cage c).seq.drainTable := by
    simp [← hs0, Ctx.drainTable, Ctx.entered]
  have hund := h.undone
  simp only [State.modSeq_parts] at hund hw
  refine ⟨honly, ?_, ?_, ?_, ?_, ?_, ?_, ?_, ?_, ?_⟩
  · rw [hw]; simp [← hs0, Ctx.entered]
  · rw [hw]
  · rw [hw]; simp only [ht]; simp [← hs0, Ctx.entered]
  · rw [hw]; simp [← hs0, Ctx.entered, SeqState.frees]
  · constructor
    · rw [h.lp]; simp [← hs0]
    · refine le_trans h.charge ?_
      simp [← hs0, lowPowerCharge]
  · change Cage.Undone _ _ (s0.cage c).seq.drainTable _ at hund
    rw [ht] at hund
    refine ⟨hund.reset, ?_, ?_, ?_, hund.bus, ?_⟩
    · intro hr
      refine ⟨(hund.rail hr).1, (hund.rail hr).2.1, fun hl => (hund.rail hr).2.2 ?_⟩
      simpa [← hs0] using hl
    · intro hr; rw [hund.held hr]; simp [← hs0]
    · intro hr hr'; rw [hund.kept hr hr']; simp [← hs0]
    · intro hr hr'; rw [hund.link hr hr']; simp [← hs0]
  · rw [h.queue]; simp [← hs0]
  · rw [h.image, h.profile, h.outage]; simp [← hs0]
  · rw [h.nextPoll]; simp [← hs0, SeqState.polled]

/-! ### The group feed cut -/

theorem State.cutCarried_spec (s : State) (c : CageNo) : s.PassesEnded (s.cutCarried c) c := by
  unfold State.cutCarried
  split
  · split
    · dsimp only
      split
      · refine ⟨?_, ?_, ?_, fun q => ?_⟩
        · rw [State.answer_cage]; constructor <;> rfl
        · simp [State.answer]
        · simp [State.answer]
        · rw [State.answer_list]; cases q <;> rfl
      · exact ⟨by constructor <;> rfl, rfl, rfl, fun q => by cases q <;> rfl⟩
    · exact ⟨by constructor <;> rfl, rfl, rfl, fun _ => rfl⟩
  · exact ⟨by constructor <;> rfl, rfl, rfl, fun _ => rfl⟩

theorem State.enterPowerFault_parts (s : State) (c : CageNo) (r : Reason) (stage : Stage) :
    let u := s.enterPowerFault c r stage
    (u.cage c).seq.state = .faulted ∧ (u.cage c).seq.reason = some r ∧ (u.cage c).seq.stage = stage ∧ (u.cage c).seq.timers = {} ∧
    (u.cage c).ciu = (s.cage c).ciu ∧ (u.cage c).charge = (s.cage c).charge ∧ (u.cage c).bus = (s.cage c).bus ∧
    (u.cage c).profile = (s.cage c).profile ∧ (u.cage c).image = (s.cage c).image ∧
    (u.cage c).outage = closedRecord (s.cage c).outage s.now (s.cage c).seq.retry .faulted (some r) ∧
    u.group (groupOf c) = s.group (groupOf c) ∧ u.now = s.now ∧ (∀ p, (u.port p).list = (s.port p).list) := by
  dsimp only
  refine ⟨?_, ?_, ?_, ?_, ?_, ?_, ?_, ?_, ?_, ?_, ?_, ?_, fun p => ?_⟩
  rotate_right
  · cases p <;> simp [State.enterPowerFault, State.port]
  all_goals simp [State.enterPowerFault, Ctx.entered]

/-! ### Leaving DECIDE (R59) -/

theorem State.proceed_spec (s : State) (c : CageNo) (d : Decision) (src : Source) (hp : s.Plain c)
    (hb : s.declared c ≤ (s.group (groupOf c)).budget) : s.Proceeding (s.proceed c d src) c d src := by
  have hn : ((s.cage c).seq.adopted && (s.cage c).seq.hpOn) = false := by
    rcases hp with h | h <;> simp [h]
  have hb' : ¬ (s.group (groupOf c)).budget < s.declared c := by omega
  unfold State.declared at hb'
  refine ⟨(only c).proceed s d src, ?_, ?_, ?_, ?_, ?_, ?_, ?_⟩
  all_goals
    simp [State.proceed, hn, State.enterHpWait, State.commit, State.enqueue, State.declared, hb', Ctx.entered,
      SeqState.frees, SeqState.quiets, State.newEntry, State.profile, Outage.isOpen]

theorem State.proceed_ports (s : State) (c : CageNo) (d : Decision) (src : Source) (hp : s.Plain c)
    (hb : s.declared c ≤ (s.group (groupOf c)).budget) (p : Port) : (s.proceed c d src).port p = s.port p := by
  have hn : ((s.cage c).seq.adopted && (s.cage c).seq.hpOn) = false := by
    rcases hp with h | h <;> simp [h]
  have hb' : ¬ (s.group (groupOf c)).budget < s.declared c := by omega
  unfold State.declared at hb'
  cases p <;>
    simp [State.proceed, hn, State.enterHpWait, State.commit, State.enqueue, State.declared, hb', State.port]

/-! ### An adopted module at high power (R191) -/

/-- R145: a posted access is the newest waiting item of the engine. -/
theorem State.postSeq_newest (s t : State) (c : CageNo) (a : Access) (h : (t.cage c).bus.seg = .connected)
    (hn : t.now = s.now) (he : t.elapsed = s.elapsed) : s.NewestSeq (t.postSeq c a) c (t.accessItem c a) := by
  refine ⟨?_, t.accessItem_cage c a, t.accessItem_who c a, ?_, ?_⟩
  · simp [State.postSeq, h, State.addItem, t.accessItem_cage c a]
  · cases a <;> simp [State.accessItem, readItem, writeItem, hn]
  · cases a <;> simp [State.accessItem, readItem, writeItem, he]

/-- R145: a posted access changes the context's access and the engine only. -/
theorem State.postSeq_parts (s : State) (c : CageNo) (a : Access) (h : (s.cage c).bus.seg = .connected) :
    (s.postSeq c a).cage c = { s.cage c with seq := { (s.cage c).seq with access := a } } ∧
      (∀ g, (s.postSeq c a).group g = s.group g) ∧ (∀ p, (s.postSeq c a).port p = s.port p) ∧
      (s.postSeq c a).now = s.now ∧ (s.postSeq c a).fieldMaps = s.fieldMaps := by
  refine ⟨?_, fun g => ?_, fun p => ?_, ?_, ?_⟩
  rotate_left 2
  · cases p <;> simp [State.postSeq, h, State.addItem, State.port]
  all_goals simp [State.postSeq, h, State.addItem, State.modSeq]

/-- R161: the map of a cage depends on its identity section and the table only. -/
theorem State.mapOf_congr {s t : State} {c : CageNo} (h : (t.cage c).image.identity = (s.cage c).image.identity)
    (hf : t.fieldMaps = s.fieldMaps) : t.mapOf c = s.mapOf c := by
  simp [State.mapOf, h, hf]

theorem State.parkFromDecide_hp (s : State) (c : CageNo) (r : Reason) (src : Option Source) (h : s.AtHp c) :
    s.HpDisabling (s.parkFromDecide c r src) c r src ∧ s.SameReplies (s.parkFromDecide c r src) := by
  obtain ⟨h1, h2, h3⟩ := h
  have hd : s.parkFromDecide c r src = ((((s.stopWork c).modSeq c fun q =>
      { q with stage := .hpDisable, source := src.or q.source, parkAs := some r }).writeOpen c fun o =>
      { o with source := src.or o.source }).lpAssert c).postSeq c .hpOffRead := by
    simp [State.parkFromDecide, h1, h2]
  have ho := (only c).parkFromDecide s r src
  rw [hd] at ho ⊢
  generalize ht : (((s.stopWork c).modSeq c fun q =>
      { q with stage := .hpDisable, source := src.or q.source, parkAs := some r }).writeOpen c fun o =>
      { o with source := src.or o.source }).lpAssert c = t at ho ⊢
  have hseg : (t.cage c).bus.seg = .connected := by simp [← ht, h3]
  have hn : t.now = s.now := by simp [← ht]
  have he : t.elapsed = s.elapsed := by simp [← ht]
  obtain ⟨p1, p2, p3, -, -⟩ := t.postSeq_parts c .hpOffRead hseg
  have hm : t.mapOf c = s.mapOf c := State.mapOf_congr (by simp [← ht]) (by simp [← ht])
  refine ⟨⟨ho, fun p => ?_, ?_, ?_, ?_, ?_, ?_, ?_, ?_, ?_, ?_⟩, ⟨fun p => ?_, fun p => ?_⟩⟩
  · rw [p3]; cases p <;> simp [← ht, State.port]
  · rw [p1]; simp [← ht]
  · rw [p1]; simp [← ht]
  · rw [p1]; simp [← ht]
  · rw [p1]; simp [← ht]
  · rw [p1]; simp [← ht, lowPowerCharge]
  · rw [p2]; simp [← ht, lowPowerCharge]
  · rw [p1]; simp [← ht, Outage.isOpen]
  · rw [p1]; simp [← ht]
  · refine ⟨_, s.postSeq_newest t c .hpOffRead hseg hn he, ?_, ?_, ?_⟩ <;> simp [State.accessItem, readItem, hm]
  · rw [p3]; cases p <;> simp [← ht, State.port]
  · rw [p3]; cases p <;> simp [← ht, State.port]

theorem State.proceed_hp (s : State) (c : CageNo) (src : Source) (h : s.AtHp c) :
    s.AdoptedRestores (s.proceed c .restore src) c src ∧ s.SameReplies (s.proceed c .restore src) := by
  obtain ⟨h1, h2, h3⟩ := h
  have hd : s.proceed c .restore src = ((s.commit c .restore src).enter c .configure .laneMap).postSeq c .txFirst := by
    simp [State.proceed, h1, h2, State.enterLaneMap]
  have ho := (only c).proceed s .restore src
  rw [hd] at ho ⊢
  generalize ht : (s.commit c .restore src).enter c .configure .laneMap = t at ho ⊢
  have hseg : (t.cage c).bus.seg = .connected := by simp [← ht, State.commit, h3]
  have hn : t.now = s.now := by simp [← ht, State.commit]
  have he : t.elapsed = s.elapsed := by simp [← ht, State.commit]
  obtain ⟨p1, p2, p3, -, -⟩ := t.postSeq_parts c .txFirst hseg
  have hm : t.mapOf c = s.mapOf c := State.mapOf_congr (by simp [← ht, State.commit]) (by simp [← ht, State.commit])
  refine ⟨⟨⟨ho, fun p => ?_, ?_, ?_, ?_, ?_⟩, ?_, ?_, ?_⟩, ⟨fun p => ?_, fun p => ?_⟩⟩
  · rw [p3]; cases p <;> simp [← ht, State.commit, State.port]
  · rw [p1]; simp [← ht, State.commit, Ctx.entered]
  · rw [p1]; simp [← ht, State.commit, Ctx.entered, SeqState.quiets, SeqState.frees]
  · rw [p1]; simp [← ht, State.commit, Outage.isOpen]
  · rw [p1, p2]; simp [← ht, State.commit, Ctx.entered]
  · rw [p1]; simp [← ht, State.commit, Ctx.entered]
  · rw [p1]; simp [← ht, State.commit]
  · refine ⟨_, s.postSeq_newest t c .txFirst hseg hn he, ?_, ?_, ?_⟩ <;> simp [State.accessItem, writeItem, hm]
  · rw [p3]; cases p <;> simp [← ht, State.commit, State.port]
  · rw [p3]; cases p <;> simp [← ht, State.commit, State.port]

end Sys2Proof.Machine
end

