-- ==== Sys2Proof/Laws/Cut.lean ====
section
/-! SUPPORT. What a group feed cut does to a cage (R106), by the state it finds: FAULTED with GROUP_FEED, or the end of a
drain. -/

namespace Sys2Proof.Machine

/-- An engine carries no item of a cage and holds none that waits. -/
structure Engine.Clear (e : Engine) (c : CageNo) : Prop where
  carried : e.Free c
  waiting : ∀ i ∈ e.waiting, i.cage ≠ c

/-- R154: a cancellation leaves an engine without items of a cage so. -/
theorem Engine.Clear.cancel {e : Engine} {c : CageNo} (h : e.Clear c) (d : CageNo) (w : Requester) :
    (e.cancel d w).Clear c := by
  refine ⟨fun k hk => ?_, fun i hi => h.waiting i (List.mem_of_mem_filter hi)⟩
  simp only [Engine.cancel, Option.map_eq_some_iff] at hk
  obtain ⟨x, hx, rfl⟩ := hk
  have := h.carried x hx
  split <;> exact this

/-- A change of an engine that keeps one without items of a cage so. -/
theorem State.endPass_engine (s : State) (c : CageNo) (st : ReplyStatus) (p : Port) :
    ((s.endPass c st p).engine (engineOf c)).current = (s.engine (engineOf c)).current ∧
      ∀ i, i ∈ ((s.endPass c st p).engine (engineOf c)).waiting ↔
        i ∈ (s.engine (engineOf c)).waiting ∧ i.isOf c (.port p) = false := by
  unfold State.endPass
  split
  · rw [State.answer_engine]
    simp
  · next h =>
    refine ⟨rfl, fun i => ⟨fun hi => ⟨hi, ?_⟩, fun hi => hi.1⟩⟩
    have : s.passWaits c p = false := by simpa using h
    unfold State.passWaits at this
    rw [List.any_eq_false] at this
    simpa using this i hi

/-- R106: where a cut ends the carried item and disconnects the segment, the engine has no item of the cage. -/
theorem State.disconnect_clear (s : State) (c : CageNo) (h : (s.engine (engineOf c)).Free c) :
    ((s.disconnect c).engine (engineOf c)).Clear c := by
  unfold State.disconnect State.endPasses
  generalize hb : (((s.modBus c Bus.disconnect).cancelSeq c).withdrawPoll c) = b
  have hcl : ((s.engine (engineOf c)).cancel c .seq).cancel c .poll = b.engine (engineOf c) := by
    rw [← hb]; simp [State.cancelSeq, State.withdrawPoll]
  obtain ⟨a1, a2⟩ := b.endPass_engine c .state .A
  obtain ⟨b1, b2⟩ := (b.endPass c .state .A).endPass_engine c .state .B
  refine ⟨fun k hk => ?_, fun i hi hc => ?_⟩
  · rw [b1, a1, ← hcl] at hk
    simp only [Engine.cancel, Option.map_map, Option.map_eq_some_iff] at hk
    obtain ⟨x, hx, rfl⟩ := hk
    have := h x hx
    simp only [Function.comp]
    split <;> split <;> exact this
  · rw [b2, a2, ← hcl] at hi
    obtain ⟨⟨h1, h2⟩, h3⟩ := hi
    simp only [Engine.cancel, List.mem_filter, Item.isOf, hc, decide_true, Bool.true_and, Bool.not_eq_true',
      decide_eq_false_iff_not] at h1 h2 h3
    rcases hw : i.who with _ | _ | p
    · exact h1.1.2 hw
    · exact h1.2 hw
    · cases p
      · exact h2 hw
      · exact h3 hw

theorem State.cutCarried_free (s : State) (c : CageNo) : ((s.cutCarried c).engine (engineOf c)).Free c := by
  unfold State.cutCarried
  intro k hk
  split at hk
  · next x hx =>
    split at hk
    · next hc =>
      exfalso; revert hk
      dsimp only
      split
      · rw [State.answer_engine]; simp
      · simp
    · next hc => rw [hx] at hk; cases hk; exact hc
  · next hx => rw [hx] at hk; cases hk

/-- R106: what a cut leaves before the cage goes where its state says. -/
structure State.Severed (s u : State) (c : CageNo) : Prop where
  lines : (u.cage c).ciu.lines = ⟨false, true, true⟩
  charge : (u.cage c).charge = 0
  bus : (u.cage c).bus.seg = .disconnected
  clear : (u.engine (engineOf c)).Clear c
  queue : ∀ e ∈ (u.group (groupOf c)).queue, e.cage ≠ c
  feed : (u.group (groupOf c)).feedActive = (s.group (groupOf c)).feedActive
  budget : (u.group (groupOf c)).budget = (s.group (groupOf c)).budget
  seq : (u.cage c).seq = { (s.cage c).seq with hpOn := false }
  kept : (u.cage c).outage = (s.cage c).outage ∧ (u.cage c).profile = (s.cage c).profile
  now : u.now = s.now ∧ u.elapsed = s.elapsed

theorem State.cut_severed (s : State) (c : CageNo) (hr : (s.cage c).ciu.lines.rail = true) :
    s.Severed (((((s.cutCarried c).disconnect c).withdrawEntry c).railOff c).lpAssert c) c := by
  have h1 := (s.cutCarried_spec c).trans (State.disconnect_spec (s.cutCarried c) c).1
  have h2 := (State.disconnect_spec (s.cutCarried c) c).2
  have h3 := (s.cutCarried c).disconnect_clear c (s.cutCarried_free c)
  have h4 := ((s.cutCarried_only c).trans ((only c).disconnect (s.cutCarried c))).device.elapsed
  generalize (s.cutCarried c).disconnect c = s1 at *
  refine ⟨?_, ?_, ?_, ?_, fun e he => ?_, ?_, ?_, ?_, ⟨?_, ?_⟩, ?_⟩
  · simp [h1.cage.ciu, hr]
  · simp [h1.cage.ciu, hr]
  · simp [h1.cage.ciu, hr, h2]
  · simpa using h3
  · simp [h1.cage.ciu, hr] at he
    exact he.2
  · simp [h1.group, h1.cage.ciu, hr]
  · simp [h1.group, h1.cage.ciu, hr]
  · simp [h1.cage.seq]
  · simp [h1.cage.outage]
  · simp [h1.cage.profile]
  · simp [h1.now, h4]

/-- R120: an entry that joins a queue is in it. -/
theorem mem_joinQueue (e : Entry) (q : List Entry) : e ∈ joinQueue e q := by
  induction q with
  | nil => simp [joinQueue]
  | cons x rest ih => unfold joinQueue; split <;> simp [ih]

/-- What an entry to FAULTED, EMPTY, ADMIT_WAIT or PARKED does to the cage's engine: its SEQ and POLL items are
cancelled. -/
theorem State.entry_clear (s : State) (c : CageNo) (h : (s.engine (engineOf c)).Clear c) (r : Reason) (st : Stage) :
    ((s.enterPowerFault c r st).engine (engineOf c)).Clear c ∧ ((s.enterEmpty c).engine (engineOf c)).Clear c ∧
      ((s.enterAdmit c).engine (engineOf c)).Clear c := by
  have hc := (h.cancel c .seq).cancel c .poll
  refine ⟨?_, ?_, ?_⟩
  · simpa [State.enterPowerFault, SeqState.polled] using hc
  · simpa [State.enterEmpty, SeqState.polled] using hc
  · unfold State.enterAdmit State.enqueue
    dsimp only
    split
    · simpa [State.parkNow, SeqState.polled] using (hc.cancel c .seq).cancel c .poll
    · simpa [SeqState.polled] using hc

/-- R106: a cut of a cage that is not draining to EMPTY or FAULTED leaves it FAULTED with GROUP_FEED. -/
theorem State.Severed.faults {s u : State} {c : CageNo} (h : s.Severed u c)
    (hf : (s.group (groupOf c)).feedActive = true) :
    s.FeedCut (u.enterGroupFeed c) c ∧ ((u.enterGroupFeed c).cage c).image = (u.cage c).image := by
  obtain ⟨e1, e2, e3, e4, e5, e6, e7, e8, e9, e10, e11, e12, e13⟩ := u.enterPowerFault_parts c .groupFeed .feedActive
  have hg := (u.entry_clear c h.clear .groupFeed .feedActive).1
  unfold State.enterGroupFeed
  simp only [h.feed, hf, if_true]
  refine ⟨⟨⟨?_, ?_, ?_, hg.carried, hg.waiting, fun _ => ?_, ?_⟩, ⟨e1, e2, e3⟩, e4, ?_⟩, e9⟩
  · rw [e5, h.lines]
  · rw [e6, h.charge]
  · rw [e7, h.bus]
  · rw [e11]; exact h.queue
  · rw [e8, h.kept.2]
  · rw [e10, h.kept.1, h.now.1, h.seq]

/-- Emptying the image keeps what a cut leaves. -/
theorem State.Severed.emptyImage {s u : State} {c : CageNo} (h : s.Severed u c) : s.Severed (u.emptyImage c) c := by
  obtain ⟨h1, h2, h3, h4, h5, h6, h7, h8, ⟨h9, h10⟩, h11⟩ := h
  constructor <;> simp_all

/-- Posting keeps what a cut leaves. -/
theorem State.Severed.post {s u : State} {c : CageNo} (h : s.Severed u c) (k : CageKind) : s.Severed (u.post c k) c := by
  obtain ⟨h1, h2, h3, h4, h5, h6, h7, h8, ⟨h9, h10⟩, h11⟩ := h
  constructor <;> simp_all

/-- R106: a feed cut of a cage that is not draining. -/
theorem State.cut_spec (s : State) (c : CageNo) (hr : (s.cage c).ciu.lines.rail = true)
    (hd : (s.cage c).seq.state ≠ .draining) (hf : (s.group (groupOf c)).feedActive = true) : s.FeedCut (s.cut c) c := by
  have h := s.cut_severed c hr
  unfold State.cut
  dsimp only
  generalize ((((s.cutCarried c).disconnect c).withdrawEntry c).railOff c).lpAssert c = u at *
  split
  · next hq => exact absurd hq hd
  · exact (h.faults hf).1
  · exact ((h.post _).faults hf).1

/-- R102, R106: a feed cut of a draining cage. -/
theorem State.cut_drain_spec (s : State) (c : CageNo) (hr : (s.cage c).ciu.lines.rail = true)
    (hd : (s.cage c).seq.state = .draining) (hf : (s.group (groupOf c)).feedActive = true) : s.DrainCut (s.cut c) c := by
  have h := s.cut_severed c hr
  unfold State.cut
  simp only [hd]
  generalize ((((s.cutCarried c).disconnect c).withdrawEntry c).railOff c).lpAssert c = u at *
  have hi : ((u.emptyImage c).cage c).image = Machine.emptyImage := by simp
  have he := h.emptyImage
  generalize hx : u.emptyImage c = x at *
  have hre : u.readmit c = x.enterAdmit c := by rw [← hx]; rfl
  split
  · next hq =>
    obtain ⟨k1, k2⟩ := he.faults hf
    exact ⟨k1.off, k2.trans hi, by simp [hq], by simp [hq], by simp [hq], fun _ => k1⟩
  · next hq =>
    have hud : (u.cage c).seq.dest = (s.cage c).seq.dest := by rw [h.seq]
    have hur : (u.cage c).seq.reason = (s.cage c).seq.reason := by rw [h.seq]
    have hui : (u.cage c).seq.reinsertion = (s.cage c).seq.reinsertion := by rw [h.seq]
    unfold State.endDrain
    rw [hud, hui, hur, hre, hx]
    split
    · next h' => exact absurd h' hq
    · next h' =>
      obtain ⟨e1, e2, e3, e4, e5, e6, e7, e8, e9, e10, e11, e12, e13⟩ :=
        x.enterPowerFault_parts c ((s.cage c).seq.reason.getD .railFail) .power
      have hg := (x.entry_clear c he.clear ((s.cage c).seq.reason.getD .railFail) .power).1
      refine ⟨⟨by rw [e5, he.lines], by rw [e6, he.charge], by rw [e7, he.bus], hg.carried, hg.waiting,
        fun _ => by rw [e11]; exact he.queue, by rw [e8, he.kept.2]⟩, e9.trans hi, by simp [h'], by simp [h'],
        fun r _ hr' => ?_, by simp [h']⟩
      rw [hr'] at e1 e2 e3 e10 ⊢
      exact ⟨e1, e3, e2, e10.trans (by rw [he.kept.1, he.now.1, he.seq]; rfl)⟩
    · split
      · next hrn =>
        have hg := (x.entry_clear c he.clear .railFail .power).2.2
        by_cases hb : (s.group (groupOf c)).budget < 1500
        · have hb' : (x.group (groupOf c)).budget < 1500 := by rw [he.budget]; exact hb
          have hv := x.enterAdmit_never c hb'
          refine ⟨⟨?_, ?_, ?_, hg.carried, hg.waiting, fun _ => ?_, ?_⟩, ?_, by simp [hrn], fun _ _ => ⟨fun h => ?_, fun _ => ?_⟩,
            fun r h => absurd h ‹_›, fun h => absurd h hq⟩
          · rw [hv.1.power.1, he.lines]
          · rw [hv.1.power.2, he.charge]
          · simpa [State.enterAdmit, State.enqueue, hb', lowPowerCharge, State.parkNow] using he.bus
          · rw [hv.1.group]; exact he.queue
          · rw [hv.1.kept, he.kept.2]
          · rw [hv.1.image, hi]
          · omega
          · exact ⟨hv.1.state.1, hv.1.state.2.2, by rw [hv.1.record, he.kept.1, he.now.1]⟩
        · have hb' : 1500 ≤ (x.group (groupOf c)).budget := by rw [he.budget]; omega
          have hv := x.enterAdmit_spec c hb'
          refine ⟨⟨?_, ?_, ?_, hg.carried, hg.waiting, fun h => absurd hv.state.1 h, ?_⟩, ?_, by simp [hrn],
            fun _ _ => ⟨fun _ => ?_, fun h => absurd h hb⟩, fun r h => absurd h ‹_›, fun h => absurd h hq⟩
          · rw [hv.power.1, he.lines]
          · rw [hv.power.2, he.charge]
          · have hb2 : ¬(x.group (groupOf c)).budget < 1500 := by omega
            simpa [State.enterAdmit, State.enqueue, hb2, lowPowerCharge] using he.bus
          · rw [hv.kept.1, he.kept.2]
          · rw [hv.image, hi]
          · refine ⟨hv.state.1, by rw [hv.kept.2.1, he.kept.1], ?_⟩
            have hn : s.newEntry c .lowPower 1500 = x.newEntry c .lowPower 1500 := by
              simp [State.newEntry, State.profile, he.kept.2, he.now.1, he.now.2]
            rw [hv.queued, hn]
            exact mem_joinQueue _ _
      · next hrn =>
        have hg := (x.entry_clear c he.clear .railFail .power).2.1
        have hv := x.enterEmpty_spec c
        refine ⟨⟨?_, ?_, ?_, hg.carried, hg.waiting, fun _ => ?_, ?_⟩, ?_, fun _ _ => ⟨hv.state.1, hv.cleared.2.2.2.2, ?_⟩,
          fun _ h => absurd h hrn, fun r h => absurd h ‹_›, fun h => absurd h hq⟩
        · rw [hv.kept.1, he.lines]
        · rw [hv.kept.2.1, he.charge]
        · simpa [State.enterEmpty] using he.bus
        · simpa [State.enterEmpty] using he.queue
        · rw [hv.kept.2.2, he.kept.2]
        · simpa [State.enterEmpty] using hi
        · simpa [State.enterEmpty] using he.kept.1

end Sys2Proof.Machine
end

