-- ==== Sys2Proof/Laws/Decide.lean ====
section
/-! SUPPORT. What an evaluation at DECIDE does (R54, R55, R191), and what the entries to DECIDE and LINK_WAIT do. -/

namespace Sys2Proof.Machine

/-- R182: a posting leaves every cage as it is. -/
@[simp] theorem State.post_cage (s : State) (c d : CageNo) (k : CageKind) : (s.post c k).cage d = s.cage d := rfl

/-- R121: a decision whose declared power the group's budget does not cover parks the cage with BUDGET. -/
theorem State.proceed_never (s : State) (c : CageNo) (d : Decision) (src : Source) (hp : s.Plain c)
    (hb : (s.group (groupOf c)).budget < s.declared c) :
    s.Parked (s.proceed c d src) c .budget .hpStage (some src) := by
  have hn : ((s.cage c).seq.adopted && (s.cage c).seq.hpOn) = false := by
    rcases hp with h | h <;> simp [h]
  have hb' := hb
  unfold State.declared at hb'
  refine ⟨(only c).proceed s d src, ?_, ?_, ?_, ?_, ?_, ?_, ?_, ?_, fun p => ?_⟩
  rotate_right
  · cases p <;>
      simp [State.proceed, hn, State.enterHpWait, State.commit, State.enqueue, State.declared, hb', State.parkNow, State.port]
  all_goals
    simp [State.proceed, hn, State.enterHpWait, State.commit, State.enqueue, State.declared, hb', State.parkNow, Ctx.entered,
      SeqState.frees, SeqState.quiets, SeqState.polled, Outage.isOpen, closedRecord]
  all_goals (try (split <;> simp_all))

/-- R33, R67: the window stops and the class is written before the checks are made. -/
theorem State.classed_eq (s : State) (c : CageNo) :
    (s.modTimers c fun t => { t with window := none }).recordClass c (s.classify c) = s.classed c := by
  simp [State.recordClass, State.classed, State.modTimers, State.modSeq, State.writeOpen, State.modOutage, Outage.isOpen]

/-- R60, R191: what a park from DECIDE does. -/
theorem State.parkFromDecide_spec (s : State) (c : CageNo) (r : Reason) (src : Option Source) :
    s.ParksInDecide (s.parkFromDecide c r src) c r src := by
  refine ⟨fun h => ?_, fun h => (s.parkFromDecide_hp c r src h).1⟩
  have : s.parkFromDecide c r src = s.parkNow c r .decideStage src := by
    rcases h with h | h <;> simp [State.parkFromDecide, h]
  rw [this]; exact s.parkNow_spec c r .decideStage src

/-- R55: what waiting for a decision does. -/
theorem State.waitDecision_spec (s : State) (c : CageNo) (w : Bool) :
    s.AwaitsDecision (s.waitDecision c w) c w := by
  refine ⟨(only c).waitDecision s w, fun p => ?_, ?_, ?_⟩
  · cases p <;> simp [State.waitDecision, State.port]
  · simp [State.waitDecision, State.modSeq]
  · simp [State.waitDecision]

/-- R54, R55: what an evaluation does. -/
theorem State.decideEval_spec (s : State) (c : CageNo) : s.Evaluated (s.decideEval c) c := by
  have hd : s.decideEval c = match (s.classed c).verdict c (s.classify c).1 with
    | .park r => (s.classed c).parkFromDecide c r none
    | .proceed => (s.classed c).proceed c .restore .policy
    | .waitWindow => (s.classed c).waitDecision c true
    | .wait => (s.classed c).waitDecision c false := by
    simp only [State.decideEval, State.classed_eq] <;> rfl
  have hp : (s.classed c).profile c = s.profile c := by simp [State.profile, State.classed]
  have hi : ((s.classed c).cage c).image = (s.cage c).image := by simp [State.classed]
  have hl : (s.classed c).laneCount c = s.laneCount c := by simp [State.laneCount, hi]
  have hdec : (s.classed c).declared c = s.declared c := by simp [State.declared, hi]
  have hg : (s.classed c).group (groupOf c) = s.group (groupOf c) := by simp [State.classed, State.group]
  unfold State.Evaluated
  rw [hd]
  simp only [State.verdict, hp, hi, hl, hdec, hg]
  split
  · simp [State.parkFromDecide_spec]
  split
  · simp [State.parkFromDecide_spec]
  split
  · simp [State.parkFromDecide_spec]
  rename_i h3
  have hq : (s.classed c).Restores ((s.classed c).proceed c .restore .policy) c .policy := by
    refine ⟨fun h => ?_, fun h => (State.proceed_hp _ c .policy h).1⟩
    have hb : (s.classed c).declared c ≤ ((s.classed c).group (groupOf c)).budget := by rw [hdec, hg]; omega
    exact ⟨State.proceed_spec _ c .restore .policy h hb, fun p => by rw [State.proceed_ports _ c .restore .policy h hb p]⟩
  generalize (s.classify c).1 = k
  generalize (s.profile c).policy = p
  cases k <;> cases p <;> simp [policyTable, State.waitDecision_spec, hq]

/-- R54: what the entry to DECIDE does, and then the evaluation. -/
theorem State.enterDecide_spec (t : State) (c : CageNo) :
    ∃ b, t.EntersDecide b c (t.cage c).seq { (t.cage c).image with state := .valid } ∧ b.Evaluated (t.enterDecide c) c := by
  refine ⟨(t.enter c .decide .none).modImage c fun i => { i with state := .valid }, ?_, State.decideEval_spec _ c⟩
  refine ⟨((only c).enter t _ _).trans ((only c).modImage _ _), fun p => ?_, ⟨fun p => ?_, fun p => ?_⟩, ?_, ?_, ?_, ?_⟩
  · cases p <;> simp [State.port]
  · cases p <;> simp [State.port]
  · cases p <;> simp [State.port]
  · simp [Ctx.entered, SeqState.quiets, SeqState.frees, SeqState.service]
  · simp
  · simp
  · simp [SeqState.polled]

end Sys2Proof.Machine
end

