-- ==== Sys2Proof/Laws/Link.lean ====
section
/-! SUPPORT. What the end of a restore, the entry to the polled set and the entry to LINK_WAIT do (R92, R96, R168). -/

namespace Sys2Proof.Machine

/-- R92, R96: on a segment that takes items, a restore that ends with every link up ends IN_SERVICE, with learning or
without. -/
theorem State.restoreUp_serves (s : State) (c : CageNo) (hb : (s.cage c).bus.seg = .connected) :
    ((s.restoreUp c).cage c).seq.state = .inService := by
  unfold State.restoreUp
  simp only
  generalize hg : ((((s.enter c .inService .none).modSeq c fun q =>
    { q with
      timers := { q.timers with link := none }
      reason := none
      lastKnown := some .allUp
      adopted := false }).closeRecord c .inService none).noticeRestored c) = g
  have hs : (g.cage c).seq.state = .inService ∧ (g.cage c).bus.seg = .connected := by
    rw [← hg]; simp only [State.noticeRestored]; split <;> simp [hb, Ctx.entered]
  split
  · unfold State.startLearning State.learnLane
    split
    · rw [(State.postSeq_parts _ c (.learnEq 0) (by simpa using hs.2)).1]; simp [hs.1]
    · simp [State.storeLearned, State.abandonLearning, hs.1]
  · simp [hs.1]

/-- R168: on a segment that takes items, a cage that joins the polled set takes its next poll time and gives up its
attention latch; the lists and the stream stay. -/
theorem State.joinPolls_spec (s : State) (c : CageNo) (hb : (s.cage c).bus.seg = .connected) :
    (s.joinPolls c).cage c =
        { s.cage c with
          nextPoll := some ⟨s.now, s.settings.pollInterval⟩, ciu := { (s.cage c).ciu with latch := none } } ∧
      s.SameLists (s.joinPolls c) ∧ (s.joinPolls c).lsr = s.lsr := by
  unfold State.joinPolls State.postPoll
  split
  · exact ⟨by simp [State.modCiu], fun p => by cases p <;> simp [State.port], by simp⟩
  · simp only [hb]
    exact ⟨by simp [State.modCiu, State.addItem], fun p => by cases p <;> simp [State.port, State.addItem],
      by simp [State.addItem]⟩

/-- R92, R168: on a segment that takes items, an entry to LINK_WAIT waits with its link timer in the polled set, or with
every link up ends IN_SERVICE. -/
theorem State.enterLinkWait_spec (s : State) (c : CageNo) (limit : Option Nat) (hb : (s.cage c).bus.seg = .connected) :
    (s.summary c ≠ .allUp →
      ((s.enterLinkWait c limit).cage c).seq =
          { (s.cage c).seq.entered .linkWait .none with
            timers := { link := some ⟨s.now, (s.profile c).linkTimeout * 100⟩ }
            access := .none
            retryLimit := limit } ∧
        ((s.enterLinkWait c limit).cage c).image = (s.cage c).image ∧
        ((s.enterLinkWait c limit).cage c).outage = (s.cage c).outage ∧
        ((s.enterLinkWait c limit).cage c).nextPoll = some ⟨s.now, s.settings.pollInterval⟩ ∧
        s.SameLists (s.enterLinkWait c limit)) ∧
      (s.summary c = .allUp → ((s.enterLinkWait c limit).cage c).seq.state = .inService) := by
  unfold State.enterLinkWait
  simp only
  generalize ht : ((s.enter c .linkWait .none).modSeq c fun q =>
    { q with
      timers := { link := some ⟨s.now, (s.profile c).linkTimeout * 100⟩ }
      access := .none
      retryLimit := limit }) = t
  have hbt : (t.cage c).bus.seg = .connected := by rw [← ht]; simpa using hb
  obtain ⟨j1, j2, j3⟩ := t.joinPolls_spec c hbt
  have hst : ((t.joinPolls c).cage c).seq.state = .linkWait := by rw [j1, ← ht]; simp [Ctx.entered]
  have hsum : (t.joinPolls c).summary c = s.summary c := by
    unfold State.summary State.laneCount
    rw [j1, j3, ← ht]; simp
  refine ⟨fun hx => ?_, fun hx => ?_⟩
  · have he : (t.joinPolls c).evalLink c = t.joinPolls c := by simp [State.evalLink, hst, hsum, hx]
    rw [he, j1]
    refine ⟨by rw [← ht]; simp, by rw [← ht]; simp, by rw [← ht]; simp, by rw [← ht]; simp, fun p => ?_⟩
    rw [j2 p, ← ht]; cases p <;> simp [State.port]
  · have he : (t.joinPolls c).evalLink c = (t.joinPolls c).restoreUp c := by simp [State.evalLink, hst, hsum, hx]
    rw [he]
    exact State.restoreUp_serves _ c (by rw [j1]; exact hbt)

end Sys2Proof.Machine
end

