-- ==== Sys2Proof/Laws/Requests.lean ====
section
/-! SUPPORT. What a taken command is: an event, an expiry or a request that passes the checks of R174 to R176 goes to its
meaning. -/

namespace Sys2Proof.Machine

/-! ### Events and expiries (R186, R40) -/

theorem event_awake {s : State} (h : s.inReset = false) (f : State → State) : event s f = .next (f s) := by
  simp [event, h]

theorem act_awake {s : State} (h : s.inReset = false) (f : State → State) : act s f = .next (f s).settle := by
  simp [act, event, h]

theorem expiry_due {s : State} (h : s.inReset = false) {g : Bool} (hg : g = true) (f : State → State) :
    expiry s g f = .next (f s).settle := by simp [expiry, hg, act_awake h]

theorem State.expired_due {s : State} {c : CageNo} {p : SeqState → Bool} {t : Timers → Option Timer}
    (hp : p (s.cage c).seq.state = true) (ht : Reached (t (s.cage c).seq.timers) s.now) :
    s.expired c p t = true := by
  simp [State.expired, hp, ht.due]

/-! ### Requests (R174 to R176) -/

theorem State.take_cage (s : State) (p : Port) (a b : Byte) (r : List Byte) (c : CageNo) :
    (s.take p a b r).cage c = s.cage c := by
  simp [State.take]

theorem State.take_list (s : State) (p x : Port) (a b : Byte) (r : List Byte) :
    ((s.take p a b r).port x).list = (s.port x).list := by
  cases p <;> cases x <;> rfl

/-- A request that passes checks 3 and 4 goes to its meaning. -/
theorem State.serve_takes {s : State} {q : Req} {sh : Shape} {sel n : Nat} (h : s.Takes q sel n)
    (hr : sh.right q.port = true) (hs : sh.selector.length = sel) (hb : sh.bodyLen (sel + n) = true)
    (f : State → State) : s.serve q sh f = f (s.take q.port sh.code q.target (recordOf q sh)) := by
  have h1 := h.idle
  have h2 := h.header
  have h3 := h.body
  simp [State.serve, h1, hr, lengthOk, h2, h3, hs, hb]

/-- A request that passes check 5 too goes to its meaning with its cage. -/
theorem State.serveCage_takes {s : State} {q : Req} {sh : Shape} {sel n : Nat} {c : CageNo}
    (h : s.TakesFor q sel n c) (hr : sh.right q.port = true) (hs : sh.selector.length = sel)
    (hb : sh.bodyLen (sel + n) = true) (f : CageNo → State → State) :
    s.serveCage q sh f = f c (s.take q.port sh.code q.target (recordOf q sh)) := by
  unfold State.serveCage
  rw [State.serve_takes h.takes hr hs hb]
  have ht := h.target
  have : q.target.toNat < 32 := by rw [ht]; exact c.isLt
  simp only [this, dif_pos]
  congr 1
  exact Fin.ext ht

theorem State.serveGroup_takes {s : State} {q : Req} {sh : Shape} {sel n : Nat} {g : GroupNo} (h : s.Takes q sel n)
    (ht : q.target.toNat = g.val) (hr : sh.right q.port = true) (hs : sh.selector.length = sel)
    (hb : sh.bodyLen (sel + n) = true) (f : GroupNo → State → State) :
    s.serveGroup q sh f = f g (s.take q.port sh.code q.target (recordOf q sh)) := by
  unfold State.serveGroup
  rw [State.serve_takes h hr hs hb]
  have : q.target.toNat < 8 := by rw [ht]; exact g.isLt
  simp only [this, dif_pos]
  congr 1
  exact Fin.ext ht

theorem State.serveEntry_takes {s : State} {q : Req} {sh : Shape} {sel n : Nat} {i : Fin 8} (h : s.Takes q sel n)
    (ht : q.target.toNat = i.val) (hr : sh.right q.port = true) (hs : sh.selector.length = sel)
    (hb : sh.bodyLen (sel + n) = true) (f : Fin 8 → State → State) :
    s.serveEntry q sh f = f i (s.take q.port sh.code q.target (recordOf q sh)) := by
  unfold State.serveEntry
  rw [State.serve_takes h hr hs hb]
  have : q.target.toNat < 8 := by rw [ht]; exact i.isLt
  simp only [this, dif_pos]
  congr 1
  exact Fin.ext ht

/-- A request taken and answered at once. -/
theorem State.take_answer (s : State) (q : Req) (code : Byte) (r : List Byte) (st : ReplyStatus) (d : List Byte) :
    (s.take q.port code q.target r).answer q.port st d = s.replied q code st d := by
  cases hq : q.port <;> simp [State.take, State.answer, State.replied, State.modPort, hq]

/-! ### Requests that a check refuses (R176) -/

/-- Check 3: a request of a port without the right to it is answered NOT_PERMITTED. -/
theorem State.serve_no_right {s : State} {q : Req} {sh : Shape} (hb : (s.port q.port).busy = false)
    (hr : sh.right q.port = false) (f : State → State) : s.serve q sh f = s.replied q sh.code .notPermitted [] := by
  simp [State.serve, hb, hr, State.take_answer]

/-- Check 4: a request whose body has another length than its header or its code says is answered BAD_LENGTH. -/
theorem State.serve_bad_length {s : State} {q : Req} {sh : Shape} (hb : (s.port q.port).busy = false)
    (hr : sh.right q.port = true) (hl : lengthOk q sh = false) (f : State → State) :
    s.serve q sh f = s.replied q sh.code .badLength [] := by
  simp [State.serve, hb, hr, hl, State.take_answer]

/-- A request that passes checks 3 and 4 goes to its meaning. -/
theorem State.serve_passes {s : State} {q : Req} {sh : Shape} (hb : (s.port q.port).busy = false)
    (hr : sh.right q.port = true) (hl : lengthOk q sh = true) (f : State → State) :
    s.serve q sh f = f (s.take q.port sh.code q.target (recordOf q sh)) := by
  simp [State.serve, hb, hr, hl]

/-- Check 5: a request for a cage above 31 is answered BAD_CAGE. -/
theorem State.serveCage_bad {s : State} {q : Req} {sh : Shape} (hb : (s.port q.port).busy = false)
    (hr : sh.right q.port = true) (hl : lengthOk q sh = true) (ht : 32 ≤ q.target.toNat) (f : CageNo → State → State) :
    s.serveCage q sh f = s.replied q sh.code .badCage [] := by
  simp [State.serveCage, State.serve_passes hb hr hl, Nat.not_lt.mpr ht, State.take_answer]

/-- R118, R130: a request for a group above 7 is answered BAD_REQUEST. -/
theorem State.serveGroup_bad {s : State} {q : Req} {sh : Shape} (hb : (s.port q.port).busy = false)
    (hr : sh.right q.port = true) (hl : lengthOk q sh = true) (ht : 8 ≤ q.target.toNat) (f : GroupNo → State → State) :
    s.serveGroup q sh f = s.replied q sh.code .badRequest [] := by
  simp [State.serveGroup, State.serve_passes hb hr hl, Nat.not_lt.mpr ht, State.take_answer]

/-- R162 check 1: a request for a field-map entry above 7 is answered BAD_REQUEST. -/
theorem State.serveEntry_bad {s : State} {q : Req} {sh : Shape} (hb : (s.port q.port).busy = false)
    (hr : sh.right q.port = true) (hl : lengthOk q sh = true) (ht : 8 ≤ q.target.toNat) (f : Fin 8 → State → State) :
    s.serveEntry q sh f = s.replied q sh.code .badRequest [] := by
  simp [State.serveEntry, State.serve_passes hb hr hl, Nat.not_lt.mpr ht, State.take_answer]

end Sys2Proof.Machine
end

