-- ==== Sys2Proof/Laws/Stable.lean ====
section
/-! SUPPORT. What every step keeps. A property of states that is kept across the plain updates of the part (`Stable`) is
kept by every command, and so by every step: said once here, and used for each invariant. -/

namespace Sys2Proof.Machine

/-- The parts that invariants speak of are the same: the cages, the groups, the engines, the settings, and the lists and
masks of the ports. -/
structure State.SameParts (s t : State) : Prop where
  cages : t.cages = s.cages
  groups : t.groups = s.groups
  engines : t.engines = s.engines
  settings : t.settings = s.settings
  ports : ∀ p, (t.port p).list = (s.port p).list ∧ (t.port p).cageMask = (s.port p).cageMask ∧
    (t.port p).deviceMask = (s.port p).deviceMask

/-- The state that a release of the reset is in before the groups' budgets are compared and feeds in fault cut. -/
def State.releaseBase (s : State) (cause : ResetCause) : State :=
  allGroups.foldl State.releaseGroup
    (({ s with
        cause := cause
        releaseTime := s.now
        scanCage := 0
        cages := onEach (fun (k : Cage) => k.releaseReset s.now) s.cages } : State).postDevice .restarted)

/-- A property that the plain updates of the part keep. -/
structure Stable where
  I : State → Prop
  cage : ∀ c, Closed c
  keeps : ∀ {c s t}, (cage c).To s t → I s → I t
  same : ∀ {s t}, s.SameParts t → I s → I t
  latest : ∀ s c vc ic, I s → I (s.modRlm c fun r => r.latest vc ic)
  scan : ∀ s c, I s → I (s.modCage c fun k => { k with rlm := { k.rlm with onPair := k.ciu.lines.rail } })
  judged : ∀ s c vc power margin, (s.cage c).ciu.lines.rail = true → I s →
    I (s.modRlm c fun _ => ((s.cage c).rlm.judge vc power margin).rlm)
  basisDue : ∀ s c now, I s → I (s.modRlm c fun r => r.basisDue now)
  replace : ∀ s c body new, profileOf body = some new → I s → I (s.modProfile c fun old => old.replace new.clamp)
  invalidate : ∀ s c, I s → I (s.modProfile c Profile.invalidate)
  group : ∀ s g f, (∀ x, (f x).committed = x.committed ∧ (f x).budget = x.budget) → I s → I (s.modGroup g f)
  budget : ∀ s g v, I s → I (s.modGroup g fun x => { x with budget := (storeBudget v).1 })
  carry : ∀ s e f, (∀ k, (f k).item = k.item) → I s → I (s.modCarry e f)
  pass : ∀ s i, I s → I (s.addItem i)
  start : ∀ s e i, i ∈ (s.engine e).waiting → (s.engine e).current = none → I s → I (s.startItem e i)
  putDown : ∀ s e k o, (s.engine e).current = some k → I s → I (s.putDown e k o)
  fetch : ∀ s p l, l <:+ (s.port p).list → I s → I (s.modPort p fun x => { x with list := l })
  masks : ∀ s p (c : BitVec 16) (d : Byte), I s →
    I (s.modPort p fun x => { x with cageMask := c &&& cageMaskBits, deviceMask := d &&& deviceMaskBits })
  deviceSpacing : ∀ s v, I s → I (s.modSettings fun x => { x with deviceSpacing := storedSetting 1 255 1 v })
  groupSpacing : ∀ s v, I s → I (s.modSettings fun x => { x with groupSpacing := storedSetting 1 255 1 v })
  debounce : ∀ s v, I s → I (s.modSettings fun x => { x with debounce := storedSetting 1 255 1 v })
  pollInterval : ∀ s v, I s → I (s.modSettings fun x => { x with pollInterval := storedSetting 10 2550 10 v })
  reseatWindow : ∀ s v, I s → I (s.modSettings fun x => { x with reseatWindow := storedSetting 1 3600 1 v })
  poweredOn : ∀ s, I s → I s.poweredOn
  assertReset : ∀ s, I s → I s.assertReset
  release : ∀ s cause, I s → I (s.releaseBase cause)

/-- The property passes from `s` to `t`. -/
def Stable.Pass (S : Stable) (s t : State) : Prop := S.I s → S.I t

theorem Stable.Pass.trans {S : Stable} {s t u : State} (a : S.Pass s t) (b : S.Pass t u) : S.Pass s u :=
  fun h => b (a h)

theorem Stable.refl (S : Stable) (s : State) : S.Pass s s := fun h => h

theorem Stable.Pass.ite {S : Stable} {s t u : State} {p : Prop} [Decidable p] (a : S.Pass s t) (b : S.Pass s u) :
    S.Pass s (if p then t else u) := by
  split
  · exact a
  · exact b

/-- The property passes to every next state of an outcome. -/
def Stable.Ends (S : Stable) (s : State) (o : Out) : Prop := ∀ t, o = .next t → S.Pass s t

theorem Stable.next (S : Stable) {s t : State} (h : S.Pass s t) : S.Ends s (.next t) := by
  rintro u ⟨⟩
  exact h

theorem Stable.on (S : Stable) {c : CageNo} {s t : State} (h : (S.cage c).To s t) : S.Pass s t := S.keeps h

theorem Stable.each (S : Stable) (f : CageNo → State → State) (h : ∀ c s, S.Pass s (f c s)) (l : List CageNo)
    (s : State) : S.Pass s (s.each l f) := by
  induction l generalizing s with
  | nil => exact S.refl s
  | cons c l ih => exact (h c s).trans (ih _)

theorem Stable.foldGroups (S : Stable) (f : State → GroupNo → State) (h : ∀ s g, S.Pass s (f s g)) (l : List GroupNo)
    (s : State) : S.Pass s (l.foldl f s) := by
  induction l generalizing s with
  | nil => exact S.refl s
  | cons g l ih => exact (h s g).trans (ih _)

/-! ### Engines -/

theorem mem_of_earliest {l : List Item} {i : Item} (h : earliest l = some i) : i ∈ l := by
  cases l with
  | nil => simp [earliest] at h
  | cons a l =>
    simp only [earliest, Option.some.injEq] at h
    have key : ∀ (l : List Item) (b : Item),
        l.foldl (fun best j => if j.joined = best.joined ∧ j.cage < best.cage then j else best) b ∈ b :: l := by
      intro l
      induction l with
      | nil => simp
      | cons x l ih =>
        intro b
        rw [List.foldl_cons]
        rcases List.mem_cons.mp (ih (if x.joined = b.joined ∧ x.cage < b.cage then x else b)) with h | h
        · rw [h]
          split <;> simp
        · exact List.mem_cons_of_mem _ (List.mem_cons_of_mem _ h)
    rw [← h]
    exact key l a

/-- R155: an engine starts one of the items it was offered. -/
theorem mem_of_chooseItem {now : Stamp} {last : Option Port} {l : List Item} {i : Item}
    (h : chooseItem now last l = some i) : i ∈ l := by
  have sub : ∀ w, ∀ x, earliest (l.filter fun i => decide (i.who = w)) = some x → x ∈ l := fun w x hx =>
    (List.mem_filter.mp (mem_of_earliest hx)).1
  unfold chooseItem at h
  simp only [Option.or_eq_some_iff] at h
  rcases h with h | ⟨-, h | ⟨-, h | ⟨-, h⟩⟩⟩
  · exact sub _ _ h
  · exact (List.mem_filter.mp (List.mem_filter.mp (mem_of_earliest h)).1).1
  · unfold choosePass at h
    split at h <;> rcases Option.or_eq_some_iff.mp h with h | ⟨-, h⟩ <;> exact sub _ _ h
  · exact sub _ _ h

theorem Stable.chooseNext (S : Stable) (s : State) (e : EngineNo) : S.Pass s (s.chooseNext e) := by
  unfold State.chooseNext
  split
  · exact S.refl s
  · next hc =>
    split
    · next i hi => exact S.start s e i (List.mem_filter.mp (mem_of_chooseItem hi)).1 hc
    · exact S.refl s

theorem Stable.chooseAll (S : Stable) (s : State) : S.Pass s s.chooseAll := by
  unfold State.chooseAll
  generalize allEngines = l
  induction l generalizing s with
  | nil => exact S.refl s
  | cons e l ih => exact (S.chooseNext s e).trans (ih _)

theorem Stable.answer (S : Stable) (s : State) (p : Port) (st : ReplyStatus) (data : List Byte) :
    S.Pass s (s.answer p st data) := by
  refine S.same ⟨?_, ?_, ?_, ?_, fun q => ?_⟩
  rotate_right
  · unfold State.answer
    rw [State.modPort_port]
    split
    · next h => subst h; split <;> exact ⟨rfl, rfl, rfl⟩
    · exact ⟨rfl, rfl, rfl⟩
  all_goals simp [State.answer]

theorem Stable.handOver (S : Stable) (s : State) (k : Carry) (o : Ending) : S.Pass s (s.handOver k o) := by
  cases hw : k.item.who with
  | port p =>
    simp only [State.handOver, hw]
    exact S.answer s p _ _
  | seq => exact S.on ((S.cage k.item.cage).handOver s k o rfl (by simp [hw]))
  | poll => exact S.on ((S.cage k.item.cage).handOver s k o rfl (by simp [hw]))

theorem Stable.endItem (S : Stable) (s : State) (e : EngineNo) (o : Ending) : S.Pass s (s.endItem e o) := by
  unfold State.endItem
  split
  · exact S.refl s
  · next k hk =>
    exact (Stable.Pass.trans (fun h => S.putDown s e k o hk h) (S.handOver _ k o)).trans
      (S.on ((S.cage k.item.cage).drainRelease _))

theorem Stable.modCarry (S : Stable) (s : State) (e : EngineNo) (f : Carry → Carry)
    (h : ∀ k, (f k).item = k.item) : S.Pass s (s.modCarry e f) := S.carry s e f h

theorem Stable.setCarry (S : Stable) (s : State) (e : EngineNo) (k : Carry) (hk : (s.engine e).current = some k)
    (k' : Carry) (h : k'.item = k.item) : S.Pass s (s.modCarry e fun _ => k') := by
  have hs : (s.modCarry e fun _ => k') = s.modCarry e fun x => if x.item = k.item then k' else x := by
    have hc : s.engines[e.val].current = some k := hk
    simp [State.modCarry, State.modEngine, hc]
  rw [hs]
  refine S.carry s e _ fun x => ?_
  split
  · next hx => rw [h, hx]
  · rfl

theorem Stable.burstsDone (S : Stable) (s : State) (e : EngineNo) (k : Carry) : S.Pass s (s.burstsDone e k) := by
  unfold State.burstsDone
  split
  · exact S.modCarry s e _ fun _ => rfl
  · exact S.endItem s e _

theorem Stable.burstDone (S : Stable) (s : State) (e : EngineNo) (k : Carry) (data : List Byte)
    (hk : (s.engine e).current = some k) : S.Pass s (s.burstDone e k data) := by
  unfold State.burstDone
  dsimp only
  split
  · exact .ite (S.setCarry s e k hk _ rfl) (S.setCarry s e k hk _ rfl)
  · refine Stable.Pass.trans ?_ (S.burstsDone _ e _)
    exact S.setCarry s e k hk _ rfl

theorem Stable.transactionDone (S : Stable) (s : State) (e : EngineNo) (data : List Byte) :
    S.Pass s (s.transactionDone e data) := by
  unfold State.transactionDone
  split
  · exact S.refl s
  · next k hk =>
    refine .ite (.ite (S.endItem s e _) ?_) (S.refl s)
    split
    · exact (S.on ((S.cage k.item.cage).modBus s _)).trans (S.modCarry _ e _ fun _ => rfl)
    · exact .ite (S.burstDone s e k data hk) (S.refl s)
    · exact S.endItem s e _

theorem Stable.transactionFailed (S : Stable) (s : State) (e : EngineNo) (k : Carry) :
    S.Pass s (s.transactionFailed e k) := by
  unfold State.transactionFailed
  split
  · exact (S.endItem s e _).trans (S.on ((S.cage k.item.cage).modBus _ _))
  · exact S.endItem s e _
  · exact S.endItem s e _

theorem Stable.addressNacked (S : Stable) (s : State) (e : EngineNo) : S.Pass s (s.addressNacked e) := by
  unfold State.addressNacked
  split
  · exact S.refl s
  · exact .ite (.ite (S.endItem s e _) (.ite (S.transactionFailed s e _) (S.modCarry s e _ fun _ => rfl))) (S.refl s)

theorem Stable.retryBurst (S : Stable) (s : State) (e : EngineNo) : S.Pass s (s.retryBurst e) := by
  unfold State.retryBurst
  split
  · exact S.refl s
  · split
    · exact S.refl s
    · exact .ite (.ite (S.endItem s e _) (S.modCarry s e _ fun _ => rfl)) (S.refl s)

theorem Stable.dataNacked (S : Stable) (s : State) (e : EngineNo) : S.Pass s (s.dataNacked e) := by
  unfold State.dataNacked
  split
  · exact S.refl s
  · exact .ite (.ite (S.endItem s e _) (S.transactionFailed s e _)) (S.refl s)

theorem Stable.stick (S : Stable) (s : State) (e : EngineNo) : S.Pass s (s.stick e) := by
  unfold State.stick
  split
  · exact S.refl s
  · next k hk =>
    split
    · exact S.refl s
    · refine .ite ?_ (S.refl s)
      refine Stable.Pass.trans (fun h => S.putDown s e k .busStuck hk h) ?_
      refine ((S.on ((S.cage k.item.cage).modBus _ fun b => { b with seg := .stuck, recovery := true })).trans
        (S.handOver _ k .busStuck)).trans ?_
      exact S.on (c := k.item.cage) (((((S.cage k.item.cage).endPasses _ _).trans
        ((S.cage k.item.cage).stickPoll _)).trans ((S.cage k.item.cage).stickSeq _)).trans
        ((S.cage k.item.cage).drainRelease _))

theorem Stable.endAtBoundary (S : Stable) (s : State) (e : EngineNo) : S.Pass s (s.endAtBoundary e) := by
  unfold State.endAtBoundary
  split
  · exact S.refl s
  · exact .ite (S.endItem s e _) (S.refl s)

theorem Stable.holdOver (S : Stable) (s : State) (c : CageNo) : S.Pass s (s.holdOver c) := by
  unfold State.holdOver State.resumeWrite
  refine (S.on ((S.cage c).modBus s fun b =>
    { b with hold := if dueTimer b.hold s.now then none else b.hold })).trans ?_
  dsimp only
  split
  · exact S.refl _
  · exact .ite (.ite (S.endItem _ _ _) (S.modCarry _ _ _ fun _ => rfl)) (S.refl _)

/-! ### The end of a step -/

theorem Stable.takeHead (S : Stable) (s : State) (g : GroupNo) : S.Pass s (s.takeHead g) := by
  unfold State.takeHead
  have h : S.Pass s (s.modGroup g fun x => { x with queue := x.queue.tail, last := .active s.now }) :=
    S.group s g _ fun _ => ⟨rfl, rfl⟩
  exact h.trans (S.same ⟨rfl, rfl, rfl, rfl, fun p => by cases p <;> exact ⟨rfl, rfl, rfl⟩⟩)

theorem Stable.grantLow (S : Stable) (s : State) (g : GroupNo) (c : CageNo) : S.Pass s (s.grantLow g c) := by
  unfold State.grantLow
  refine (S.takeHead s g).trans (S.on (c := c) ?_)
  exact (((((S.cage c).setCharge _ _).trans ((S.cage c).modSeq _ _)).trans ((S.cage c).enter _ _ _)).trans
    ((S.cage c).railOn _)).trans ((S.cage c).lpAssert _)

theorem Stable.grantHigh (S : Stable) (s : State) (g : GroupNo) (c : CageNo) (n : Nat) :
    S.Pass s (s.grantHigh g c n) := by
  unfold State.grantHigh
  refine (S.takeHead s g).trans (S.on (c := c) ?_)
  exact ((((S.cage c).setCharge _ _).trans ((S.cage c).lpRelease _)).trans ((S.cage c).enter _ _ _)).trans
    ((S.cage c).postSeq _ _)

theorem Stable.pauTest (S : Stable) (s : State) : S.Pass s s.pauTest := by
  unfold State.pauTest
  split
  · unfold State.grant
    split
    · exact S.grantLow s _ _
    · exact S.grantHigh s _ _ _
  · exact S.refl s

theorem Stable.settle (S : Stable) (s : State) : S.Pass s s.settle := (S.pauTest s).trans (S.chooseAll _)

/-! ### Outcomes -/

theorem Stable.event (S : Stable) (s : State) (f : State → State) (h : S.Pass s (f s)) : S.Ends s (event s f) := by
  unfold Machine.event
  exact S.next (.ite (S.refl s) h)

theorem Stable.act (S : Stable) (s : State) (f : State → State) (h : S.Pass s (f s)) : S.Ends s (act s f) :=
  S.event s _ (h.trans (S.settle _))

theorem Stable.expiry (S : Stable) (s : State) (g : Bool) (f : State → State) (h : S.Pass s (f s)) :
    S.Ends s (expiry s g f) := by
  unfold Machine.expiry
  split
  · exact S.act s f h
  · exact S.next (S.refl s)

/-- An expiry of a cage's timer. -/
theorem Stable.cageExpiry (S : Stable) (s : State) (g : Bool) (c : CageNo) (f : State → State)
    (h : (S.cage c).To s (f s)) : S.Ends s (Machine.expiry s g f) := S.expiry s g f (S.on h)

/-! ### Requests -/

theorem Stable.overrun (S : Stable) (s : State) (p : Port) : S.Pass s (s.overrun p) :=
  S.on ((S.cage 0).postDeviceTo s p _)

theorem Stable.take (S : Stable) (s : State) (p : Port) (a b : Byte) (raw : List Byte) :
    S.Pass s (s.take p a b raw) := by
  refine S.same ⟨?_, ?_, ?_, ?_, fun q => ?_⟩
  rotate_right
  · cases p <;> cases q <;> exact ⟨rfl, rfl, rfl⟩
  all_goals simp [State.take]

theorem Stable.done (S : Stable) (s : State) (p : Port) (st : ReplyStatus) (data : List Byte) :
    S.Pass s (s.done p st data) := (S.answer s p st data).trans (S.settle _)

theorem Stable.serve (S : Stable) (s : State) (q : Req) (sh : Shape) (f : State → State)
    (h : ∀ s, S.Pass s (f s)) : S.Pass s (s.serve q sh f) := by
  unfold State.serve
  refine .ite (S.overrun s _) ?_
  exact (S.take s _ _ _ _).trans (.ite (S.answer _ _ _ _) (.ite (S.answer _ _ _ _) (h _)))

theorem Stable.serveCage (S : Stable) (s : State) (q : Req) (sh : Shape) (f : CageNo → State → State)
    (h : ∀ c s, S.Pass s (f c s)) : S.Pass s (s.serveCage q sh f) :=
  S.serve s q sh _ fun s => by
    split
    · exact h _ s
    · exact S.answer s _ _ _

theorem Stable.serveGroup (S : Stable) (s : State) (q : Req) (sh : Shape) (f : GroupNo → State → State)
    (h : ∀ c s, S.Pass s (f c s)) : S.Pass s (s.serveGroup q sh f) :=
  S.serve s q sh _ fun s => by
    split
    · exact h _ s
    · exact S.answer s _ _ _

theorem Stable.serveEntry (S : Stable) (s : State) (q : Req) (sh : Shape) (f : Fin 8 → State → State)
    (h : ∀ c s, S.Pass s (f c s)) : S.Pass s (s.serveEntry q sh f) :=
  S.serve s q sh _ fun s => by
    split
    · exact h _ s
    · exact S.answer s _ _ _

/-- A request that only reads. -/
theorem Stable.reads (S : Stable) (s : State) (q : Req) (sh : Shape) (st : ReplyStatus)
    (data : CageNo → State → List Byte) :
    S.Ends s (Machine.event s fun s => s.serveCage q sh fun c s => s.answer q.port st (data c s)) :=
  S.event s _ (S.serveCage s q sh _ fun _ s => S.answer s _ _ _)

/-- An operation on a cage and its answer. -/
theorem Stable.doneAt (S : Stable) {c : CageNo} {s t : State} (h : (S.cage c).To s t) (p : Port) (st : ReplyStatus)
    (data : List Byte) : S.Pass s (t.done p st data) := (S.on h).trans (S.done t p st data)

theorem Stable.writeProfile (S : Stable) (s : State) (p : Port) (body : List Byte) (c : CageNo) :
    S.Pass s (s.writeProfile p body c) := by
  unfold State.writeProfile
  split
  · exact S.answer s _ _ _
  · next new hn =>
    refine .ite (S.answer s _ _ _) (.ite (S.answer s _ _ _) ?_)
    exact Stable.Pass.trans (fun h => S.replace s c _ new hn h) (S.doneAt ((S.cage c).profileChanged _ p) _ _ _)

theorem Stable.invalidated (S : Stable) (s : State) (p : Port) (body : List Byte) (c : CageNo) :
    S.Pass s (s.invalidate p body c) := by
  unfold State.invalidate
  refine .ite (S.answer s _ _ _) (.ite (S.answer s _ _ _) ?_)
  exact Stable.Pass.trans (fun h => S.invalidate s c h) (S.doneAt ((S.cage c).profileChanged _ p) _ _ _)

theorem Stable.clearFault (S : Stable) (s : State) (p : Port) (c : CageNo) : S.Pass s (s.clearFault p c) := by
  unfold State.clearFault
  exact .ite (.ite (S.answer s _ _ _) (S.doneAt ((S.cage c).readmit s) _ _ _))
    (.ite (S.doneAt ((S.cage c).startDrain s _ _) _ _ _) (S.answer s _ _ _))

theorem Stable.postPass (S : Stable) (s : State) (i : Item) : S.Pass s (s.postPass i) :=
  Stable.Pass.trans (fun h => S.pass s i h) (S.settle _)

theorem Stable.moduleRead (S : Stable) (s : State) (p : Port) (body : List Byte) (c : CageNo) :
    S.Pass s (s.moduleRead p body c) := by
  unfold State.moduleRead
  exact .ite (S.answer s _ _ _) (.ite (S.answer s _ _ _) (.ite (S.answer s _ _ _) (.ite (S.answer s _ _ _)
    (.ite (S.answer s _ _ _) (S.postPass s _)))))

theorem Stable.moduleWrite (S : Stable) (s : State) (p : Port) (body : List Byte) (c : CageNo) :
    S.Pass s (s.moduleWrite p body c) := by
  unfold State.moduleWrite
  exact .ite (S.answer s _ _ _) (.ite (S.answer s _ _ _) (.ite (S.answer s _ _ _) (.ite (S.answer s _ _ _)
    (S.postPass s _))))

theorem Stable.loadMap (S : Stable) (s : State) (p : Port) (body : List Byte) (i : Fin 8) :
    S.Pass s (s.loadMap p body i) := by
  unfold State.loadMap
  split
  · exact S.answer s _ _ _
  · refine .ite (S.answer s _ _ _) (.ite (S.answer s _ _ _) (.ite (S.answer s _ _ _) ?_))
    refine Stable.Pass.trans ?_ (S.done _ _ _ _)
    unfold State.storeMap
    dsimp only
    refine Stable.Pass.trans ?_ (S.each _ (fun c s => S.on ((S.cage c).resume s)) _ _)
    exact S.same ⟨rfl, rfl, rfl, rfl, fun q => by cases q <;> exact ⟨rfl, rfl, rfl⟩⟩

theorem Stable.setBudget (S : Stable) (s : State) (p : Port) (body : List Byte) (g : GroupNo) :
    S.Pass s (s.setBudget p body g) := by
  unfold State.setBudget State.changeBudget
  refine Stable.Pass.trans ?_ (S.done _ _ _ _)
  dsimp only
  have hb : S.Pass s (s.modGroup g fun x => { x with budget := (storeBudget (num16 body 0)).1 }) := S.budget s g _
  refine hb.trans ?_
  refine Stable.Pass.trans ?_ ((S.each _ (fun c s => S.on ((S.cage c).resume s)) _ _).trans
    (S.on ((S.cage 0).overcommit _ g)))
  generalize (s.group g).queue = l
  generalize (s.modGroup g fun x => { x with budget := (storeBudget (num16 body 0)).1 }) = s1
  induction l generalizing s1 with
  | nil => exact S.refl _
  | cons e l ih => exact (S.on ((S.cage e.cage).neverFit s1 g e rfl)).trans (ih _)

theorem Stable.fetched (S : Stable) (s : State) (p : Port) : S.Pass s (s.fetch p) := by
  unfold State.fetch
  split
  · exact S.answer s _ _ _
  · next a rest h =>
    exact Stable.Pass.trans (fun hi => S.fetch s p rest (h ▸ List.suffix_cons a rest) hi) (S.answer _ _ _ _)

/-! ### Resets -/

theorem Stable.releaseReset (S : Stable) (s : State) (cause : ResetCause) : S.Pass s (s.releaseReset cause) := by
  have h : s.releaseReset cause =
      allGroups.foldl State.releaseCuts (allGroups.foldl State.overcommit (s.releaseBase cause)) := rfl
  rw [h]
  refine Stable.Pass.trans (fun hi => S.release s cause hi) ?_
  refine (S.foldGroups _ (fun s g => S.on ((S.cage 0).overcommit s g)) _ _).trans (S.foldGroups _ (fun s g => ?_) _ _)
  unfold State.releaseCuts
  exact .ite (S.each _ (fun c s => .ite (S.on ((S.cage c).cut s)) (S.refl s)) _ _) (S.refl s)

/-! ### The rail monitor and the link stream -/

theorem Stable.lsr (S : Stable) (s : State) (l : Lsr) : S.Pass s { s with lsr := l } :=
  S.same ⟨rfl, rfl, rfl, rfl, fun p => by cases p <;> exact ⟨rfl, rfl, rfl⟩⟩

theorem Stable.advanceScan (S : Stable) (s : State) : S.Pass s s.advanceScan :=
  Stable.Pass.trans (t := { s with scanCage := nextCage s.scanCage })
    (S.same ⟨rfl, rfl, rfl, rfl, fun p => by cases p <;> exact ⟨rfl, rfl, rfl⟩⟩) (S.scan _ _)

theorem Stable.evaluatePair (S : Stable) (s : State) (c : CageNo) (vc ic : BitVec 10)
    (h : (s.cage c).ciu.lines.rail = true) : S.Pass s (s.evaluatePair c vc ic) := by
  unfold State.evaluatePair
  dsimp only
  have hj := fun hi => S.judged s c vc (pairPower vc ic) (s.profile c).overdraw h hi
  refine Stable.Pass.trans hj ?_
  generalize (s.modRlm c fun _ => ((s.cage c).rlm.judge vc (pairPower vc ic) (s.profile c).overdraw).rlm) = s1
  generalize (s.cage c).rlm.judge vc (pairPower vc ic) (s.profile c).overdraw = j
  refine Stable.Pass.trans (t := if j.good then s1.powerGood c else s1)
    (.ite (S.on ((S.cage c).powerGood _)) (S.refl _)) ?_
  generalize (if j.good then s1.powerGood c else s1) = s2
  split
  · exact S.on ((S.cage c).powerFault _ _)
  · exact S.refl _

theorem Stable.pairDone (S : Stable) (s : State) (vc ic : BitVec 10) : S.Pass s (s.pairDone vc ic) := by
  unfold State.pairDone
  dsimp only
  have hl : S.Pass s (s.modRlm s.scanCage fun r => r.latest vc ic) := S.latest s s.scanCage vc ic
  refine (hl.trans ?_).trans (S.advanceScan _)
  split
  · next hr =>
    refine S.evaluatePair _ _ vc ic ?_
    have hrail := (Bool.and_eq_true_iff.mp hr).2
    simpa [State.modRlm] using hrail
  · exact S.refl _

theorem Stable.evalEach (S : Stable) (l : List CageNo) (s : State) : S.Pass s (s.each l fun c s => s.evalLink c) :=
  S.each _ (fun c s => S.on ((S.cage c).evalLink s)) l s

theorem Stable.frameClosed (S : Stable) (s : State) (run : List Bool) : S.Pass s (s.frameClosed run) := by
  unfold State.frameClosed
  refine .ite (.ite ?_ ?_) (S.refl _)
  · unfold State.frameLive
    exact (S.lsr _ _).trans (S.evalEach _ _)
  · unfold State.frameStale
    exact ((S.lsr _ _).trans (S.on ((S.cage 0).postDevice _ _))).trans (S.evalEach _ _)

theorem Stable.marker (S : Stable) (s : State) (bits : List Bool) : S.Pass s (s.marker bits) := by
  unfold State.marker
  dsimp only
  refine (S.lsr s { s.lsr with reception := some [] }).trans ?_
  split
  · exact S.refl _
  · exact S.frameClosed _ _

theorem Stable.streamLost (S : Stable) (s : State) : S.Pass s s.streamLost := by
  unfold State.streamLost
  exact ((S.lsr s _).trans (S.on ((S.cage 0).postDevice _ _))).trans (S.evalEach _ _)

/-! ### Feeds and settings -/

theorem Stable.feedChange (S : Stable) (s : State) (g : GroupNo) (b : Bool) (f : State → State)
    (h : ∀ s, S.Pass s (f s)) : S.Ends s (feedChange g b f s) := by
  have hp : S.Pass s (s.modGroup g fun x => { x with feedPin := b }) := S.group s g _ fun _ => ⟨rfl, rfl⟩
  unfold Machine.feedChange
  dsimp only
  split
  · exact S.next (S.refl s)
  · split
    · exact S.next hp
    · exact S.next ((hp.trans (h _)).trans (S.settle _))

theorem Stable.setTiming (S : Stable) (s : State) (q : Req) (sel lo hi step : Nat) (f : Nat → State → State)
    (h : ∀ v s, S.Pass s (f (storedSetting lo hi step v) s)) : S.Pass s (s.setTiming q sel lo hi step f) :=
  (h _ s).trans (S.done _ _ _ _)

/-! ### Every command -/

/-- Every command keeps the property. -/
theorem Stable.exec (S : Stable) (i : Instr) (s : State) : S.Ends s (exec i s) := by
  cases i <;> unfold Machine.exec <;> dsimp only
  case powerOn => exact S.next (S.poweredOn s)
  case resetPinAssert =>
    refine S.next (.ite (S.refl s) (Stable.Pass.trans (S.assertReset s) ?_))
    exact S.same ⟨rfl, rfl, rfl, rfl, fun p => by cases p <;> exact ⟨rfl, rfl, rfl⟩⟩
  case resetPinRelease =>
    refine S.next (.ite (Stable.Pass.trans ?_ (S.settle _)) (S.refl s))
    refine Stable.Pass.trans ?_ (S.releaseReset { s with inReset := false } .resetPin)
    exact S.same ⟨rfl, rfl, rfl, rfl, fun p => by cases p <;> exact ⟨rfl, rfl, rfl⟩⟩
  case restart q =>
    refine S.event s _ (S.serve s q _ _ fun s => ?_)
    exact Stable.Pass.trans (Stable.Pass.trans (S.assertReset s) (S.releaseReset _ _)) (S.settle _)
  case presentLineChange c l =>
    refine S.next (.ite (S.refl s) (.ite (S.on ((S.cage c).modCiu s _ fun _ => rfl)) (S.on ((S.cage c).modCiu s _ ?_))))
    intro k
    unfold Ciu.rawChange
    split
    · rfl
    · split <;> rfl
  case candidateAccepted c =>
    unfold execCandidateAccepted
    split
    · exact S.act s _ (S.on ((S.cage c).acceptDue s))
    · exact S.next (S.refl s)
  case settleIntervalEnd c =>
    unfold execSettleIntervalEnd
    split
    · exact S.act s _ (S.on ((S.cage c).endSettle s))
    · exact S.next (S.refl s)
  case attentionEdge c l =>
    have h : S.Pass s (s.modCiu c fun k => { k with attentionPin := l }) :=
      S.on ((S.cage c).modCiu s (fun k => { k with attentionPin := l }) fun _ => rfl)
    unfold execAttentionEdge
    dsimp only
    split
    · exact S.next h
    · split
      · exact S.next ((h.trans (S.on ((S.cage c).latchEdge _))).trans (S.settle _))
      · exact S.next h
  case lowPowerGrant g =>
    unfold execLowPowerGrant
    split
    · exact S.act s _ (S.grantLow s g _)
    · exact S.next (S.refl s)
  case highPowerGrant g =>
    unfold execHighPowerGrant
    split
    · exact S.act s _ (S.grantHigh s g _ _)
    · exact S.next (S.refl s)
  case spacingBoundReached => exact S.event s _ (S.settle s)
  case inrushRecordLapse r =>
    cases r with
    | none => exact S.next (S.same ⟨rfl, rfl, rfl, rfl, fun p => by cases p <;> exact ⟨rfl, rfl, rfl⟩⟩)
    | some g => exact S.next (S.group s g _ fun _ => ⟨rfl, rfl⟩)
  case groupFeedFaultActive g =>
    refine S.feedChange s g true _ fun s => ?_
    have h : S.Pass s (s.modGroup g fun x => { x with feedActive := true }) := S.group s g _ fun _ => ⟨rfl, rfl⟩
    exact h.trans (S.each _ (fun c s => S.on ((S.cage c).feedFault s)) _ _)
  case groupFeedFaultInactive g =>
    refine S.feedChange s g false _ fun s => ?_
    have h : S.Pass s (s.modGroup g fun x => { x with feedActive := false }) := S.group s g _ fun _ => ⟨rfl, rfl⟩
    exact h.trans (S.each _ (fun c s => S.on ((S.cage c).startFeedClear s)) _ _)
  case bringUpSlotStart c => exact S.expiry s _ _ (S.on ((S.cage c).slotOver s))
  case powerGoodLimitExpiry c => exact S.expiry s _ _ (S.on ((S.cage c).powerFault s _))
  case adoptionPgLimitExpiry c => exact S.expiry s _ _ (S.on ((S.cage c).adoptionLimit s))
  case seqPollTimerExpiry c => exact S.expiry s _ _ (S.on ((S.cage c).pollDue s))
  case initTimerExpiry c => exact S.expiry s _ _ (S.on ((S.cage c).moduleFault s _))
  case adoptionInitTimeout c => exact S.expiry s _ _ (S.on ((S.cage c).moduleFault s _))
  case decisionWindowExpiry c => exact S.expiry s _ _ (S.on ((S.cage c).windowOver s))
  case hpSettleTimeout c => exact S.expiry s _ _ (S.on ((S.cage c).moduleFault s _))
  case hostSideWindowExpiry c => exact S.expiry s _ _ (S.on ((S.cage c).hostSideOver s))
  case linkTimerExpiry c => exact S.expiry s _ _ (S.on ((S.cage c).linkExpired s))
  case blankingWindowEnd c =>
    refine S.event s _ ?_
    split
    · exact .ite (S.on ((S.cage c).modSeq s _)) (S.refl s)
    · exact S.refl s
  case drainSlotStart c => exact S.expiry s _ _ (S.on ((S.cage c).nextDrainSlot s))
  case drainEnd c => exact S.expiry s _ _ (S.on ((S.cage c).endDrain s))
  case feedClearTimerExpiry c => exact S.expiry s _ _ (S.on ((S.cage c).readmit s))
  case readProfile q => exact S.reads s q _ _ _
  case writeProfile q => exact S.event s _ (S.serveCage s q _ _ fun c s => S.writeProfile s _ _ c)
  case invalidateProfile q => exact S.event s _ (S.serveCage s q _ _ fun c s => S.invalidated s _ _ c)
  case decideRestore q =>
    exact S.event s _ (S.serveCage s q _ _ fun c s =>
      .ite (.ite (S.doneAt ((S.cage c).proceed s _ _) _ _ _) (S.answer s _ _ _)) (S.answer s _ _ _))
  case decideAdoptNew q =>
    exact S.event s _ (S.serveCage s q _ _ fun c s =>
      .ite (S.doneAt ((S.cage c).proceed s _ _) _ _ _) (S.answer s _ _ _))
  case decidePark q =>
    exact S.event s _ (S.serveCage s q _ _ fun c s =>
      .ite (S.doneAt ((S.cage c).parkFromDecide s _ _) _ _ _) (S.answer s _ _ _))
  case release q =>
    exact S.event s _ (S.serveCage s q _ _ fun c s =>
      .ite (S.doneAt ((S.cage c).resume s) _ _ _) (S.answer s _ _ _))
  case hostSideDone q =>
    exact S.event s _ (S.serveCage s q _ _ fun c s =>
      .ite (S.doneAt ((S.cage c).enterDatapath s) _ _ _) (S.answer s _ _ _))
  case clearFault q => exact S.event s _ (S.serveCage s q _ _ fun c s => S.clearFault s _ c)
  case resetCageResequence q =>
    exact S.event s _ (S.serveCage s q _ _ fun c s =>
      .ite (S.doneAt ((S.cage c).resequence s) _ _ _) (S.answer s _ _ _))
  case resetCageReidentify q =>
    exact S.event s _ (S.serveCage s q _ _ fun c s =>
      .ite (S.doneAt ((S.cage c).reidentify s) _ _ _) (S.answer s _ _ _))
  case resetCagePowerCycle q =>
    exact S.event s _ (S.serveCage s q _ _ fun c s =>
      .ite (S.doneAt ((S.cage c).powerCycle s) _ _ _) (S.answer s _ _ _))
  case readStatus q => exact S.reads s q _ _ _
  case readImageIdentity q => exact S.reads s q _ _ _
  case readImageApplied q => exact S.reads s q _ _ _
  case readImageStatus q => exact S.reads s q _ _ _
  case readOutage q => exact S.reads s q _ _ _
  case readGroup q => exact S.event s _ (S.serveGroup s q _ _ fun _ s => S.answer s _ _ _)
  case moduleRead q => exact S.event s _ (S.serveCage s q _ _ fun c s => S.moduleRead s _ _ c)
  case moduleWrite q => exact S.event s _ (S.serveCage s q _ _ fun c s => S.moduleWrite s _ _ c)
  case loadFieldMap q => exact S.event s _ (S.serveEntry s q _ _ fun i s => S.loadMap s _ _ i)
  case readFieldMap q => exact S.event s _ (S.serveEntry s q _ _ fun _ s => S.answer s _ _ _)
  case fetchAttention q => exact S.event s _ (S.serve s q _ _ fun s => S.fetched s _)
  case setMask q =>
    exact S.event s _ (S.serve s q _ _ fun s =>
      Stable.Pass.trans (S.masks s q.port _ _) (S.answer _ _ _ _))
  case setBudget q => exact S.event s _ (S.serveGroup s q _ _ fun g s => S.setBudget s _ _ g)
  case setTimingDeviceSpacing q =>
    exact S.event s _ (S.serve s q _ _ fun s => S.setTiming s q _ _ _ _ _ fun v s => S.deviceSpacing s v)
  case setTimingGroupSpacing q =>
    exact S.event s _ (S.serve s q _ _ fun s => S.setTiming s q _ _ _ _ _ fun v s => S.groupSpacing s v)
  case setTimingDebounceTime q =>
    exact S.event s _ (S.serve s q _ _ fun s => S.setTiming s q _ _ _ _ _ fun v s =>
      Stable.Pass.trans (S.debounce s v) (S.each _ (fun c s => S.on ((S.cage c).acceptDue s)) _ _))
  case setTimingPollInterval q =>
    exact S.event s _ (S.serve s q _ _ fun s => S.setTiming s q _ _ _ _ _ fun v s => S.pollInterval s v)
  case setTimingReseatWindow q =>
    exact S.event s _ (S.serve s q _ _ fun s => S.setTiming s q _ _ _ _ _ fun v s => S.reseatWindow s v)
  case readDevice q => exact S.event s _ (S.serve s q _ _ fun s => S.answer s _ _ _)
  case unknownRequest p raw =>
    exact S.event s _ (.ite (S.refl s) (.ite (S.overrun s p) ((S.take s _ _ _ _).trans (S.answer _ _ _ _))))
  case portOverrun p => exact S.event s _ (.ite (S.overrun s p) (S.refl s))
  case busTransactionComplete e data => exact S.act s _ (S.transactionDone s e data)
  case addressNack e => exact S.act s _ (S.addressNacked s e)
  case nackRetryExpiry e => exact S.act s _ (S.retryBurst s e)
  case dataNack e => exact S.act s _ (S.dataNacked s e)
  case clockHeldLow e =>
    exact S.event s _ (S.modCarry s e _ fun k => by split <;> rfl)
  case clockReleased e => exact S.event s _ (S.modCarry s e _ fun _ => rfl)
  case stuckLimitExpiry e => exact S.act s _ (S.stick s e)
  case holdOffExpiry c => exact S.act s _ (S.holdOver s c)
  case pairComplete vc ic => exact S.act s _ (S.pairDone s vc ic)
  case pendingBasisDue c => exact S.event s _ (S.basisDue s c s.now)
  case linkStreamFrame bits => exact S.act s _ (S.marker s bits)
  case streamStaleTimeout => exact S.expiry s _ _ (S.streamLost s)
  case nextPollTimeReached c => exact S.expiry s _ _ (S.on ((S.cage c).pollTimeReached s))
  case itemEndAtByteBoundary e => exact S.act s _ (S.endAtBoundary s e)
  case linkStreamRunDiscard => exact S.event s _ (S.lsr s _)
  case decideBadDecision q => exact S.event s _ (S.serveCage s q _ _ fun _ s => S.answer s _ _ _)
  case resetCageBadScope q => exact S.event s _ (S.serveCage s q _ _ fun _ s => S.answer s _ _ _)
  case readImageBadSection q => exact S.event s _ (S.serveCage s q _ _ fun _ s => S.answer s _ _ _)
  case setTimingBadSelector q => exact S.event s _ (S.serve s q _ _ fun s => S.answer s _ _ _)

/-- Every step keeps the property. -/
theorem Stable.step (S : Stable) (s t : State) (hs : S.I s) (h : Machine.step s = .next t) : S.I t := by
  unfold Machine.step at h
  have same : ∀ u : State, s.SameParts u → S.I u := fun u hu => S.same hu hs
  split at h
  · cases h
    exact same _ ⟨rfl, rfl, rfl, rfl, fun p => by cases p <;> exact ⟨rfl, rfl, rfl⟩⟩
  · exact S.exec _ _ t h (same _ ⟨rfl, rfl, rfl, rfl, fun p => by cases p <;> exact ⟨rfl, rfl, rfl⟩⟩)

end Sys2Proof.Machine
end

