-- ==== Sys2Proof/Tests/Slice0.lean ====
section
/-! SUPPORT. Tests: which terms the well-formedness check refuses, how written transactions are read, one or two steps of
each command against the values the manual states, and for every statement of the obligations a state and operands that
meet its hypotheses, at the ends of their ranges. -/

namespace Sys2Proof.Tests

open Sys2Proof.Machine

set_option maxRecDepth 20000

/-! ### Helpers -/

/-- The part at 1000 ms with cage 0 changed. -/
def cage0 (f : Cage → Cage) : State := { State.reset.modCage 0 f with now := 1000 }

/-- Cage 0 with its sequencer context changed. -/
def ctx0 (f : Ctx → Ctx) : State := cage0 fun k => { k with seq := f k.seq }

/-- Cage 0 present, powered and out of module reset, its segment CONNECTED, with its context changed. -/
def live0 (f : Ctx → Ctx) : State :=
  (cage0 fun k =>
    { k with
      ciu := { k.ciu with presence := .present, presentPin := true, lines := ⟨true, false, true⟩ }
      charge := 1500
      bus := { k.bus with seg := .connected }
      rlm := k.rlm.railOn 1500
      seq := f k.seq }).modGroup 0 fun g => { g with committed := 1500 }

/-- Cage 0 powered and in a state. -/
def live (st : SeqState) : State := live0 fun q => { q with state := st }

/-- A timer of 10 ms whose limit is reached at 1000 ms, and one that lacks a millisecond. -/
def due : Timer := ⟨990, 10⟩
def early : Timer := ⟨991, 10⟩

/-- A request as a master writes it, `sel` being 1 for a row that stands for a selector byte. -/
def ask (p : Port) (target : Byte) (sel : Nat) (body : List Byte) : Req :=
  ⟨p, target, BitVec.ofNat 16 (sel + body.length), body⟩

/-- What a command leaves. -/
def leaves (i : Instr) (s : State) (p : State → Bool) : Bool :=
  match exec i s with
  | .next t => p t
  | _ => false

/-- A port whose reply slot is PENDING. -/
def pendingB (s : State) (code : Byte) : State := s.modPort .B fun x => { x with reply := .pending code 0 }

/-- A passthrough read of port B for cage 0, and a write. -/
def readB : Item := ⟨0, 0, 9, 4, false, [], .port .B, 1000, false, 1000⟩
def writeB : Item := ⟨0, 0, 86, 2, true, [1, 2], .port .B, 1000, false, 1000⟩

/-- An item being carried in its bursts. -/
def carryOf (i : Item) : Carry := ⟨i, none, builtinMap61, .burst, [], 0, 0, none, none, none, false, false⟩

/-- Engine 0 carrying an item of cage 0 for port B. -/
def carrying (k : Carry) : State :=
  (pendingB (live .inService) 0x0D).modEngine 0 fun g => { g with current := some k, selected := some 0 }

/-! ### Well-formedness -/

theorem test_wf_burst : Instr.wf (.busTransactionComplete 0 (List.replicate 9 0)) = false := by decide
theorem test_wf_stream : Instr.wf (.linkStreamFrame (List.replicate 257 true)) = false := by decide
theorem test_wf_known_code : Instr.wf (.unknownRequest .A [0x16, 0, 0, 0]) = false := by decide
theorem test_wf_no_bytes : Instr.wf (.unknownRequest .A []) = false := by decide
theorem test_wf_decision : Instr.wf (.decideBadDecision (ask .A 0 0 [2])) = false := by decide
theorem test_wf_scope : Instr.wf (.resetCageBadScope (ask .A 0 0 [0])) = false := by decide
theorem test_wf_section : Instr.wf (.readImageBadSection (ask .A 0 0 [1])) = false := by decide
theorem test_wf_selector : Instr.wf (.setTimingBadSelector (ask .B 0 0 [4, 0, 0])) = false := by decide
theorem test_wf_accepts :
    (Instr.wf (.unknownRequest .A [0x17, 0, 0, 0]) && Instr.wf (.unknownRequest .A [1, 0, 0]) &&
      Instr.wf (.decideBadDecision (ask .A 0 0 [3])) && Instr.wf (.setTimingBadSelector (ask .B 0 0 []))) = true := by
  decide

/-! ### Transactions (R174, R177, R185) -/

theorem test_read_set_budget :
    decodeTransaction .B [0x13, 2, 0, 2, 0x4E, 0x20] = some (.setBudget ⟨.B, 2, 2, [0x4E, 0x20]⟩) := by decide
theorem test_read_decide_park : decodeTransaction .A [4, 31, 0, 1, 2] = some (.decidePark ⟨.A, 31, 1, []⟩) := by decide
theorem test_read_bad_scope :
    decodeTransaction .A [8, 5, 0, 1, 3] = some (.resetCageBadScope ⟨.A, 5, 1, [3]⟩) := by decide
theorem test_read_timing :
    decodeTransaction .B [0x14, 0, 0, 3, 4, 0x01, 0x2C] = some (.setTimingReseatWindow ⟨.B, 0, 3, [1, 0x2C]⟩) := by decide
theorem test_read_unknown : decodeTransaction .A [0x17, 0, 0, 0] = some (.unknownRequest .A [0x17, 0, 0, 0]) := by decide
theorem test_read_short : decodeTransaction .A [9, 0, 0] = some (.unknownRequest .A [9, 0, 0]) := by decide
theorem test_read_probe : decodeTransaction .A [] = none := by decide
theorem test_no_table_word : decodeTableWord 8 1 = none := by decide

/-! ### Resets -/

theorem test_power_on :
    leaves .powerOn { State.reset with settings := ⟨1, 1, 1, 10, 1⟩, now := 5 } (fun t =>
      decide (t.settings = ⟨4, 20, 20, 100, 300⟩ ∧ t.now = 0)) = true := by decide
theorem test_reset_assert :
    leaves .resetPinAssert (live .inService) (fun t =>
      decide (t.inReset = true ∧ (t.cage 0).ciu.presence = .unsettled ∧ (t.cage 0).ciu.lines.rail = true)) = true := by
  decide
theorem test_reset_release :
    leaves .resetPinRelease { live .empty with inReset := true } (fun t =>
      decide ((t.cage 0).seq.state = .adopting ∧ (t.cage 0).rlm.basis = some 18000 ∧ t.cause = .resetPin)) = true := by
  decide
theorem test_restart :
    leaves (.restart (ask .B 0 0 [])) (live .inService) (fun t =>
      decide (t.portB.reply = .idle ∧ t.cause = .restart ∧ (t.cage 0).charge = 1500)) = true := by decide

/-! ### Presence and attention -/

theorem test_present_line :
    leaves (.presentLineChange 0 true) (cage0 id) (fun t => decide ((t.cage 0).ciu.candidate = some ⟨true, 1000⟩)) =
      true := by decide
theorem test_candidate_accepted :
    leaves (.candidateAccepted 0) (cage0 fun k => { k with ciu := { k.ciu with
        presentPin := true, candidate := some ⟨true, 980⟩ } }) (fun t =>
      decide ((t.cage 0).ciu.presence = .present ∧ (t.cage 0).outage.insertion = some 980 ∧
        (t.cage 0).seq.state = .powering)) = true := by decide
theorem test_candidate_early :
    leaves (.candidateAccepted 0) (cage0 fun k => { k with ciu := { k.ciu with
        presentPin := true, candidate := some ⟨true, 981⟩ } }) (fun t => decide ((t.cage 0).ciu.presence = .absent)) =
      true := by decide
theorem test_settle_end :
    leaves (.settleIntervalEnd 0) (cage0 fun k => { k with
        ciu := { k.ciu with settle := some 980, presence := .unsettled }, seq := clearCtx .adopting }) (fun t =>
      decide ((t.cage 0).ciu.presence = .absent ∧ (t.cage 0).seq.state = .empty)) = true := by decide
theorem test_attention :
    leaves (.attentionEdge 0 true) (live .hpWait) (fun t => decide ((t.cage 0).ciu.latch = some 1000)) = true := by decide

/-! ### Power admission -/

/-- A group queue with one entry for cage 0. -/
def queued (s : State) (k : QueueKind) (mw : Nat) : State :=
  s.modGroup 0 fun g => { g with queue := [⟨0, k, mw, 0, 990, 990⟩] }

/-- Cage 0 waiting for low power, and cage 0 waiting for 7500 mW. -/
def lowWait : State := queued (cage0 fun k => { k with seq := clearCtx .admitWait }) .lowPower 1500
def highWait : State := queued (live .hpWait) .highPower 7500

theorem test_low_grant :
    leaves (.lowPowerGrant 0) lowWait (fun t =>
      decide ((t.cage 0).ciu.lines = ⟨true, true, true⟩ ∧ (t.cage 0).charge = 1500 ∧ (t.group 0).committed = 1500)) =
      true := by decide
theorem test_high_grant :
    leaves (.highPowerGrant 0) highWait (fun t =>
      decide ((t.cage 0).ciu.lines.lp = false ∧ (t.cage 0).charge = 7500 ∧ (t.group 0).committed = 7500)) = true := by
  decide
theorem test_spacing_reached :
    leaves .spacingBoundReached (lowWait.modGroup 0 fun g => { g with last := .active 980 }) (fun t =>
      decide ((t.cage 0).seq.state = .powering)) = true := by decide
theorem test_spacing_early :
    leaves .spacingBoundReached (lowWait.modGroup 0 fun g => { g with last := .active 981 }) (fun t =>
      decide ((t.cage 0).seq.state = .admitWait)) = true := by decide
theorem test_inrush_lapse :
    leaves (.inrushRecordLapse none) { State.reset with now := 1000, deviceLast := .active 745 } (fun t =>
      decide (t.deviceLast = .lapsed 745)) = true := by decide
theorem test_feed_active :
    leaves (.groupFeedFaultActive 0) (live .inService) (fun t =>
      decide ((t.cage 0).ciu.lines = ⟨false, true, true⟩ ∧ (t.cage 0).seq.reason = some .groupFeed)) = true := by decide
theorem test_feed_inactive :
    leaves (.groupFeedFaultInactive 0)
      ((ctx0 fun q => { q with state := .faulted, reason := some .groupFeed }).modGroup 0 fun g =>
        { g with feedPin := true, feedActive := true }) (fun t =>
      decide ((t.cage 0).seq.timers.feedClear = some ⟨1000, 1000⟩)) = true := by decide

/-! ### Timers of the sequencer -/

/-- A context with one set of timers. -/
def timed (st : SeqState) (t : Timers) : State := live0 fun q => { q with state := st, timers := t }

theorem test_slot_start :
    leaves (.bringUpSlotStart 0) (live0 fun q => { q with
        state := .powering, table := some ⟨0, 1, 3, 4, 4⟩, pgHeld := true, timers := { slot := some due } }) (fun t =>
      decide ((t.cage 0).seq.slot = 1 ∧ (t.cage 0).seq.timers.slot = some ⟨1000, 4⟩)) = true := by decide
theorem test_pg_limit :
    leaves (.powerGoodLimitExpiry 0) (timed .powering { pgLimit := some ⟨950, 50⟩ }) (fun t =>
      decide ((t.cage 0).seq.state = .draining ∧ (t.cage 0).seq.reason = some .railFail)) = true := by decide
theorem test_adoption_limit :
    leaves (.adoptionPgLimitExpiry 0) (timed .adopting { pgLimit := some ⟨950, 50⟩ }) (fun t =>
      decide ((t.cage 0).seq.dest = some .faulted)) = true := by decide
theorem test_poll_timer :
    leaves (.seqPollTimerExpiry 0) (live0 fun q => { q with
        state := .identify, access := .ident, timers := { poll := some due } }) (fun t =>
      decide (((t.engine 0).current.map fun k => k.item.who) = some .seq)) = true := by decide
theorem test_init_timer :
    leaves (.initTimerExpiry 0) (timed .identify { init := some due }) (fun t =>
      decide ((t.cage 0).seq.reason = some .notReady ∧ (t.cage 0).ciu.lines.reset = true)) = true := by decide
theorem test_adoption_init :
    leaves (.adoptionInitTimeout 0) (timed .adopting { init := some due }) (fun t =>
      decide ((t.cage 0).seq.state = .faulted)) = true := by decide
theorem test_init_early :
    leaves (.initTimerExpiry 0) (timed .identify { init := some early }) (fun t =>
      decide ((t.cage 0).seq.state = .identify)) = true := by decide
theorem test_window_expiry :
    leaves (.decisionWindowExpiry 0) (timed .decide { window := some due }) (fun t =>
      decide ((t.cage 0).seq.state = .parked ∧ (t.cage 0).seq.source = some .fallback)) = true := by decide
theorem test_hp_settle :
    leaves (.hpSettleTimeout 0) (timed .configure { settle := some due }) (fun t =>
      decide ((t.cage 0).seq.reason = some .hpTimeout)) = true := by decide
theorem test_host_side :
    leaves (.hostSideWindowExpiry 0) (timed .configure { hostSide := some due }) (fun t =>
      decide ((t.cage 0).seq.stage = .datapathEnable)) = true := by decide
theorem test_link_timer :
    leaves (.linkTimerExpiry 0) (timed .linkWait { link := some due }) (fun t =>
      decide ((t.cage 0).seq.state = .degraded ∧ (t.cage 0).seq.reason = some .streamLost)) = true := by decide
theorem test_blanking_end :
    leaves (.blankingWindowEnd 0) (live0 fun q => { q with blank := some ⟨0, 0, 1000⟩ }) (fun t =>
      decide ((t.cage 0).seq.blank = none)) = true := by decide
theorem test_drain_slot :
    leaves (.drainSlotStart 0) (live0 fun q => { q with
        state := .draining, slot := 4, timers := { slot := some due } }) (fun t =>
      decide ((t.cage 0).seq.slot = 3 ∧ (t.cage 0).ciu.lines.reset = true)) = true := by decide
theorem test_drain_end :
    leaves (.drainEnd 0) (live0 fun q => { q with
        state := .draining, dest := some .empty, timers := { slot := some due } }) (fun t =>
      decide ((t.cage 0).seq.state = .empty)) = true := by decide
theorem test_feed_clear :
    leaves (.feedClearTimerExpiry 0) (ctx0 fun q => { q with
        state := .faulted, reason := some .groupFeed, timers := { feedClear := some ⟨0, 1000⟩ } }) (fun t =>
      decide ((t.cage 0).seq.state = .powering)) = true := by decide

/-! ### Requests -/

theorem test_read_profile :
    leaves (.readProfile (ask .A 0 0 [])) (cage0 id) (fun t =>
      match t.portA.reply with
      | .answered .ok 1 0 d => decide (d.length = 128 ∧ d.take 10 = [0, 0, 0, 0, 1, 30, 1, 0, 7, 0])
      | _ => false) = true := by decide
theorem test_write_profile_stale :
    leaves (.writeProfile (ask .A 0 0 ([0, 9] ++ builtinProfile.bytes false))) (cage0 id) (fun t =>
      decide (t.portA.reply = .answered .stale 2 0 [0, 0])) = true := by decide
theorem test_write_profile :
    leaves (.writeProfile (ask .A 0 0 ([0, 0] ++ builtinProfile.bytes false))) (cage0 id) (fun t =>
      decide (t.portA.reply = .answered .ok 2 0 [0, 1] ∧ (t.cage 0).profile.valid = true)) = true := by decide
theorem test_invalidate :
    leaves (.invalidateProfile (ask .A 0 0 [0, 0])) (cage0 id) (fun t =>
      decide (t.portA.reply = .answered .ok 3 0 [0, 1])) = true := by decide
theorem test_decide_not_waiting :
    leaves (.decideRestore (ask .A 0 1 [])) (cage0 id) (fun t =>
      decide (t.portA.reply = .answered .notWaiting 4 0 [])) = true := by decide
theorem test_decide_adopt :
    leaves (.decideAdoptNew (ask .B 0 1 [])) (live0 fun q => { q with state := .decide, stage := .noWindow }) (fun t =>
      decide ((t.cage 0).seq.decision = some .adoptNew ∧ (t.cage 0).seq.source = some .portB ∧
        (t.cage 0).seq.learnPending = true)) = true := by decide
theorem test_decide_park :
    leaves (.decidePark (ask .A 0 1 [])) (live0 fun q => { q with state := .decide, stage := .window }) (fun t =>
      decide ((t.cage 0).seq.state = .parked ∧ (t.cage 0).seq.reason = some .master)) = true := by decide
theorem test_release :
    leaves (.release (ask .A 0 0 [])) (live0 fun q => { q with state := .parked, reason := some .noFieldMap }) (fun t =>
      decide ((t.cage 0).seq.stage = .find ∧ (t.cage 0).seq.timers.init = some ⟨1000, 2000⟩)) = true := by decide
theorem test_host_side_done :
    leaves (.hostSideDone (ask .A 0 0 [])) (live0 fun q => { q with state := .configure, stage := .hostSide }) (fun t =>
      decide ((t.cage 0).seq.stage = .datapathEnable)) = true := by decide
theorem test_clear_fault :
    leaves (.clearFault (ask .A 0 0 [])) (live0 fun q => { q with state := .faulted, reason := some .railFail })
      (fun t => decide (t.portA.reply = .answered .notPermitted 7 0 [])) = true := by decide
theorem test_resequence :
    leaves (.resetCageResequence (ask .A 0 1 [])) (live .inService) (fun t =>
      decide ((t.cage 0).seq.stage = .laneMap ∧ (t.cage 0).seq.inUse = true)) = true := by decide
theorem test_reidentify :
    leaves (.resetCageReidentify (ask .A 0 1 [])) (live .inService) (fun t =>
      decide ((t.cage 0).seq.stage = .find ∧ (t.cage 0).image.state = .identifying)) = true := by decide
theorem test_power_cycle :
    leaves (.resetCagePowerCycle (ask .A 0 1 [])) (live .inService) (fun t =>
      decide ((t.cage 0).seq.dest = some .admitWait)) = true := by decide
theorem test_read_outage :
    leaves (.readOutage (ask .A 0 0 [])) (cage0 id) (fun t =>
      decide (t.portA.reply = .answered .ok 0x0B 0 (List.replicate 27 0))) = true := by decide
theorem test_read_image :
    leaves (.readImageStatus (ask .A 0 1 [])) (cage0 id) (fun t =>
      decide (t.portA.reply = .answered .ok 0x0A 0 ([0, 0, 0, 0, 0, 0, 2] ++ List.replicate 9 0))) = true := by decide
theorem test_read_group :
    leaves (.readGroup (ask .A 0 0 [])) (cage0 id) (fun t =>
      match t.portA.reply with
      | .answered .ok 0x0C 0 d => decide (d.take 4 = [0x4E, 0x20, 0, 0])
      | _ => false) = true := by decide
theorem test_module_read_flag :
    leaves (.moduleRead (ask .A 0 0 [0, 0, 1, 2])) (live .inService) (fun t =>
      decide (t.portA.reply = .answered .badRequest 0x0D 0 [])) = true := by decide
theorem test_module_write_length :
    leaves (.moduleWrite (ask .A 0 0 [0, 127, 1, 2])) (live .inService) (fun t =>
      decide (t.portA.reply = .answered .badLength 0x0E 0 [])) = true := by decide
theorem test_load_map :
    leaves (.loadFieldMap (ask .B 2 0 (builtinMap61.bytes))) (cage0 id) (fun t =>
      decide (t.portB.reply = .answered .duplicate 0x0F 2 [])) = true := by decide
theorem test_read_map :
    leaves (.readFieldMap (ask .B 7 0 [])) (cage0 id) (fun t =>
      decide (t.portB.reply = .answered .ok 0x10 7 [0])) = true := by decide
theorem test_fetch :
    leaves (.fetchAttention (ask .B 0 0 [])) (cage0 id) (fun t =>
      decide (t.portB.reply = .answered .ok 0x11 0 [32, 0, 0x10, 0, 0] ∧ t.portB.list = [])) = true := by decide
theorem test_set_mask :
    leaves (.setMask (ask .A 0 0 [0xFF, 0xFF, 0xFF])) (cage0 id) (fun t =>
      decide (t.portA.reply = .answered .ok 0x12 0 [0x0F, 0xFF, 0x1F])) = true := by decide
theorem test_set_budget :
    leaves (.setBudget (ask .B 0 0 [0x4E, 0x21])) (cage0 id) (fun t =>
      decide (t.portB.reply = .answered .clamped 0x13 0 [0x4E, 0x20])) = true := by decide
theorem test_set_poll_interval :
    leaves (.setTimingPollInterval (ask .B 0 1 [0, 15])) (cage0 id) (fun t =>
      decide (t.portB.reply = .answered .clamped 0x14 0 [3, 0, 10] ∧ t.settings.pollInterval = 10)) = true := by decide
theorem test_set_debounce :
    leaves (.setTimingDebounceTime (ask .B 0 1 [0, 5])) (cage0 fun k => { k with ciu := { k.ciu with
        presentPin := true, candidate := some ⟨true, 990⟩ } }) (fun t =>
      decide ((t.cage 0).ciu.presence = .present)) = true := by decide
theorem test_unknown :
    leaves (.unknownRequest .A [0x17, 5, 0, 0]) (cage0 id) (fun t =>
      decide (t.portA.reply = .answered .badRequest 0x17 5 [])) = true := by decide
theorem test_overrun :
    leaves (.portOverrun .B) (pendingB (cage0 id) 0x0D) (fun t =>
      decide ((t.portB.list.map fun a => a.kinds) = [0x0014] ∧ t.portB.reply = .pending 0x0D 0)) = true := by decide

/-! ### Module buses -/

theorem test_bus_read :
    leaves (.busTransactionComplete 0 [1, 2, 3, 4]) (carrying (carryOf readB)) (fun t =>
      decide (t.portB.reply = .answered .ok 0x0D 0 [1, 2, 3, 4] ∧ (t.engine 0).selected = none)) = true := by decide
theorem test_address_nack :
    leaves (.addressNack 0) (carrying { carryOf readB with attempts := 2 }) (fun t =>
      decide (t.portB.reply = .answered .noResponse 0x0D 0 [])) = true := by decide
theorem test_nack_retry :
    leaves (.nackRetryExpiry 0) (carrying { carryOf readB with pause := some 999 }) (fun t =>
      decide (((t.engine 0).current.map fun k => k.pause) = some none)) = true := by decide
theorem test_data_nack :
    leaves (.dataNack 0) (carrying (carryOf writeB)) (fun t =>
      decide (t.portB.reply = .answered .noResponse 0x0D 0 [])) = true := by decide
theorem test_clock_low :
    leaves (.clockHeldLow 0) (carrying (carryOf readB)) (fun t =>
      decide (((t.engine 0).current.map fun k => k.clockLow) = some (some 1000))) = true := by decide
theorem test_stuck :
    leaves (.stuckLimitExpiry 0) (carrying { carryOf readB with clockLow := some 974 }) (fun t =>
      decide ((t.cage 0).bus.seg = .stuck ∧ t.portB.reply = .answered .busStuck 0x0D 0 [])) = true := by decide
theorem test_stuck_early :
    leaves (.stuckLimitExpiry 0) (carrying { carryOf readB with clockLow := some 975 }) (fun t =>
      decide ((t.cage 0).bus.seg = .connected)) = true := by decide
theorem test_item_absent :
    leaves (.itemEndAtByteBoundary 0) (carrying { carryOf readB with ending := true }) (fun t =>
      decide (t.portB.reply = .answered .absent 0x0D 0 [])) = true := by decide

/-! ### Rail monitor, link stream, polls -/

theorem test_pair_good :
    leaves (.pairComplete 785 100) ((live .powering).modRlm 0 fun r => { r with onPair := true }) (fun t =>
      decide ((t.cage 0).rlm.pg = .good ∧ (t.cage 0).rlm.power = some 1570 ∧ t.scanCage = 1)) = true := by decide
theorem test_pair_low :
    leaves (.pairComplete 784 100) ((live .powering).modRlm 0 fun r => { r with onPair := true }) (fun t =>
      decide ((t.cage 0).rlm.pg = .notYet)) = true := by decide
theorem test_basis_due :
    leaves (.pendingBasisDue 0) ((live .hpWait).modRlm 0 fun r => { r with pending := some ⟨1500, 950⟩ }) (fun t =>
      decide ((t.cage 0).rlm.basis = some 1500 ∧ (t.cage 0).rlm.pending = none)) = true := by decide
theorem test_stream_stale :
    leaves .streamStaleTimeout { State.reset with
        now := 1000, lsr := ⟨true, some 1, some 1, some 950, some []⟩ } (fun t => decide (t.lsr.accepted = none)) =
      true := by decide
theorem test_stream_discard :
    leaves .linkStreamRunDiscard { State.reset with lsr := ⟨false, none, none, none, some [true]⟩ } (fun t =>
      decide (t.lsr.reception = none)) = true := by decide
theorem test_poll_time :
    leaves (.nextPollTimeReached 0) ((live .inService).modCage 0 fun k => { k with nextPoll := some ⟨900, 100⟩ })
      (fun t => decide ((t.cage 0).nextPoll = some ⟨1000, 100⟩)) = true := by decide

/-! ### Hypotheses met: steps and resets

Each theorem below shows a state and operands that meet the hypotheses of a statement, or of one of its clauses. -/

theorem takes {s : State} {q : Req} {sel n : Nat}
    (h : s.inReset = false ∧ (s.port q.port).busy = false ∧ q.len.toNat = sel + n ∧ q.body.length = n) :
    s.Takes q sel n := ⟨h.1, h.2.1, h.2.2.1, h.2.2.2⟩

theorem takesFor {s : State} {q : Req} {sel n : Nat} {c : CageNo}
    (h : (s.inReset = false ∧ (s.port q.port).busy = false ∧ q.len.toNat = sel + n ∧ q.body.length = n) ∧
      q.target.toNat = c.val) : s.TakesFor q sel n c := ⟨takes h.1, h.2⟩

/-- The part held in reset, and a part with two commands waiting. -/
def held : State := { live .empty with inReset := true }
def busy : State := { live .inService with pending := [.presentLineChange 31 true, .powerOn] }

theorem meets_step : busy.pending = .presentLineChange 31 true :: [.powerOn] := rfl
theorem meets_idle : (live .inService).pending = [] := rfl
theorem meets_assert : (live .inService).inReset = false ∧ held.inReset = true := by decide
theorem meets_release :
    held.inReset = true ∧ (held.modGroup 0 fun g => { g with feedPin := true }).inReset = true ∧
      (((held.modGroup 0 fun g => { g with feedPin := true }).cage 0).ciu.lines.rail) = true := by decide
theorem meets_restart : (live .inService).Takes (ask .B 9 0 []) 0 0 ∧ (ask .B 9 0 []).port = .B :=
  ⟨takes (by decide), rfl⟩
theorem meets_hold :
    held.inReset = true ∧ Instr.spacingBoundReached ≠ .powerOn ∧ Instr.spacingBoundReached ≠ .resetPinRelease ∧
      (∀ c l, Instr.spacingBoundReached ≠ .presentLineChange c l) ∧
      (∀ c l, Instr.spacingBoundReached ≠ .attentionEdge c l) ∧
      (∀ g, Instr.spacingBoundReached ≠ .groupFeedFaultActive g) ∧
      (∀ g, Instr.spacingBoundReached ≠ .groupFeedFaultInactive g) ∧
      ∀ r, Instr.spacingBoundReached ≠ .inrushRecordLapse r := by
  refine ⟨rfl, ?_⟩
  simp

/-! ### Hypotheses met: invariants -/

/-- The part after reset with a line change waiting: it meets every invariant, and a step of it answers next. -/
def waits : State := { State.reset with pending := [.presentLineChange 31 true] }

theorem waits_steps : ∃ t, step waits = .next t := ⟨_, rfl⟩
theorem meets_resets : waits.ResetsHold := by unfold State.ResetsHold; decide
theorem meets_monitor : waits.MonitorHolds := by unfold State.MonitorHolds; decide
theorem meets_charges : waits.ChargesSum := by unfold State.ChargesSum; decide
theorem meets_lists : waits.ListsHold := by unfold State.ListsHold ListForm; decide
theorem meets_engines : waits.EnginesHold := by
  intro e
  have h : waits.engine e = idleEngine := by revert e; decide
  simp [h, idleEngine]
theorem meets_polls : waits.PollsHold := by unfold State.PollsHold; decide
theorem meets_flags : waits.FlagsHold := by unfold State.FlagsHold Ctx.FlagsHold; decide
theorem meets_settings : waits.SettingsHold := by
  refine ⟨by decide, by decide, by decide, by decide, by decide, by decide, fun p => ?_⟩
  cases p <;> decide
theorem meets_profiles : waits.ProfilesHold := by
  have h : ∀ c, (waits.cage c).profile = builtinProfile := by decide
  intro c
  rw [h c]
  unfold Profile.InRange LaneEntry.InRange
  decide

theorem meets_queues : waits.QueuesHold where
  reset h := absurd h (by decide)
  own := by decide
  once c := by
    have h : (waits.cage c).seq.state = .empty := by revert c; decide
    have q : (waits.group (groupOf c)).queue = [] := by revert c; decide
    simp [State.QueuedOnce, h, q]
  quiet c := by
    have h : (waits.cage c).seq.state = .empty ∧ (waits.cage c).seq.moduleFaulted = false := by revert c; decide
    have a : (waits.cage c).seq.access = .none ∧ (waits.cage c).seq.timers.poll = none ∧
        (waits.cage c).seq.timers.init = none := by revert c; decide
    have w : (waits.engine (engineOf c)).waiting = [] := by revert c; decide
    simp [State.WaitsQuietly, State.NoAccess, SeqState.powered, h, a, w]

/-! ### Hypotheses met: requests as written -/

theorem meets_round_trip :
    Instr.wf (.release (ask .A 31 0 [])) = true ∧
      encodeTransaction (.release (ask .A 31 0 [])) = some (.A, [5, 31, 0, 0]) ∧
      Instr.wf (.decideBadDecision (ask .B 0 0 [3])) = true ∧
      encodeTransaction (.decideBadDecision (ask .B 0 0 [3])) = some (.B, [4, 0, 0, 1, 3]) ∧
      Instr.wf (.unknownRequest .A [0]) = true ∧ encodeTransaction (.unknownRequest .A [0]) = some (.A, [0]) := by
  decide
theorem meets_loses_nothing : ([0x16, 0, 0, 0] : List Byte) ≠ [] := by decide

/-! ### Hypotheses met: frames, presence, attention -/

/-- Group 0 with the largest budget that covers no cage. -/
def poor (s : State) : State := s.modGroup 0 fun g => { g with budget := 1250 }

theorem idle_no_pass {s : State} {c : CageNo} (p : Port) (h : s.engine (engineOf c) = idleEngine) : s.NoPassFor c p := by
  constructor <;> simp [h, idleEngine]
theorem meets_cage_commands :
    commandCage (.release (ask .A 31 0 [])) = some 31 ∧ commandPort (.release (ask .A 31 0 [])) ≠ some .B ∧
      (cage0 id).NoPassFor 31 .B ∧ commandCage (.drainEnd 0) = some 0 ∧ commandPort (.drainEnd 0) ≠ some .A ∧
      (cage0 id).NoPassFor 0 .A :=
  ⟨by decide, by decide, idle_no_pass _ (by decide), by decide, by decide, idle_no_pass _ (by decide)⟩
theorem meets_settle_none : (live .inService).winner = none := by decide
theorem meets_settle_grant :
    highWait.winner = some (0, ⟨0, .highPower, 7500, 0, 990, 990⟩) ∧ groupOf 0 = 0 ∧ (highWait.cage 0).bus.seg = .connected ∧
      lowWait.winner = some (0, ⟨0, .lowPower, 1500, 0, 990, 990⟩) := by decide

/-- Engine 0 free with two items of cage 0 waiting, and engine 0 busy. -/
def pollB : Item := ⟨0, 0, 9, 8, false, [], .poll, 500, false, 500⟩
def freeEngine : State := (live .inService).modEngine 0 fun g => { g with waiting := [readB, pollB] }

theorem meets_engines_free :
    freeEngine.EnginesHold ∧ (freeEngine.engine 0).current = none ∧ freeEngine.Startable 0 readB ∧
      freeEngine.Startable 0 pollB := by
  refine ⟨fun e => ?_, by decide, ⟨by decide, by decide, ?_⟩, ⟨by decide, by decide, ?_⟩⟩
  · have h : (freeEngine.engine e).selected = none ∧ (freeEngine.engine e).current = none ∧
        ∀ i ∈ (freeEngine.engine e).waiting, engineOf i.cage = e := by revert e; decide
    simpa [h.1, h.2.1] using h.2.2
  all_goals
    have h : (freeEngine.cage 0).bus.hold = none := by decide
    intro t ht
    exact absurd (h.symm.trans ht) (by simp)
theorem meets_engines_busy :
    (carrying (carryOf readB)).EnginesHold ∧ ((carrying (carryOf readB)).engine 0).current ≠ none := by
  refine ⟨fun e => ?_, by decide⟩
  have h : ((carrying (carryOf readB)).engine e).selected =
        ((carrying (carryOf readB)).engine e).current.map (fun k => k.item.cage) ∧
      ((carrying (carryOf readB)).engine e).waiting = [] := by revert e; decide
  have a : ((carrying (carryOf readB)).engine e).current.all (fun x => decide (engineOf x.item.cage = e)) = true := by
    clear h; revert e; decide
  have k : ∀ x, ((carrying (carryOf readB)).engine e).current = some x → engineOf x.item.cage = e := by
    intro x hx
    rw [hx] at a
    simpa using a
  exact ⟨h.1, k, by simp [h.2]⟩

/-- A CIU part changed. -/
def ciu0 (f : Ciu → Ciu) : State := cage0 fun k => { k with ciu := f k.ciu }

theorem meets_line :
    true ≠ ((cage0 id).cage 0).ciu.presentPin ∧ (cage0 id).inReset = false ∧
      ((cage0 id).cage 0).ciu.settle = none ∧ ((cage0 id).cage 0).ciu.candidate = none ∧
      ((cage0 id).cage 0).ciu.presence ≠ .present := by decide
theorem meets_line_back :
    false ≠ ((ciu0 fun k => { k with presentPin := true }).cage 0).ciu.presentPin ∧
      ((ciu0 fun k => { k with presentPin := true }).cage 0).ciu.presence = .absent := by decide
theorem meets_line_candidate :
    false ≠ ((ciu0 fun k => { k with presentPin := true, candidate := some ⟨true, 1⟩ }).cage 0).ciu.presentPin ∧
      ((ciu0 fun k => { k with presentPin := true, candidate := some ⟨true, 1⟩ }).cage 0).ciu.candidate =
        some ⟨true, 1⟩ := by decide
theorem meets_line_settle :
    true ≠ ((ciu0 fun k => { k with settle := some 1 }).cage 0).ciu.presentPin ∧
      ((ciu0 fun k => { k with settle := some 1 }).cage 0).ciu.settle = some 1 := by decide
theorem meets_line_reset : false ≠ (held.cage 0).ciu.presentPin ∧ held.inReset = true := by decide

/-- A candidate that has held the debounce time of 20 ms. -/
def candidate (s : State) (level : Bool) : State :=
  s.modCiu 0 fun k => { k with presentPin := level, candidate := some ⟨level, 980⟩ }

/-- R120: an entry of equal priority joins behind one that joined a whole wrap of the time base before it, and ahead of one of a
higher cage that joined in its millisecond. -/
theorem test_join_by_position :
    (joinQueue ⟨0, .lowPower, 1500, 0, 5, 4294967301⟩ [⟨1, .lowPower, 1500, 0, 5, 5⟩]).map Entry.cage = [1, 0] ∧
      (joinQueue ⟨0, .lowPower, 1500, 0, 5, 5⟩ [⟨1, .lowPower, 1500, 0, 5, 5⟩]).map Entry.cage = [0, 1] := by decide

theorem meets_insertion :
    (candidate (cage0 id) true).inReset = false ∧
      ((candidate (cage0 id) true).cage 0).ciu.candidate = some ⟨true, 980⟩ ∧
      ((candidate (cage0 id) true).cage 0).ciu.presentPin = true ∧
      (candidate (cage0 id) true).settings.debounce ≤ ((candidate (cage0 id) true).now - 980).toNat ∧
      1500 ≤ ((candidate (cage0 id) true).group (groupOf 0)).budget ∧
      ((candidate (cage0 id) true).cage 0).seq.state = .empty ∧
      ((candidate (live .draining) true).cage 0).seq.state = .draining := by decide
theorem meets_removal :
    ((candidate (live .inService) false).cage 0).ciu.candidate = some ⟨false, 980⟩ ∧
      ((candidate (live .inService) false).cage 0).ciu.presentPin = false ∧
      (candidate (live .inService) false).settings.debounce ≤ ((candidate (live .inService) false).now - 980).toNat ∧
      ((candidate (live .inService) false).cage 0).ciu.lines.rail = true ∧
      ((candidate (live .draining) false).cage 0).seq.state = .draining ∧
      ((candidate (cage0 id) false).cage 0).ciu.lines.rail = false := by decide

theorem meets_insertion_poor :
    (poor (candidate (cage0 id) true)).inReset = false ∧
      ((poor (candidate (cage0 id) true)).cage 0).ciu.candidate = some ⟨true, 980⟩ ∧
      ((poor (candidate (cage0 id) true)).cage 0).ciu.presentPin = true ∧
      (poor (candidate (cage0 id) true)).settings.debounce ≤ ((poor (candidate (cage0 id) true)).now - 980).toNat ∧
      ((poor (candidate (cage0 id) true)).cage 0).seq.state = .empty ∧
      ((poor (candidate (cage0 id) true)).group (groupOf 0)).budget < 1500 := by decide

/-- Cage 0 in ADOPTING at the end of its settle interval, with a level of the present line. -/
def adopting (s : State) (level : Bool) : State :=
  (s.modCiu 0 fun k => { k with presentPin := level, settle := some 980 }).modSeq 0 fun q =>
    { q with state := .adopting }

theorem meets_adoption :
    (adopting (cage0 id) true).inReset = false ∧ ((adopting (cage0 id) true).cage 0).ciu.settle = some 980 ∧
      (adopting (cage0 id) true).settings.debounce ≤ ((adopting (cage0 id) true).now - 980).toNat ∧
      ((adopting (cage0 id) true).cage 0).seq.state = .adopting ∧
      1500 ≤ ((adopting (cage0 id) true).group (groupOf 0)).budget ∧
      ((adopting (cage0 id) true).cage 0).ciu.presentPin = true ∧
      ((adopting (cage0 id) true).cage 0).ciu.lines.rail = false := by decide
theorem meets_adoption_poor :
    (poor (adopting (cage0 id) true)).inReset = false ∧ ((poor (adopting (cage0 id) true)).cage 0).ciu.settle = some 980 ∧
      (poor (adopting (cage0 id) true)).settings.debounce ≤ ((poor (adopting (cage0 id) true)).now - 980).toNat ∧
      ((poor (adopting (cage0 id) true)).cage 0).seq.state = .adopting ∧
      ((poor (adopting (cage0 id) true)).cage 0).ciu.presentPin = true ∧
      ((poor (adopting (cage0 id) true)).cage 0).ciu.lines.rail = false ∧
      ((poor (adopting (cage0 id) true)).group (groupOf 0)).budget < 1500 := by decide
theorem meets_adoption_absent :
    ((adopting (cage0 id) false).cage 0).ciu.presentPin = false ∧
      ((adopting (cage0 id) false).cage 0).ciu.lines.rail = false ∧
      ((adopting (live .empty) false).cage 0).ciu.lines.rail = true ∧
      (((adopting (live .empty) false).modOutage 0 fun o => { o with result := some .inService }).cage 0).outage.result
        ≠ none := by decide
theorem meets_adoption_held :
    ((adopting ((live .empty).resetAssert 0) true).cage 0).ciu.presentPin = true ∧
      ((adopting ((live .empty).resetAssert 0) true).cage 0).ciu.lines.rail = true ∧
      ((adopting ((live .empty).resetAssert 0) true).cage 0).ciu.lines.reset = true := by decide
theorem meets_adoption_running :
    ((adopting (live .empty) true).cage 0).ciu.presentPin = true ∧
      ((adopting (live .empty) true).cage 0).ciu.lines.rail = true ∧
      ((adopting (live .empty) true).cage 0).ciu.lines.reset = false ∧
      ((adopting (live .empty) true).cage 0).bus.seg = .connected ∧
      ((adopting (live .empty) true).cage 0).seq.pgHeld = false ∧
      ((adopting (live0 fun q => { q with pgHeld := true }) true).cage 0).seq.pgHeld = true := by decide

/-- Cage 0 gone on to a state before its settle interval ends, with the result its record has. -/
def settlesLate (f : State) (st : SeqState) (level : Bool) (res : Option Result) : State :=
  (((adopting f level).modSeq 0 fun q => { q with state := st, reason := some .railFail })).modOutage 0 fun o =>
    { o with result := res }

theorem meets_adoption_late :
    (settlesLate (live .empty) .draining true none).inReset = false ∧
      ((settlesLate (live .empty) .draining true none).cage 0).ciu.settle = some 980 ∧
      (settlesLate (live .empty) .draining true none).settings.debounce ≤
        ((settlesLate (live .empty) .draining true none).now - 980).toNat ∧
      ((settlesLate (live .empty) .draining true none).cage 0).seq.state = .draining ∧
      ((settlesLate (live .empty) .draining true none).cage 0).ciu.presentPin = true ∧
      ((settlesLate (live .empty) .draining false none).cage 0).ciu.presentPin = false ∧
      ((settlesLate (live .empty) .draining false none).cage 0).outage.result = none ∧
      ((settlesLate (live .empty) .draining false (some .inProgress)).cage 0).outage.result ≠ none ∧
      ((settlesLate (cage0 id) .faulted true none).cage 0).seq.state = .faulted ∧
      ((settlesLate (cage0 id) .faulted false none).cage 0).ciu.lines.rail = false := by decide

theorem meets_attention_discard :
    (cage0 id).inReset = false ∧ ((cage0 id).cage 0).ciu.attentionPin = false ∧
      ((cage0 id).cage 0).ciu.presence ≠ .present ∧
      (((live .inService).resetAssert 0).cage 0).ciu.lines.reset = true := by decide
theorem meets_attention_latch :
    ((live .hpWait).cage 0).ciu.presence = .present ∧ ((live .hpWait).cage 0).ciu.lines.rail = true ∧
      ((live .hpWait).cage 0).ciu.lines.reset = false ∧ ((live .hpWait).cage 0).ciu.latch = none ∧
      ((live .hpWait).cage 0).nextPoll = none := by decide

/-- Cage 0 in service with its next poll time reached at 1000 ms. -/
def polled : State := (live .inService).modCage 0 fun k => { k with nextPoll := some ⟨900, 100⟩ }

/-- A POLL item of cage 0 waiting. -/
def pollWaits : State := polled.modEngine 0 fun g => { g with waiting := [⟨0, 0, 9, 8, false, [], .poll, 900, false, 900⟩] }

theorem meets_attention_poll :
    (polled.cage 0).nextPoll ≠ none ∧ (polled.cage 0).bus.seg = .connected ∧ polled.pollPending 0 = false ∧
      (pollWaits.cage 0).nextPoll ≠ none ∧ pollWaits.pollPending 0 = true ∧
      ((polled.modBus 0 fun b => { b with seg := .stuck }).cage 0).bus.seg = .stuck ∧
      ((polled.modCiu 0 fun k => { k with latch := some 999 }).cage 0).ciu.latch ≠ none := by decide

/-! ### Hypotheses met: power admission -/

/-- Heads of equal priority in groups 0 and 7, both ready, and the spacings just passed. -/
def twoHeads : State :=
  { ((lowWait.modGroup 0 fun g => { g with last := .active 980 }).modSeq 31 fun _ =>
      clearCtx .admitWait).modGroup 7 fun g => { g with queue := [⟨31, .lowPower, 1500, 0, 990, 990⟩] } with
    deviceLast := .active 996 }

theorem meets_pau :
    twoHeads.inReset = false ∧ twoHeads.winner = some (0, ⟨0, .lowPower, 1500, 0, 990, 990⟩) ∧
      (twoHeads.group 0).last = .active 980 ∧ twoHeads.deviceLast = .active 996 ∧
      twoHeads.readyHead 7 = some ⟨31, .lowPower, 1500, 0, 990, 990⟩ := by decide
theorem meets_grantable :
    twoHeads.Grantable 7 ⟨31, .lowPower, 1500, 0, 990, 990⟩ ∧ twoHeads.DeviceReady ∧ (7 : GroupNo) ≠ 0 := by
  refine ⟨⟨by decide, .inl (by decide), by decide, .inr (by decide), ?_⟩, ?_, by decide⟩
  · have h : (twoHeads.group 7).last = .none := by decide
    intro t ht
    exact absurd (h.symm.trans ht) (by simp)
  · have h : twoHeads.deviceLast = .active 996 := by decide
    intro t ht
    obtain rfl : t = 996 := by simpa using (h.symm.trans ht).symm
    decide
theorem meets_no_low : ∀ e, (cage0 id).winner = some (0, e) → e.kind ≠ .lowPower := by
  intro e h
  exact absurd h (by rw [show (cage0 id).winner = none by decide]; simp)
theorem meets_no_high : ∀ e, (cage0 id).winner = some (0, e) → e.kind ≠ .highPower := by
  intro e h
  exact absurd h (by rw [show (cage0 id).winner = none by decide]; simp)
theorem meets_low :
    lowWait.inReset = false ∧ lowWait.winner = some (0, ⟨0, .lowPower, 1500, 0, 990, 990⟩) ∧ groupOf 0 = 0 ∧
      (lowWait.cage 0).ciu.lines.rail = false := by decide
theorem meets_high :
    highWait.inReset = false ∧ highWait.winner = some (0, ⟨0, .highPower, 7500, 0, 990, 990⟩) ∧
      (highWait.cage 0).bus.seg = .connected ∧ (highWait.cage 0).seq.adopted = false ∧
      (queued (live0 fun q => { q with state := .hpWait, adopted := true }) .highPower 7500).winner =
        some (0, ⟨0, .highPower, 7500, 0, 990, 990⟩) := by decide

/-- The feed of group 0 in fault, cage 0 FAULTED with GROUP_FEED. -/
def cutOff : State := ctx0 fun q => { q with state := .faulted, reason := some .groupFeed }
def feedIn (s : State) : State := s.modGroup 0 fun g => { g with feedPin := true, feedActive := true }

theorem meets_feed :
    (feedIn cutOff).inReset = false ∧ ((feedIn cutOff).group 0).feedPin = true ∧ (cutOff.group 0).feedPin = false ∧
      groupOf 0 = 0 ∧ groupOf 31 ≠ 0 ∧ (cutOff.cage 0).ciu.lines.rail = false ∧ (cutOff.cage 0).seq.state = .faulted ∧
      (cutOff.cage 0).seq.reason = some .groupFeed := by decide
theorem meets_feed_cut :
    ((live .inService).group 0).feedPin = false ∧ ((live .inService).cage 0).ciu.lines.rail = true ∧
      ((live .inService).cage 0).seq.state ≠ .draining ∧ ((live .inService).cage 0).seq.state ≠ .faulted ∧
      groupOf 3 = 0 ∧ ((live .inService).cage 3).ciu.lines.rail = false ∧
      ((live .inService).cage 3).seq.state ≠ .faulted ∧ ((lowWait.group 0).queue.map Entry.cage) = [0] ∧
      (lowWait.cage 0).ciu.lines.rail = false := by decide

/-- Cage 0 draining to a destination, with a first reason and with or without a reinsertion pending. -/
def cutDrain (d : Dest) (again : Bool) : State := live0 fun q => { q with
  state := .draining, dest := some d, reason := some .railFail, reinsertion := again }

theorem meets_feed_drain :
    ((cutDrain .empty false).group 0).feedPin = false ∧ ((cutDrain .empty false).cage 0).ciu.lines.rail = true ∧
      ((cutDrain .empty false).cage 0).seq.state = .draining ∧
      ((cutDrain .empty false).cage 0).seq.dest = some .empty ∧
      ((cutDrain .empty false).cage 0).seq.reinsertion = false ∧
      ((cutDrain .empty true).cage 0).seq.reinsertion = true ∧
      1500 ≤ ((cutDrain .empty true).group (groupOf 0)).budget ∧
      ((poor (cutDrain .empty true)).group (groupOf 0)).budget < 1500 ∧
      ((poor (cutDrain .empty true)).cage 0).seq.state = .draining ∧
      ((cutDrain .faulted false).cage 0).seq.dest = some .faulted ∧
      ((cutDrain .faulted false).cage 0).seq.reason = some .railFail ∧
      ((cutDrain .admitWait false).cage 0).seq.dest = some .admitWait := by decide
theorem meets_feed_kept :
    ((ctx0 fun q => { q with state := .faulted, reason := some .railFail }).cage 0).ciu.lines.rail = false ∧
      ((ctx0 fun q => { q with state := .faulted, reason := some .railFail }).cage 0).seq.reason ≠ some .groupFeed ∧
      ((live .faulted).cage 0).seq.state = .faulted ∧ ((live .faulted).cage 0).ciu.lines.rail = true := by decide
theorem meets_feed_replies :
    ((carrying (carryOf readB)).port .B).reply = .pending 0x0D 0 ∧
      ((carrying (carryOf readB)).cage 0).ciu.lines.rail = true ∧ ¬(carrying (carryOf readB)).NoPassFor 0 .B ∧
      (live .inService).NoPassFor 0 .B :=
  ⟨by decide, by decide, fun h => h.2 _ rfl rfl rfl, idle_no_pass _ (by decide)⟩
theorem test_feed_answers_state :
    leaves (.groupFeedFaultActive 0) (carrying (carryOf readB)) (fun t =>
      decide ((t.port .B).reply = .answered .state 0x0D 0 [])) = true := by decide

/-! ### Hypotheses met: timers of the sequencer -/

/-- Cage 0 in POWERING in a slot whose length has passed. -/
def slotOver (n : Nat) (good : Bool) : State := live0 fun q => { q with
  state := .powering, table := some ⟨0, 1, 3, 4, 4⟩, slot := n, pgHeld := good, timers := { slot := some due } }

theorem meets_slots :
    (slotOver 0 false).inReset = false ∧ ((slotOver 0 false).cage 0).seq.state = .powering ∧
      Reached ((slotOver 0 false).cage 0).seq.timers.slot (slotOver 0 false).now ∧
      ((slotOver 0 false).cage 0).seq.table = some ⟨0, 1, 3, 4, 4⟩ ∧ ((slotOver 0 false).cage 0).seq.slot = 0 ∧
      ((slotOver 0 false).cage 0).seq.pgHeld = false :=
  ⟨by decide, by decide, ⟨due, by decide, by decide⟩, by decide, by decide, by decide⟩
theorem meets_slot_next :
    ((slotOver 0 true).cage 0).seq.pgHeld = true ∧ ((slotOver 0 true).cage 0).ciu.lines.rail = true ∧
      ((slotOver 0 true).cage 0).seq.slot + 1 < max 1 4 := by decide
theorem meets_slot_last :
    ((slotOver 3 true).cage 0).seq.slot ≠ 0 ∧ ((slotOver 3 true).cage 0).bus.seg = .connected ∧
      max 1 4 ≤ ((slotOver 3 true).cage 0).seq.slot + 1 := by decide

theorem meets_pg_limit :
    (timed .powering { pgLimit := some ⟨950, 50⟩ }).inReset = false ∧
      ((timed .powering { pgLimit := some ⟨950, 50⟩ }).cage 0).ciu.lines.rail = true ∧
      Reached ((timed .powering { pgLimit := some ⟨950, 50⟩ }).cage 0).seq.timers.pgLimit
        (timed .powering { pgLimit := some ⟨950, 50⟩ }).now :=
  ⟨by decide, by decide, ⟨⟨950, 50⟩, by decide, by decide⟩⟩
theorem meets_pg_limit_adopting :
    ((timed .adopting { pgLimit := some ⟨950, 50⟩ }).cage 0).seq.state ≠ .powering ∧
      Reached ((timed .adopting { pgLimit := some ⟨950, 50⟩ }).cage 0).seq.timers.pgLimit
        (timed .adopting { pgLimit := some ⟨950, 50⟩ }).now :=
  ⟨by decide, ⟨⟨950, 50⟩, by decide, by decide⟩⟩

/-- Cage 0 draining to ADMIT_WAIT with a power-good limit reached. -/
def drainLimit : State := live0 fun q => { q with
  state := .draining, dest := some .admitWait, timers := { pgLimit := some ⟨950, 50⟩ } }

theorem meets_pg_limit_draining :
    (drainLimit.cage 0).seq.state = .draining ∧ (drainLimit.cage 0).seq.dest = some .admitWait ∧
      Reached (drainLimit.cage 0).seq.timers.pgLimit drainLimit.now :=
  ⟨by decide, by decide, ⟨⟨950, 50⟩, by decide, by decide⟩⟩
theorem meets_poll_timer :
    ((timed .identify { poll := some due }).cage 0).bus.seg = .connected ∧
      Reached ((timed .identify { poll := some due }).cage 0).seq.timers.poll (timed .identify { poll := some due }).now :=
  ⟨by decide, ⟨due, by decide, by decide⟩⟩
theorem meets_next_poll :
    (polled.cage 0).nextPoll = some ⟨900, 100⟩ ∧ 100 ≤ (polled.now - 900).toNat ∧ polled.pollPending 0 = false ∧
      pollWaits.pollPending 0 = true ∧ (pollWaits.cage 0).nextPoll = some ⟨900, 100⟩ := by decide
theorem meets_init :
    ((timed .identify { init := some due }).cage 0).seq.state = .identify ∧
      Reached ((timed .identify { init := some due }).cage 0).seq.timers.init (timed .identify { init := some due }).now :=
  ⟨by decide, ⟨due, by decide, by decide⟩⟩
theorem meets_init_adopting :
    ((timed .adopting { init := some due }).cage 0).seq.state = .adopting ∧
      Reached ((timed .adopting { init := some due }).cage 0).seq.timers.init (timed .adopting { init := some due }).now :=
  ⟨by decide, ⟨due, by decide, by decide⟩⟩
theorem meets_hp_settle :
    ((timed .configure { settle := some due }).cage 0).seq.state = .configure ∧
      Reached ((timed .configure { settle := some due }).cage 0).seq.timers.settle
        (timed .configure { settle := some due }).now :=
  ⟨by decide, ⟨due, by decide, by decide⟩⟩

/-- Cage 0 in DECIDE with its window over, its profile valid with fallback PROCEED, declaring 20000 mW. -/
def proceeds : State :=
  ((timed .decide { window := some due }).modProfile 0 fun p => { p with valid := true, fallback := .proceed }).modImage 0
    fun i => { i with identity := { i.identity with declared := some (20000, false) } }

/-- Cage 0 adopted at high power, in DECIDE with its window over. -/
def adoptedHp : State := live0 fun q => { q with
  state := .decide, stage := .window, adopted := true, hpOn := true, timers := { window := some due } }

theorem meets_window_adopted :
    (adoptedHp.cage 0).seq.state = .decide ∧ adoptedHp.AtHp 0 ∧
      Reached (adoptedHp.cage 0).seq.timers.window adoptedHp.now ∧ (adoptedHp.profile 0).fallback = .park ∧
      ((adoptedHp.modProfile 0 fun p => { p with valid := true, fallback := .proceed }).profile 0).fallback =
        .proceed ∧
      (adoptedHp.modProfile 0 fun p => { p with valid := true, fallback := .proceed }).AtHp 0 :=
  ⟨by decide, ⟨by decide, by decide, by decide⟩, ⟨due, by decide, by decide⟩, by decide, by decide,
    ⟨by decide, by decide, by decide⟩⟩
theorem meets_window_never :
    ((poor proceeds).cage 0).seq.state = .decide ∧ (poor proceeds).Plain 0 ∧
      Reached ((poor proceeds).cage 0).seq.timers.window (poor proceeds).now ∧
      ((poor proceeds).profile 0).fallback = .proceed ∧
      ((poor proceeds).group (groupOf 0)).budget < (poor proceeds).declared 0 :=
  ⟨by decide, .inr (by decide), ⟨due, by decide, by decide⟩, by decide, by decide⟩
theorem meets_window_park :
    ((timed .decide { window := some due }).cage 0).seq.state = .decide ∧
      (timed .decide { window := some due }).Plain 0 ∧
      Reached ((timed .decide { window := some due }).cage 0).seq.timers.window
        (timed .decide { window := some due }).now ∧
      ((timed .decide { window := some due }).profile 0).fallback = .park :=
  ⟨by decide, .inl (by decide), ⟨due, by decide, by decide⟩, by decide⟩
theorem meets_window_proceed :
    (proceeds.cage 0).seq.state = .decide ∧ proceeds.Plain 0 ∧
      Reached (proceeds.cage 0).seq.timers.window proceeds.now ∧ (proceeds.profile 0).fallback = .proceed ∧
      proceeds.declared 0 ≤ (proceeds.group (groupOf 0)).budget :=
  ⟨by decide, .inr (by decide), ⟨due, by decide, by decide⟩, by decide, by decide⟩

/-- Cage 0 at HOST_SIDE with its window over. -/
def hostSide : State := live0 fun q => { q with
  state := .configure, stage := .hostSide, timers := { hostSide := some due } }

theorem meets_host_side :
    hostSide.inReset = false ∧ (hostSide.cage 0).seq.state = .configure ∧ (hostSide.cage 0).bus.seg = .connected ∧
      Reached (hostSide.cage 0).seq.timers.hostSide hostSide.now :=
  ⟨by decide, by decide, by decide, ⟨due, by decide, by decide⟩⟩
theorem meets_host_side_done :
    hostSide.TakesFor (ask .A 0 0 []) 0 0 0 ∧ (ask .A 0 0 []).port = .A ∧ (hostSide.cage 0).seq.stage = .hostSide ∧
      (live .inService).TakesFor (ask .A 0 0 []) 0 0 0 ∧ ((live .inService).cage 0).seq.state ≠ .configure :=
  ⟨takesFor (by decide), rfl, by decide, takesFor (by decide), by decide⟩

/-- Cage 0 in LINK_WAIT with its link timer over, eight lanes as two ports, and the given accepted bits. -/
def linkOver (limit : Option Nat) (up : BitVec 256) : State :=
  { (live0 fun q => { q with
      state := .linkWait, retry := 2, retryLimit := limit, timers := { link := some due } }).modImage 0 fun i =>
        { i with breakout := some 2, identity := { i.identity with laneCount := some 8 } } with
    lsr := ⟨true, some up, some up, some 999, some []⟩ }

theorem meets_link_some :
    (linkOver none 0x10).inReset = false ∧ ((linkOver none 0x10).cage 0).seq.state = .linkWait ∧
      Reached ((linkOver none 0x10).cage 0).seq.timers.link (linkOver none 0x10).now ∧
      (linkOver none 0x10).summary 0 = .someUp :=
  ⟨by decide, by decide, ⟨due, by decide, by decide⟩, by decide⟩
theorem meets_link_unknown : (timed .linkWait { link := some due }).summary 0 = .unknown := by decide
theorem meets_link_none :
    (linkOver none 0x02).summary 0 = .noneUp ∧ ((linkOver none 0x02).cage 0).seq.retryLimit = none ∧
      (linkOver (some 2) 0).summary 0 = .noneUp ∧ ((linkOver (some 2) 0).cage 0).seq.retryLimit = some 2 ∧
      2 ≤ ((linkOver (some 2) 0).cage 0).seq.retry ∧ ((linkOver (some 3) 0).cage 0).seq.retry < 3 ∧
      ((linkOver (some 3) 0).cage 0).bus.seg = .connected := by decide
theorem meets_local :
    ((live0 fun q => { q with blank := some ⟨0, 0, 1000⟩ }).cage 0).seq.blank = some ⟨0, 0, 1000⟩ ∧
      (((live .hpWait).modRlm 0 fun r => { r with pending := some ⟨1500, 950⟩ }).cage 0).rlm.pending = some ⟨1500, 950⟩ ∧
      ((carrying (carryOf readB)).engine 0).current = some (carryOf readB) ∧ (carryOf readB).pause = none ∧
      (carryOf readB).holdWait = none ∧ (carryOf readB).clockLow = none := by decide

/-- Cage 0 draining in a slot whose length has passed. -/
def drains (n : Nat) (d : Dest) (r : Option Reason) (again : Bool) : State := live0 fun q => { q with
  state := .draining, slot := n, dest := some d, reason := r, reinsertion := again, timers := { slot := some due } }

theorem meets_drain :
    (drains 4 .empty none false).inReset = false ∧ ((drains 4 .empty none false).cage 0).seq.state = .draining ∧
      Reached ((drains 4 .empty none false).cage 0).seq.timers.slot (drains 4 .empty none false).now ∧
      ((drains 4 .empty none false).cage 0).seq.busRelease = false ∧
      ((drains 4 .empty none false).cage 0).seq.slot = 3 + 1 :=
  ⟨by decide, by decide, ⟨due, by decide, by decide⟩, by decide, by decide⟩
theorem meets_drain_end :
    ((drains 0 .empty none false).cage 0).seq.slot = 0 ∧ ((drains 0 .empty none false).cage 0).seq.dest = some .empty ∧
      ((drains 0 .empty none false).cage 0).seq.reinsertion = false ∧
      ((drains 0 .empty none true).cage 0).seq.reinsertion = true ∧
      ((drains 0 .admitWait none false).cage 0).seq.dest = some .admitWait ∧
      1500 ≤ ((drains 0 .admitWait none false).group (groupOf 0)).budget ∧
      ((drains 0 .faulted (some .railFail) false).cage 0).seq.dest = some .faulted ∧
      ((drains 0 .faulted (some .railFail) false).cage 0).seq.reason = some .railFail := by decide

theorem meets_drain_table :
    (clearCtx .draining).table = none ∧ ({ clearCtx .draining with table := some ⟨0, 1, 3, 4, 4⟩ } : Ctx).table =
      some ⟨0, 1, 3, 4, 4⟩ := by decide
theorem meets_drain_end_poor :
    ((poor (drains 0 .admitWait none false)).cage 0).seq.state = .draining ∧
      Reached ((poor (drains 0 .admitWait none false)).cage 0).seq.timers.slot (poor (drains 0 .admitWait none false)).now ∧
      ((poor (drains 0 .admitWait none false)).cage 0).seq.dest = some .admitWait ∧
      ((poor (drains 0 .admitWait none false)).group (groupOf 0)).budget < 1500 :=
  ⟨by decide, ⟨due, by decide, by decide⟩, by decide, by decide⟩

/-- Cage 0 FAULTED for a reason, unpowered or powered. -/
def faulted (r : Reason) : State := ctx0 fun q => { q with
  state := .faulted, reason := some r, timers := { feedClear := some ⟨0, 1000⟩ } }
def moduleFaulted : State := live0 fun q => { q with state := .faulted, stage := .module, reason := some .notReady }

theorem meets_feed_clear :
    (faulted .groupFeed).inReset = false ∧ ((faulted .groupFeed).cage 0).seq.state = .faulted ∧
      Reached ((faulted .groupFeed).cage 0).seq.timers.feedClear (faulted .groupFeed).now ∧
      1500 ≤ ((faulted .groupFeed).group (groupOf 0)).budget :=
  ⟨by decide, by decide, ⟨⟨0, 1000⟩, by decide, by decide⟩, by decide⟩
theorem meets_feed_clear_poor :
    ((poor (faulted .groupFeed)).cage 0).seq.state = .faulted ∧
      Reached ((poor (faulted .groupFeed)).cage 0).seq.timers.feedClear (poor (faulted .groupFeed)).now ∧
      ((poor (faulted .groupFeed)).group (groupOf 0)).budget < 1500 :=
  ⟨by decide, ⟨⟨0, 1000⟩, by decide, by decide⟩, by decide⟩
theorem no_pass (p : Port) : moduleFaulted.NoPass p ∧ (live .inService).NoPass p := by
  constructor <;> intro e
  · have h : moduleFaulted.engine e = idleEngine := by revert e; decide
    simp [h, idleEngine]
  · have h : (live .inService).engine e = idleEngine := by revert e; decide
    simp [h, idleEngine]
theorem meets_clear_fault :
    (faulted .railFail).TakesFor (ask .A 0 0 []) 0 0 0 ∧ (faulted .railFail).TakesFor (ask .B 0 0 []) 0 0 0 ∧
      ((faulted .railFail).cage 0).seq.state = .faulted ∧ ((faulted .railFail).cage 0).seq.reason = some .railFail ∧
      moduleFaulted.TakesFor (ask .A 0 0 []) 0 0 0 ∧ (moduleFaulted.cage 0).seq.reason = some .notReady ∧
      moduleFaulted.NoPass .A ∧ (live .inService).TakesFor (ask .A 0 0 []) 0 0 0 ∧
      ((live .inService).cage 0).seq.state ≠ .faulted :=
  ⟨takesFor (by decide), takesFor (by decide), by decide, by decide, takesFor (by decide), by decide, (no_pass .A).1,
    takesFor (by decide), by decide⟩

/-! ### Hypotheses met: requests -/

theorem meets_reads :
    (cage0 id).TakesFor (ask .A 31 0 []) 0 0 31 ∧ (cage0 id).TakesFor (ask .B 0 1 []) 1 0 0 ∧
      (cage0 id).Takes (ask .B 7 0 []) 0 0 ∧ (ask .B 7 0 []).target.toNat = (7 : GroupNo).val ∧
      (ask .B 0 0 []).target.toNat = (0 : Fin 8).val ∧ ((cage0 id).cage 0).image.lanes.length = 8 :=
  ⟨takesFor (by decide), takesFor (by decide), takes (by decide), by decide, by decide, by decide⟩

/-- The built-in record as a master writes it, one of its bytes changed. -/
def record (n : Nat) (b : Byte) : List Byte := (builtinProfile.bytes false).set n b

theorem meets_write_profile :
    (cage0 id).TakesFor (ask .A 0 0 ([0, 0] ++ record 0 0)) 0 130 0 ∧
      profileOf (record 4 3) = none ∧ (profileOf (record 7 200)).isSome = true ∧
      ([0, 0] : List Byte) = bytesOf16 ((cage0 id).cage 0).profile.revision ∧
      ([0, 1] : List Byte) ≠ bytesOf16 ((cage0 id).cage 0).profile.revision ∧
      ((cage0 id).cage 0).seq.inUse = false ∧ ((live0 fun q => { q with inUse := true }).cage 0).seq.inUse = true ∧
      ((cage0 id).cage 0).seq.waiting = false :=
  ⟨takesFor (by decide), by decide, by decide, by decide, by decide, by decide, by decide, by decide⟩

/-- Cage 0 waiting in DECIDE, and the same with a valid profile. -/
def waiting : State := live0 fun q => { q with state := .decide, stage := .noWindow }
def waitingValid : State := waiting.modProfile 0 fun p => { p with valid := true }

theorem meets_write_waiting :
    waiting.TakesFor (ask .A 0 0 ([0, 0] ++ record 7 200)) 0 130 0 ∧ (waiting.cage 0).seq.waiting = true ∧
      (waiting.cage 0).seq.inUse = false ∧
      ((ask .A 0 0 ([0, 0] ++ record 7 200)).body.drop 2) = record 7 200 ∧
      (ask .A 0 0 ([0, 0] ++ record 7 200)).body.take 2 = bytesOf16 (waiting.cage 0).profile.revision :=
  ⟨takesFor (by decide), by decide, by decide, by decide, by decide⟩
theorem meets_invalidate :
    (cage0 id).TakesFor (ask .A 0 0 [0, 0]) 0 2 0 ∧
      (ask .A 0 0 [0, 0]).body = bytesOf16 ((cage0 id).cage 0).profile.revision ∧
      (ask .A 0 0 [1, 0]).body ≠ bytesOf16 ((cage0 id).cage 0).profile.revision ∧
      waiting.TakesFor (ask .A 0 0 [0, 0]) 0 2 0 ∧ (waiting.cage 0).seq.waiting = true :=
  ⟨takesFor (by decide), by decide, by decide, takesFor (by decide), by decide⟩
theorem meets_decide :
    (cage0 id).TakesFor (ask .A 0 1 []) 1 0 0 ∧ ((cage0 id).cage 0).seq.waiting = false ∧
      waiting.TakesFor (ask .A 0 1 []) 1 0 0 ∧ (waiting.cage 0).seq.waiting = true ∧
      (waiting.cage 0).profile.valid = false ∧ waiting.Plain 0 ∧
      waiting.declared 0 ≤ (waiting.group (groupOf 0)).budget ∧ (waitingValid.cage 0).profile.valid = true :=
  ⟨takesFor (by decide), by decide, takesFor (by decide), by decide, by decide, .inl (by decide), by decide, by decide⟩

/-- Cage 0 adopted at high power and waiting in DECIDE with a valid profile; every link up, or no stream. -/
def adoptedWaits : State := adoptedHp.modProfile 0 fun p => { p with valid := true }
def adoptedUp : State := { adoptedWaits with lsr := ⟨true, some (BitVec.allOnes 256), some 0, some 999, some []⟩ }

theorem meets_decide_adopted :
    adoptedWaits.TakesFor (ask .B 0 1 []) 1 0 0 ∧ (adoptedWaits.cage 0).seq.waiting = true ∧ adoptedWaits.AtHp 0 ∧
      (adoptedWaits.cage 0).profile.valid = true ∧ adoptedWaits.summary 0 ≠ .allUp ∧ adoptedUp.AtHp 0 ∧
      adoptedUp.TakesFor (ask .B 0 1 []) 1 0 0 ∧ adoptedUp.summary 0 = .allUp :=
  ⟨takesFor (by decide), by decide, ⟨by decide, by decide, by decide⟩, by decide, by decide,
    ⟨by decide, by decide, by decide⟩, takesFor (by decide), by decide⟩
theorem meets_decide_never :
    (poor (waitingValid.modImage 0 fun i => { i with identity := { i.identity with declared := some (1500, false) } })).declared
        0 = 1500 ∧
      ((poor waitingValid).group (groupOf 0)).budget < 1500 ∧ (poor waitingValid).Plain 0 ∧
      (poor waitingValid).TakesFor (ask .A 0 1 []) 1 0 0 ∧ ((poor waitingValid).cage 0).seq.waiting = true :=
  ⟨by decide, by decide, .inl (by decide), takesFor (by decide), by decide⟩

/-- Cage 0 PARKED for a reason, unpowered or powered. -/
def parkedOff : State := ctx0 fun q => { q with state := .parked, reason := some .budget }
def parkedOn (r : Reason) : State := live0 fun q => { q with state := .parked, reason := some r }

theorem meets_release_request :
    (live .inService).TakesFor (ask .A 0 0 []) 0 0 0 ∧ ((live .inService).cage 0).seq.state ≠ .parked ∧
      parkedOff.TakesFor (ask .A 0 0 []) 0 0 0 ∧ (parkedOff.cage 0).seq.state = .parked ∧
      (parkedOff.cage 0).ciu.lines.rail = false ∧ 1500 ≤ (parkedOff.group (groupOf 0)).budget ∧
      (parkedOn .noFieldMap).TakesFor (ask .A 0 0 []) 0 0 0 ∧ ((parkedOn .noFieldMap).cage 0).ciu.lines.rail = true ∧
      ((parkedOn .noFieldMap).cage 0).bus.seg = .connected ∧
      ((parkedOn .master).cage 0).seq.reason ≠ some .noFieldMap :=
  ⟨takesFor (by decide), by decide, takesFor (by decide), by decide, by decide, by decide, takesFor (by decide),
    by decide, by decide, by decide⟩
theorem meets_release_more :
    (poor parkedOff).TakesFor (ask .A 0 0 []) 0 0 0 ∧ ((poor parkedOff).cage 0).seq.state = .parked ∧
      ((poor parkedOff).cage 0).ciu.lines.rail = false ∧ ((poor parkedOff).group (groupOf 0)).budget < 1500 ∧
      (parkedOn .master).TakesFor (ask .A 0 0 []) 0 0 0 ∧ ((parkedOn .master).cage 0).seq.state = .parked ∧
      ((parkedOn .master).cage 0).ciu.lines.rail = true :=
  ⟨takesFor (by decide), by decide, by decide, by decide, takesFor (by decide), by decide, by decide⟩
theorem meets_reset_cage :
    (live .inService).TakesFor (ask .A 0 1 []) 1 0 0 ∧ ((live .inService).cage 0).seq.state = .inService ∧
      ((live .linkWait).cage 0).seq.state = .linkWait ∧ ((live .degraded).cage 0).seq.state = .degraded ∧
      ((live .inService).cage 0).bus.seg = .connected ∧ ((live .hpWait).cage 0).seq.state = .hpWait ∧
      ((live .inService).cage 0).ciu.presence = .present ∧ ((cage0 id).cage 0).ciu.presence ≠ .present ∧
      ((live .draining).cage 0).seq.state = .draining ∧ ((live .empty).cage 0).seq.state = .empty ∧
      ((live .inService).cage 0).ciu.lines.rail = true ∧ (live .inService).NoPass .A :=
  ⟨takesFor (by decide), by decide, by decide, by decide, by decide, by decide, by decide, by decide, by decide,
    by decide, by decide, (no_pass .A).2⟩

/-- Cage 0 present with its rail off in a state. -/
def seated (st : SeqState) : State :=
  cage0 fun k => { k with ciu := { k.ciu with presence := .present }, seq := { k.seq with state := st } }

theorem meets_power_cycle_off :
    ((seated .admitWait).cage 0).ciu.presence = .present ∧ ((seated .admitWait).cage 0).ciu.lines.rail = false ∧
      ((seated .admitWait).cage 0).seq.state = .admitWait ∧ ((seated .parked).cage 0).seq.state = .parked ∧
      1500 ≤ ((seated .parked).group (groupOf 0)).budget ∧ ((poor (seated .parked)).cage 0).seq.state = .parked ∧
      ((poor (seated .parked)).group (groupOf 0)).budget < 1500 := by decide
theorem meets_reidentify :
    (moduleFaulted.cage 0).seq.state = .faulted ∧ (moduleFaulted.cage 0).seq.reason = some .notReady ∧
      (moduleFaulted.cage 0).ciu.lines.rail = true ∧ ((faulted .overdraw).cage 0).seq.state = .faulted ∧
      ((faulted .overdraw).cage 0).seq.reason = some .overdraw ∧
      ((parkedOn .master).cage 0).seq.state = .parked ∧ ((parkedOn .master).cage 0).ciu.lines.rail = true ∧
      (parkedOff.cage 0).seq.state = .parked ∧ (parkedOff.cage 0).ciu.lines.rail = false ∧
      (((live .inService).modSeq 0 fun q => { q with table := some ⟨0, 1, 3, 4, 4⟩ }).cage 0).seq.table =
        some ⟨0, 1, 3, 4, 4⟩ := by decide
theorem meets_module_read :
    (live .inService).TakesFor (ask .B 0 0 [0, 64, 64, 1]) 0 4 0 ∧ (2 ≤ (2 : Byte).toNat) ∧ (1 : Byte).toNat < 2 ∧
      64 < (65 : Byte).toNat ∧ inWindow 65 64 = false ∧ inWindow 64 64 = true ∧
      ((cage0 id).cage 0).ciu.presence ≠ .present ∧ ((live .inService).cage 0).ciu.presence = .present ∧
      ((seated .parked).cage 0).bus.seg ≠ .connected ∧ ((live .inService).cage 0).bus.seg = .connected :=
  ⟨takesFor (by decide), by decide, by decide, by decide, by decide, by decide, by decide, by decide, by decide,
    by decide⟩
theorem meets_module_write :
    (ask .B 0 0 [0, 248, 1, 2, 3, 4, 5, 6, 7, 8]).body = 0 :: 248 :: [1, 2, 3, 4, 5, 6, 7, 8] ∧
      (live .inService).TakesFor (ask .B 0 0 [0, 248, 1, 2, 3, 4, 5, 6, 7, 8]) 0 10 0 ∧ inWindow 248 8 = true ∧
      inWindow 249 8 = false ∧ (live .inService).TakesFor (ask .B 0 0 [0, 1]) 0 2 0 ∧
      ((live .inService).cage 0).seq.state = .inService ∧ ((live .hpWait).cage 0).seq.state = .hpWait ∧
      ((live .inService).cage 0).bus.seg = .connected :=
  ⟨rfl, takesFor (by decide), by decide, by decide, takesFor (by decide), by decide, by decide, by decide⟩

/-- The built-in map of 0x61 as written with one byte changed. -/
def mapRecord (n : Nat) (b : Byte) : List Byte := builtinMap61.bytes.set n b

/-- Cage 0 PARKED for want of a map of identifier 0x70, and a cage that holds entry 0 fixed. -/
def wantsMap : State :=
  (parkedOn .noFieldMap).modImage 0 fun i => { i with identity := { i.identity with ident := some 0x70 } }
def holdsMap : State :=
  (live .identify).modImage 0 fun i => { i with identity := { i.identity with mapIndex := some 0 } }

theorem meets_load :
    wantsMap.Takes (ask .A 7 0 (mapRecord 0 0x70)) 0 50 ∧ (ask .A 7 0 (mapRecord 0 0x70)).target.toNat = (7 : Fin 8).val ∧
      fieldMapOf (mapRecord 26 2) = none ∧
      ((fieldMapOf (mapRecord 3 5)).map fun m => m.clamp.legal) = some false ∧
      ((fieldMapOf (mapRecord 0 0x70)).map fun m => m.clamp.legal) = some true ∧
      wantsMap.duplicateIdent 7 0x61 = true ∧ wantsMap.duplicateIdent 7 0x70 = false ∧
      holdsMap.entryHeld 0 = true ∧ holdsMap.duplicateIdent 0 0x61 = false ∧ wantsMap.entryHeld 7 = false ∧
      (wantsMap.cage 0).wantsMap 0x70 = true ∧ (wantsMap.cage 31).wantsMap 0x70 = false ∧
      (wantsMap.cage 0).ciu.lines.rail = true ∧ (wantsMap.cage 0).bus.seg = .connected :=
  ⟨takes (by decide), by decide, by decide, by decide, by decide, by decide, by decide, by decide, by decide, by decide,
    by decide, by decide, by decide, by decide⟩
theorem meets_fetch :
    (cage0 id).Takes (ask .A 0 0 []) 0 0 ∧ ((cage0 id).port .A).list = ⟨none, 0x0010, some .powerOn⟩ :: [] ∧
      (((cage0 id).modPort .A fun x => { x with list := [] }).port .A).list = [] :=
  ⟨takes (by decide), by decide, by decide⟩
theorem meets_mask :
    (cage0 id).Takes (ask .A 0 0 [0xFF, 0, 1]) 0 3 ∧ (ask .A 0 0 [0xFF, 0, 1]).body = [0xFF, 0, 1] :=
  ⟨takes (by decide), rfl⟩
theorem meets_timing :
    (cage0 id).Takes (ask .B 0 1 [0, 255]) 1 2 ∧ (ask .B 0 1 [0, 255]).body = [0, 255] ∧ (ask .B 0 1 [0, 255]).port = .B ∧
      ∀ c, ((cage0 id).cage c).ciu.candidate = none :=
  ⟨takes (by decide), rfl, rfl, by decide⟩

theorem meets_debounce :
    (candidate (cage0 id) true).Takes (ask .B 0 1 [0, 20]) 1 2 ∧ (candidate (cage0 id) true).HeldFor 0 20 ∧
      ¬(candidate (cage0 id) true).HeldFor 0 21 ∧ (candidate (live .inService) false).HeldFor 0 20 ∧
      ¬(candidate (cage0 id) true).HeldFor 31 1 := by
  have no (s : State) (c : CageNo) (n : Nat)
      (h : (s.cage c).ciu.candidate.all (fun x => decide ((s.now - x.capture).toNat < n)) = true) : ¬s.HeldFor c n := by
    rintro ⟨x, hx, -, hn⟩
    rw [hx] at h
    simp only [Option.all_some, decide_eq_true_eq] at h
    omega
  exact ⟨takes (by decide), ⟨⟨true, 980⟩, by decide, by decide, by decide⟩, no _ _ _ (by decide),
    ⟨⟨false, 980⟩, by decide, by decide, by decide⟩, no _ _ _ (by decide)⟩
/-- No passthrough of either port waits, the candidate of cage 0 that is due included. -/
theorem meets_no_pass_timing (p : Port) : (candidate (cage0 id) true).NoPass p := by
  intro e
  have h : (candidate (cage0 id) true).engine e = idleEngine := by revert e; decide
  simp [h, idleEngine]
/-- R10, R98, R154: a removal that the new debounce time accepts at once ends the other port's waiting passthrough ABSENT. -/
theorem test_debounce_ends_passthrough :
    ((((candidate (live .inService) false).modEngine 0 fun e =>
        { e with waiting := [⟨0, 0, 2, 1, false, [], .port .A, 990, false, 990⟩] }).modPort .A fun x =>
          { x with reply := .pending 0x0D 0 }).changeDebounce 20 |>.port .A).reply = .answered .absent 0x0D 0 [] := by decide
theorem test_attention_line :
    ((cage0 id).attentionLine .A, ((cage0 id).modPort .A fun x => { x with deviceMask := 0x10 }).attentionLine .A) =
      (true, false) := by decide
/-- Group 0 with two entries waiting, of which a budget of 7250 covers one, and with cage 2 parked with BUDGET, unpowered or
powered. -/
def twoWait : State :=
  ((highWait.modGroup 0 fun g => { g with queue := [⟨0, .highPower, 7500, 0, 990, 990⟩, ⟨1, .lowPower, 1500, 0, 991, 991⟩] }).modSeq 1
    fun _ => clearCtx .admitWait).modSeq 2 fun q => { q with state := .parked, reason := some .budget }
def twoWaitOn : State := twoWait.modCage 2 fun k =>
  { k with ciu := { k.ciu with lines := ⟨true, false, true⟩ }, charge := 1500, bus := { k.bus with seg := .connected } }

theorem meets_budget :
    twoWait.Takes (ask .B 0 0 [0x1C, 0x52]) 0 2 ∧ (ask .B 0 0 [0x1C, 0x52]).body = [0x1C, 0x52] ∧
      (ask .B 0 0 [0x1C, 0x52]).target.toNat = (0 : GroupNo).val ∧
      (∀ e ∈ (twoWait.group 0).queue, groupOf e.cage = 0 ∧ (twoWait.cage e.cage).seq.state ≠ .parked) ∧
      ((twoWait.group 0).queue.map Entry.cage).Nodup ∧ 7250 < 7500 ∧ twoWait.BudgetCovers 0 2 7250 ∧
      (twoWait.cage 2).ciu.lines.rail = false ∧ twoWaitOn.BudgetCovers 0 2 7250 ∧
      (twoWaitOn.cage 2).ciu.lines.rail = true ∧ ¬twoWait.BudgetCovers 0 3 7250 :=
  ⟨takes (by decide), rfl, by decide, by decide, by decide, by decide, ⟨by decide, by decide, by decide, by decide⟩,
    by decide, ⟨by decide, by decide, by decide, by decide⟩, by decide,
    fun h => absurd h.2.1 (by decide)⟩
theorem meets_budget_resumes :
    twoWaitOn.Plain 2 ∧ twoWaitOn.Takes (ask .B 0 0 [0x05, 0xDC]) 0 2 ∧
      1500 < ((twoWaitOn.modGroup 0 fun g => { g with committed := 3000 }).group 0).committed ∧
      twoWaitOn.BudgetCovers 0 2 1500 :=
  ⟨.inl (by decide), takes (by decide), by decide, ⟨by decide, by decide, by decide, by decide⟩⟩
theorem meets_budget_fits :
    highWait.Takes (ask .B 0 0 [0xEA, 0x60]) 0 2 ∧ (∀ c, ¬highWait.BudgetCovers 0 c 60000) ∧
      (∀ e ∈ (highWait.group 0).queue, groupOf e.cage = 0 ∧ (highWait.cage e.cage).seq.state ≠ .parked) ∧
      (∀ e ∈ (highWait.group 0).queue, e.requested ≤ 60000) ∧ 1000 < (highWait.group 0).committed := by
  have h : ∀ c, (highWait.cage c).seq.state ≠ .parked := by decide
  exact ⟨takes (by decide), fun c x => h c x.2.1, by decide, by decide, by decide⟩
theorem meets_overrun :
    (pendingB (cage0 id) 0x0D).inReset = false ∧ ((pendingB (cage0 id) 0x0D).port .B).busy = true ∧
      encodeTransaction (.readDevice (ask .B 0 0 [])) = some (.B, [0x15, 0, 0, 0]) ∧
      ([0x15, 0, 0, 0] : List Byte) ≠ [] := by decide
theorem meets_bad :
    (cage0 id).inReset = false ∧ ((cage0 id).port .A).busy = false ∧ (Instr.unknownRequest .A [0, 1, 2, 3]).wf = true ∧
      (Instr.unknownRequest .A [1, 2, 3]).wf = true ∧ (cage0 id).TakesFor (ask .A 31 0 [3]) 0 1 31 ∧
      (cage0 id).Takes (ask .B 0 0 [5, 0, 0]) 0 3 ∧ (⟨.A, 0, 1, []⟩ : Req).len.toNat ≠ (⟨.A, 0, 1, []⟩ : Req).body.length ∧
      32 ≤ (ask .A 32 0 []).target.toNat ∧ (cage0 id).Takes (ask .A 32 0 []) 0 0 :=
  ⟨by decide, by decide, by decide, by decide, takesFor (by decide), takes (by decide), by decide, by decide,
    takes (by decide)⟩

theorem meets_bad_rows :
    Instr.wf (.readGroup (ask .A 8 0 [])) = true ∧
      encodeTransaction (.readGroup (ask .A 8 0 [])) = some (.A, 0x0C :: 8 :: 0 :: 0 :: []) ∧
      requestForm 0x0C = some ⟨.group, 0, 0, [.A, .B]⟩ ∧
      encodeTransaction (.loadFieldMap (ask .B 255 0 (List.replicate 50 0))) =
        some (.B, 0x0F :: 255 :: 0 :: 50 :: List.replicate 50 0) ∧
      requestForm 0x0F = some ⟨.entry, 50, 50, [.A, .B]⟩ ∧
      encodeTransaction (.decideBadDecision (ask .A 32 0 [9])) = some (.A, 4 :: 32 :: 0 :: 1 :: [9]) ∧
      encodeTransaction (.decideBadDecision (ask .A 0 0 [9, 9])) = some (.A, 4 :: 0 :: 0 :: 2 :: [9, 9]) ∧
      encodeTransaction (.decideRestore ⟨.A, 0, 3, []⟩) = some (.A, 4 :: 0 :: 0 :: 3 :: [0]) ∧
      requestForm 0x04 = some ⟨.cage, 1, 1, [.A, .B]⟩ ∧
      encodeTransaction (.moduleWrite (ask .A 0 0 [7])) = some (.A, 0x0E :: 0 :: 0 :: 1 :: [7]) ∧
      requestForm 0x0E = some ⟨.cage, 2, 65535, [.A, .B]⟩ ∧
      encodeTransaction (.setBudget (ask .A 0 0 [1, 2])) = some (.A, 0x13 :: 0 :: 0 :: 2 :: [1, 2]) ∧
      requestForm 0x13 = some ⟨.group, 2, 2, [.B]⟩ := by decide
theorem test_bad_group :
    leaves (.setBudget (ask .B 8 0 [0, 0])) (cage0 id) (fun t =>
      decide ((t.port .B).reply = .answered .badRequest 0x13 8 [])) = true := by decide

/-! ### Hypotheses met: module buses -/

/-- A read of ten bytes, one of page 16, and a write of ten bytes. -/
def longRead : Item := { readB with offset := 200, page := 16, len := 10 }
def longWrite : Item := { writeB with len := 10, data := List.replicate 10 7 }

theorem meets_bus :
    (carrying (carryOf longRead)).inReset = false ∧
      ((carrying (carryOf longRead)).engine 0).current = some (carryOf longRead) ∧ engineOf (carryOf longRead).item.cage = 0 ∧
      (carryOf longRead).pause = none ∧ (carryOf longRead).holdWait = none ∧ (carryOf longRead).clockLow = none ∧
      (carryOf longRead).ending = false ∧ { carryOf longRead with phase := .pageSelect }.phase = .pageSelect ∧
      8 = min (carryOf longRead).map.burst (10 - 0) ∧ (carryOf longRead).done + 8 < 10 ∧
      (carryOf longRead).item.write = false ∧ (List.replicate 8 (0 : Byte)).length = 8 ∧
      8 = min (carryOf longWrite).map.burst (10 - 0) ∧ (carryOf longWrite).item.write = true := by
  decide

/-- A read of page 16 that is to put page 3 back, in its last burst and in the restore write. -/
def backRead : Carry :=
  { carryOf { readB with offset := 200, page := 16, restore := true } with prior := some 3 }
def backWrite : Carry := { backRead with phase := .restorePage, got := [1, 2, 3, 4] }

theorem meets_bus_back :
    backRead.PutsBack ∧ backRead.phase = .burst ∧ 4 = min backRead.map.burst (4 - 0) ∧ backRead.item.len ≤ backRead.done + 4 ∧
      ([1, 2, 3, 4] : List Byte).length = 4 ∧ ((carrying backRead).engine 0).current = some backRead ∧
      backWrite.EndsWith [] [1, 2, 3, 4] :=
  ⟨⟨by decide, by decide, by decide, 3, rfl, by decide⟩, by decide, by decide, by decide, by decide, by decide,
    .inr ⟨rfl, rfl⟩⟩
theorem ends_plain {k : Carry} (h : k.item.restore = false) : ¬k.PutsBack := fun x => absurd (h.symm.trans x.1) (by decide)
theorem meets_bus_end :
    (carryOf readB).EndsWith [1, 2, 3, 4] [1, 2, 3, 4] ∧ (carryOf readB).item.who = .port .B ∧
      ((carrying (carryOf readB)).port .B).reply = .pending 0x0D 0 :=
  ⟨.inl ⟨by decide, ends_plain rfl, by decide, fun _ => by decide, by decide⟩, rfl, by decide⟩

/-- Engine 0 carrying the read of the identifier, or a poll, of cage 0 in a state with an access. -/
def carriesFor (who : Requester) (st : SeqState) (a : Access) : State :=
  (live0 fun q => { q with state := st, access := a }).modEngine 0 fun g =>
    { g with current := some (carryOf ⟨0, 0, 0, 1, false, [], who, 1000, false, 1000⟩), selected := some 0 }

theorem meets_bus_seq :
    ((carriesFor .seq .identify .ident).engine 0).current = some (carryOf ⟨0, 0, 0, 1, false, [], .seq, 1000, false, 1000⟩) ∧
      (carryOf ⟨0, 0, 0, 1, false, [], .seq, 1000, false, 1000⟩).EndsWith [0x61] [0x61] ∧
      ((carriesFor .seq .identify .ident).cage 0).seq.state ≠ .draining ∧
      ((carriesFor .seq .identify .ident).cage 0).bus.seg = .connected ∧
      ((carriesFor .seq .identify .ident).cage 0).seq.access = .ident :=
  ⟨by decide, .inl ⟨by decide, ends_plain rfl, by decide, fun _ => by decide, by decide⟩, by decide, by decide, by decide⟩
theorem meets_bus_poll :
    ((carriesFor .poll .inService .none).engine 0).current = some (carryOf ⟨0, 0, 0, 1, false, [], .poll, 1000, false, 1000⟩) ∧
      (carryOf ⟨0, 0, 0, 1, false, [], .poll, 1000, false, 1000⟩).EndsWith [5] [5] ∧
      ((carriesFor .poll .inService .none).cage 0).seq.state ≠ .draining :=
  ⟨by decide, .inl ⟨by decide, ends_plain rfl, by decide, fun _ => by decide, by decide⟩, by decide⟩

/-- The outcome of each access is taken in a state that has it: the clauses of `SeqTook` that go on need no more than a
CONNECTED segment; of those with conditions of their own, one value each is met here. -/
theorem meets_outcomes :
    (live .identify).MapFound 0x62 1 builtinMap62 ∧ (live .identify).MapMissing 0x63 ∧
      builtinMap61.Next .grade .hpDuration builtinMap61.hpDuration ∧ builtinMap61.Last .maxAmp ∧
      (moduleFaulted.cage 0).charge ≤ 1500 ∧ (live .configure).laneCount 0 ≤ 0 ∧ 7 < (linkOver none 0).laneCount 0 ∧
      (live .configure).summary 0 ≠ .allUp ∧ (linkOver none (BitVec.allOnes 256)).summary 0 = .allUp := by
  refine ⟨⟨by decide, by decide, fun i hi x hx => ?_⟩, fun i x hx => ?_, ?_, ?_, by decide, by decide, by decide, by decide,
    by decide⟩
  · obtain rfl : i = 0 := by clear hx; revert hi; revert i; decide
    have h : (live .identify).fieldMaps[(0 : Fin 8)] = some builtinMap61 := by decide
    obtain rfl : builtinMap61 = x := by simpa using h.symm.trans hx
    decide
  · have h : (live .identify).fieldMaps[i].all (fun x => decide (x.ident ≠ 0x63)) = true := by
      clear hx; revert i; decide
    rw [hx] at h
    simpa using h
  · exact ⟨[.vendor, .part, .serial], [], [.breakouts, .eqRec, .maxAmp], rfl, by simp, rfl⟩
  · exact ⟨[.vendor, .part, .serial, .grade, .hpDuration, .breakouts, .eqRec], [], rfl, by simp⟩
theorem meets_bus_cancelled :
    ((carrying { carryOf { readB with who := .seq } with cancelled := true }).engine 0).current =
        some { carryOf { readB with who := .seq } with cancelled := true } ∧
      ({ carryOf { readB with who := .seq } with cancelled := true } : Carry).EndsWith [1, 2, 3, 4] [1, 2, 3, 4] :=
  ⟨by decide, .inl ⟨by decide, ends_plain rfl, by decide, fun _ => by decide, by decide⟩⟩
theorem test_seq_ident :
    leaves (.busTransactionComplete 0 [0x61]) (carriesFor .seq .identify .ident) (fun t =>
      decide ((t.cage 0).image.identity.mapIndex = some 0 ∧ (t.cage 0).seq.access = .readyFlag)) = true := by decide
theorem meets_nacks :
    (carryOf readB).pause = none ∧ { carryOf readB with attempts := 1 }.attempts + 1 < 3 ∧
      3 ≤ { carryOf readB with attempts := 2 }.attempts + 1 ∧
      { carryOf readB with pause := some 999 }.pause = some 999 ∧ 1 ≤ ((carrying (carryOf readB)).now - 999).toNat ∧
      ((carrying (carryOf readB)).now - 1000).toNat < 1 ∧ (carryOf writeB).item.write = true ∧
      ((carrying (carryOf writeB)).port .B).reply = .pending 0x0D 0 ∧ (carryOf writeB).phase ≠ .restorePage ∧
      backWrite.phase = .restorePage ∧ ((carrying backWrite).cage 0).seq.state ≠ .draining := by decide
theorem meets_nack_outcomes :
    ({ carryOf ⟨0, 0, 0, 1, false, [], .seq, 1000, false, 1000⟩ with attempts := 2 } : Carry).attempts + 1 = 3 ∧
      ((carriesFor .seq .identify (.identity .part)).cage 0).seq.access = .identity .part ∧
      ((carriesFor .seq .identify (.identity .part)).cage 0).seq.state ≠ .draining ∧
      ((carriesFor .poll .inService .none).cage 0).seq.state ≠ .draining := by decide
theorem meets_stuck :
    ((carrying { carryOf readB with clockLow := some 974 }).engine 0).current =
        some { carryOf readB with clockLow := some 974 } ∧
      25 < ((carrying (carryOf readB)).now - 974).toNat ∧ ((carrying (carryOf readB)).now - 975).toNat ≤ 25 ∧
      ((carrying (carryOf readB)).port .B).reply = .pending 0x0D 0 ∧ (carryOf readB).item.who = .port .B ∧
      ((carrying (carryOf readB)).cage 0).seq.state ≠ .draining ∧
      (∀ i ∈ ((carrying (carryOf readB)).engine 0).waiting, i.cage = 0 → i.who ≠ .seq) := by decide

/-- Engine 0 carrying a poll of cage 0 with the clock low, a passthrough of cage 0 waiting, or a SEQ item. -/
def stuckPoll (w : Item) : State :=
  (pendingB (carriesFor .poll .inService .none) 0x0D).modEngine 0 fun g =>
    { g with
      current := some { carryOf ⟨0, 0, 0, 1, false, [], .poll, 1000, false, 1000⟩ with clockLow := some 974 }
      waiting := [w] }

theorem meets_stuck_waiting :
    (∃ i ∈ ((stuckPoll readB).engine 0).waiting, i.cage = 0 ∧ i.who = .port .B) ∧
      ((stuckPoll readB).port .B).reply = .pending 0x0D 0 ∧
      (∃ i ∈ ((stuckPoll { readB with who := .seq }).engine 0).waiting, i.cage = 0 ∧ i.who = .seq) ∧
      ((stuckPoll readB).cage 0).seq.state ≠ .draining ∧
      ¬∃ i ∈ ((stuckPoll readB).engine 0).waiting, i.cage = 0 ∧ i.who = .poll := by decide

/-- Cage 0 draining, its segment held for the item that engine 0 carries, with the slot over or not. -/
def drainCarries (n : Nat) (ended : Bool) : State :=
  (carrying { carryOf readB with ending := true }).modSeq 0 fun q =>
    { q with
      state := .draining
      dest := some .empty
      slot := n
      topSlot := 4
      busRelease := true
      timers := { slot := some (if ended then due else early) } }

theorem meets_item_end :
    ((drainCarries 4 true).engine 0).current = some { carryOf readB with ending := true } ∧
      ({ carryOf readB with ending := true } : Carry).clockLow = none ∧
      ((drainCarries 4 true).port .B).reply = .pending 0x0D 0 ∧ ((drainCarries 4 true).cage 0).seq.state = .draining ∧
      ((drainCarries 4 true).cage 0).seq.busRelease = true ∧ ((drainCarries 4 true).cage 0).seq.slot = 3 + 1 ∧
      Reached ((drainCarries 4 true).cage 0).seq.timers.slot (drainCarries 4 true).now ∧
      ((drainCarries 0 false).cage 0).seq.slot = 0 :=
  ⟨by decide, by decide, by decide, by decide, by decide, by decide, ⟨due, by decide, by decide⟩, by decide⟩
theorem test_item_end :
    leaves (.itemEndAtByteBoundary 0) (drainCarries 4 true) (fun t =>
      decide ((t.cage 0).bus.seg = .disconnected ∧ (t.cage 0).seq.slot = 3 ∧
        t.portB.reply = .answered .absent 0x0D 0 [])) = true := by decide
theorem meets_hold_off :
    Reached (((live .inService).modBus 0 fun b => { b with hold := some due }).cage 0).bus.hold
        ((live .inService).modBus 0 fun b => { b with hold := some due }).now ∧
      (((live .inService).modBus 0 fun b => { b with hold := some due }).engine (engineOf 0)).current = none :=
  ⟨⟨due, by decide, by decide⟩, by decide⟩

/-- A write of ten bytes that waits out the hold-off between two bursts. -/
def holdWrite : Carry := { carryOf longWrite with done := 8, holdWait := some due }

theorem meets_hold_write :
    ((carrying holdWrite).engine (engineOf 0)).current = some holdWrite ∧ holdWrite.item.cage = 0 ∧
      Reached holdWrite.holdWait (carrying holdWrite).now ∧ holdWrite.ending = false ∧
      ({ holdWrite with ending := true } : Carry).ending = true ∧ holdWrite.item.who = .port .B ∧
      ((carrying { holdWrite with ending := true }).port .B).reply = .pending 0x0D 0 ∧
      ¬Reached ({ holdWrite with holdWait := some early } : Carry).holdWait (carrying holdWrite).now := by
  refine ⟨by decide, by decide, ⟨due, rfl, by decide⟩, by decide, by decide, by decide, by decide, ?_⟩
  rintro ⟨x, hx, hl⟩
  obtain rfl : early = x := by simpa using hx
  exact absurd hl (by decide)
theorem test_hold_write :
    leaves (.holdOffExpiry 0) (carrying holdWrite) (fun t =>
      decide (((t.engine 0).current.map fun k => k.holdWait) = some none)) = true := by decide

/-! ### Hypotheses met: rail monitor, link stream, derivations -/

/-- Cage 0 at the scan with its rail on throughout, its rail monitor changed. -/
def scanned (st : SeqState) (f : Rlm → Rlm) : State := (live st).modRlm 0 fun r => f { r with onPair := true }

theorem meets_pair :
    (scanned .powering id).inReset = false ∧ (scanned .powering id).scanCage = 0 ∧
      ((scanned .powering id).cage 0).rlm.onPair = true ∧ ((scanned .powering id).cage 0).ciu.lines.rail = true ∧
      ((scanned .powering id).cage 0).rlm.pg = .notYet ∧ 785 ≤ (785 : BitVec 10).toNat ∧
      ((scanned .powering id).cage 0).rlm.window.length < 3 ∧ ((scanned .powering id).cage 0).seq.state = .powering ∧
      ((cage0 id).cage 0).rlm.onPair = false ∧
      ((scanned .powering fun r => { r with onPair := false }).cage 0).rlm.onPair = false := by decide

/-- Cage 0 in POWERING at the scan: in slot 0, which is over, and still in it. -/
def pgWaits (t : Timer) (bus : Nat) : State := (scanned .powering id).modSeq 0 fun q =>
  { q with stage := .pgWait, slot := 0, table := some ⟨0, bus, 3, 4, 4⟩, timers := { slot := some t } }

theorem meets_pair_power_good :
    ((pgWaits due 1).cage 0).seq.state = .powering ∧ ((pgWaits due 1).cage 0).seq.slot = 0 ∧
      Reached ((pgWaits due 1).cage 0).seq.timers.slot (pgWaits due 1).now ∧
      ((pgWaits due 1).cage 0).seq.table = some ⟨0, 1, 3, 4, 4⟩ ∧ 1 < max 5 4 ∧
      ¬Reached ((pgWaits early 1).cage 0).seq.timers.slot (pgWaits early 1).now ∧
      ¬((scanned .powering id).cage 0).rlm.Reports 785 1570 20 .railFail := by
  refine ⟨by decide, by decide, ⟨due, by decide, by decide⟩, by decide, by decide, ?_, ?_⟩
  · rintro ⟨x, hx, hl⟩
    have h : ((pgWaits early 1).cage 0).seq.timers.slot = some early := by decide
    obtain rfl : early = x := by simpa using h.symm.trans hx
    exact absurd hl (by decide)
  · rintro ⟨-, h⟩
    rcases h with ⟨-, h, -⟩ | ⟨h, -⟩
    · exact absurd h (by decide)
    · exact absurd h (by decide)
theorem test_pair_starts_slot :
    leaves (.pairComplete 785 100) (pgWaits due 1) (fun t =>
      decide ((t.cage 0).seq.slot = 1 ∧ (t.cage 0).bus.seg = .connected)) = true := by decide
theorem meets_pair_adopting :
    (((scanned .adopting id).modSeq 0 fun q => { q with adopted := true }).cage 0).seq.adopted = true ∧
      ((scanned .adopting id).cage 0).seq.state = .adopting ∧ ((scanned .adopting id).cage 0).seq.pgHeld = false ∧
      ((scanned .adopting id).cage 0).bus.seg = .connected ∧ ((scanned .adopting id).cage 0).seq.adopted = false ∧
      ((scanned .hpWait id).cage 0).seq.state ≠ .powering ∧ ((scanned .hpWait id).cage 0).seq.state ≠ .adopting := by
  decide
theorem meets_pair_faults :
    ((scanned .inService fun r => { r with pg := .good }).cage 0).rlm.Reports 759 1 20 .railFail ∧
      ((scanned .inService id).cage 0).rlm.Reports 1000 20001 20 .overdraw ∧
      ((scanned .inService fun r => { r with window := [9000, 9000, 9000, 9000], run := 2 }).cage 0).rlm.Reports 800 9000 20
        .overdraw ∧
      ((scanned .inService id).cage 0).seq.state ≠ .draining ∧ ((scanned .draining id).cage 0).seq.state = .draining ∧
      (((scanned .draining id).modSeq 0 fun q => { q with dest := some .admitWait }).cage 0).seq.dest = some .admitWait ∧
      ((scanned .draining id).cage 0).seq.dest ≠ some .admitWait := by
  refine ⟨⟨by decide, .inl (by decide)⟩, ⟨by decide, .inr ⟨rfl, by decide, .inl (by decide)⟩⟩,
    ⟨by decide, .inr ⟨rfl, by decide, .inr ⟨⟨by decide, 1500, by decide, by decide⟩, by decide⟩⟩⟩, by decide, by decide,
    by decide, by decide⟩
theorem meets_pair_run :
    ((scanned .inService fun r => { r with window := [9000, 9000, 9000] }).cage 0).rlm.GoesOver 9000 20 ∧
      ((scanned .inService fun r => { r with window := [9000, 9000, 9000] }).cage 0).rlm.reported = false ∧
      (windowWith [1, 2, 3] 4).length = 4 ∧ (windowWith [1, 2] 4).length < 4 ∧
      ((scanned .inService id).cage 0).rlm.basis ≠ none := by
  refine ⟨⟨by decide, 1500, by decide, by decide⟩, by decide, by decide, by decide, by decide⟩

/-- A link stream that received its last valid frame at a time. -/
def stream (t : Stamp) : State := { State.reset with now := 1000, lsr := ⟨true, some 1, some 3, some t, some [true]⟩ }

theorem meets_stream :
    (stream 950).inReset = false ∧ (stream 950).lsr.reception = some [true] ∧
      ([true] : List Bool).length + (List.replicate 255 false).length = 256 ∧
      ([true] : List Bool).length + ([] : List Bool).length ≠ 256 ∧ (stream 950).lsr.live = true ∧
      (stream 950).lsr.accepted = some 1 ∧ (stream 950).lsr.previous = some 3 ∧ (cage0 id).lsr.reception = none ∧
      (cage0 id).lsr.live = false ∧ (stream 950).lsr.lastValid = some 950 ∧ 50 ≤ ((stream 950).now - 950).toNat ∧
      ((stream 951).now - 951).toNat < 50 := by
  refine ⟨rfl, rfl, by simp, by decide, rfl, rfl, rfl, rfl, rfl, rfl, by decide, by decide⟩

/-- A STALE stream that is to become LIVE, and cage 0 in service following one. -/
def staleStream : State := { State.reset with now := 1000, lsr := ⟨false, none, none, none, some []⟩ }
def follows : State :=
  { linkOver none 0x10 with lsr := ⟨true, some 0x10, some 0x10, some 999, some []⟩ }

theorem meets_stream_back :
    staleStream.inReset = false ∧ staleStream.lsr.live = false ∧ staleStream.lsr.reception = some [] ∧
      ([] : List Bool).length + (List.replicate 256 true).length = 256 := by
  refine ⟨rfl, rfl, rfl, by simp⟩
theorem meets_stream_slots : follows.UsesSlot 0 0 ∧ follows.UsesSlot 0 4 ∧ follows.lsr.accepted = some 0x10 :=
  ⟨⟨0, by decide, by decide⟩, ⟨1, by decide, by decide⟩, rfl⟩

/-- Cage 0 in a state following the link, eight lanes as two ports, both up. -/
def linked (st : SeqState) (f : Ctx → Ctx) (up : BitVec 256) : State :=
  { (live0 fun q => f { q with state := st }).modImage 0 fun i =>
      { i with breakout := some 2, identity := { i.identity with laneCount := some 8 } } with
    lsr := ⟨true, some up, some up, some 999, some []⟩ }

theorem meets_link_evaluated :
    ((linked .linkWait id 0x11).cage 0).seq.state = .linkWait ∧ (linked .linkWait id 0x11).summary 0 = .allUp ∧
      ((linked .linkWait id 0x11).cage 0).seq.learnPending = false ∧
      ((linked .linkWait (fun q => { q with learnPending := true }) 0x11).cage 0).seq.learnPending = true ∧
      ((linked .linkWait id 0x11).cage 0).bus.seg = .connected ∧ 0 < (linked .linkWait id 0x11).laneCount 0 ∧
      (linked .linkWait id 0x10).summary 0 ≠ .allUp ∧ ((linked .inService id 0x10).cage 0).seq.state = .inService ∧
      (linked .inService id 0x10).summary 0 ≠ .unknown ∧
      ((linked .inService id 0x10).cage 0).seq.lastKnown ≠ some ((linked .inService id 0x10).summary 0) ∧
      ((linked .degraded (fun q => { q with reason := some .streamLost }) 0x11).cage 0).seq.reason = some .streamLost ∧
      ((linked .degraded (fun q => { q with lastKnown := some .noneUp, reason := some .linkDown }) 0).cage 0).seq.lastKnown =
        some ((linked .degraded (fun q => { q with lastKnown := some .noneUp, reason := some .linkDown }) 0).summary 0) := by
  decide

/-- A learning that is due on a segment: cage 0 in LINK_WAIT at high power, eight lanes, both ports up. -/
def learnsOn (seg : Segment) : State :=
  ((linked .linkWait (fun q => { q with learnPending := true }) 0x11).modCage 0 fun k =>
    { k with charge := 7500, bus := { k.bus with seg := seg } }).modGroup 0 fun g => { g with committed := 7500 }

/-- R37, R38, R107, R116, R117: on a STUCK segment ALL_UP is the module fault BUS_STUCK, and the committed charge falls. -/
theorem test_learning_on_stuck :
    (((learnsOn .stuck).evalLink 0).cage 0).seq.reason = some .busStuck ∧
      (((learnsOn .stuck).evalLink 0).group 0).committed = 1500 ∧
      (((learnsOn .connected).evalLink 0).group 0).committed = 7500 := by decide

theorem meets_link_frames :
    (∀ c, groupOf c = 0 → (learnsOn .connected).LearningDue c → ((learnsOn .connected).cage c).bus.seg ≠ .stuck) ∧
      (learnsOn .stuck).LearningDue 0 ∧ ((learnsOn .stuck).cage 0).bus.seg = .stuck ∧
      (∀ c, groupOf c = 1 → (learnsOn .stuck).LearningDue c → ((learnsOn .stuck).cage c).bus.seg ≠ .stuck) ∧
      (∀ c, engineOf c = 0 → ¬(linked .linkWait id 0x11).LearningDue c) ∧
      ∀ c, engineOf c = 3 → ¬(learnsOn .stuck).LearningDue c := by
  unfold State.LearningDue
  decide

/-- Cage 0 with a class, a decision and a tuned list, and what its module advertises. -/
def planned (d : Decision) (k : MatchClass) : State :=
  ((live0 fun q => { q with decision := some d, cls := some k }).modProfile 0 fun p =>
    { p with valid := true, tuned := some (List.replicate 8 ⟨3, 2⟩) }).modImage 0 fun i =>
      { i with identity := { i.identity with eqRec := some (List.replicate 8 15), maxAmp := some 1 } }

/-- Cage 0 of eight lanes whose module takes 1, 2 and 4 ports, its profile asking for a breakout. -/
def breaksOut (n : Nat) : State :=
  ((live .configure).modProfile 0 fun p => { p with valid := true, breakout := n }).modImage 0 fun i =>
    { i with breakout := some 2, identity := { i.identity with laneCount := some 8, breakouts := some 0x07 } }

theorem meets_plan :
    ((planned .restore .sameUnit).cage 0).seq.decision ≠ some .adoptNew ∧
      ((planned .restore .sameUnit).cage 0).seq.cls = some .sameUnit ∧
      ((planned .restore .sameUnit).profile 0).tuned = some (List.replicate 8 ⟨3, 2⟩) ∧
      ((planned .restore .sameType).cage 0).seq.cls ≠ some .sameUnit ∧
      ((planned .adoptNew .newType).cage 0).seq.decision = some .adoptNew ∧
      ((planned .adoptNew .newType).cage 0).image.identity.eqRec = some (List.replicate 8 15) ∧
      ((planned .adoptNew .newType).cage 0).image.identity.maxAmp = some 1 ∧
      ((live .hpWait).cage 0).image.identity.eqRec = none ∧ ((live .hpWait).cage 0).image.identity.maxAmp = none := by
  decide
theorem meets_plan_lanes :
    ((planned .restore .sameUnit).profile 0).lanes[0]? = some ⟨0, 8, 1, .follow⟩ ∧
      ((planned .restore .sameUnit).profile 0).lanes[7]? = some ⟨0, 8, 1, .follow⟩ ∧
      (List.replicate 8 (⟨3, 2⟩ : LanePair))[7]? = some ⟨3, 2⟩ ∧ (List.replicate 8 (15 : Nat))[7]? = some 15 ∧
      ((planned .restore .sameUnit).modProfile 0 fun p => { p with tuned := none }).profile 0 =
        { (planned .restore .sameUnit).profile 0 with tuned := none } ∧
      ((live .hpWait).cage 0).profile.valid = false := by decide
theorem meets_plan_breakout :
    ((breaksOut 4).cage 0).image.identity.breakouts = some 0x07 ∧ ((breaksOut 4).cage 0).profile.valid = true ∧
      BreakoutFits 0x07 ((breaksOut 4).laneCount 0) 4 ∧ ¬BreakoutFits 0x07 ((breaksOut 8).laneCount 0) 8 ∧
      ((breaksOut 8).cage 0).image.breakout = some 2 :=
  ⟨by decide, by decide, ⟨⟨2, by decide, by decide, by decide⟩, by decide⟩, fun h => by
    obtain ⟨⟨n, hn, hp, hb⟩, -⟩ := h
    have : n = 3 := by interval_cases n <;> simp_all
    subst this
    exact absurd hb (by decide), by decide⟩
theorem test_plan_saturates :
    ((planned .restore .sameUnit).lanePlan 0 7, (planned .adoptNew .newType).lanePlan 0 0) =
      (⟨3, 1, false, true⟩, ⟨15, 1, false, false⟩) := by decide

/-- A unit, and a profile that remembers it. -/
def unit1 : LastUnit := ⟨0x61, [1], [2], [3], 4⟩
def remembers (tuned : Option (List LanePair)) : Profile :=
  { builtinProfile with valid := true, lastUnit := some unit1, tuned := tuned }
def seen (serial : Byte) : Identity :=
  { emptyIdentity with ident := some 0x61, vendor := some [1], part := some [2], serial := some [serial] }

theorem meets_class :
    builtinProfile.valid = false ∧ (remembers none).valid = true ∧ (remembers none).lastUnit = some unit1 ∧
      (remembers none).tuned = none ∧ (remembers (some [])).tuned ≠ none ∧
      ({ remembers none with lastUnit := none } : Profile).lastUnit = none ∧
      ((seen 3).ident = some unit1.ident ∧ (seen 3).vendor = some unit1.vendor ∧ (seen 3).part = some unit1.part) ∧
      (seen 3).serial = some unit1.serial ∧ (seen 9).serial ≠ some unit1.serial ∧
      ¬(emptyIdentity.ident = some unit1.ident ∧ emptyIdentity.vendor = some unit1.vendor ∧
        emptyIdentity.part = some unit1.part) := by decide
/-- Cage 0 whose module was put back a time after its removal at 0. -/
def reseated (t : Stamp) : State :=
  ((live0 fun q => { q with insertion := some t }).modOutage 0 fun o => { o with removal := some 0 })

theorem meets_window :
    (reseated 300000).WindowMet 0 ∧ ¬(reseated 300001).WindowMet 0 ∧
      (live0 fun q => { q with sinceAdoption := true }).WindowMet 0 :=
  ⟨.inr ⟨0, 300000, by decide, by decide, by decide⟩, by
    rintro (h | ⟨r, t, hr, ht, h⟩)
    · exact absurd h (by decide)
    · have hr' : some (0 : Stamp) = some r := hr
      have ht' : some (300001 : Stamp) = some t := ht
      cases hr'
      cases ht'
      exact absurd h (by decide), .inl (by decide)⟩
theorem test_class :
    (classOf (remembers (some [])) (seen 3) true, classOf (remembers (some [])) (seen 3) false,
      classOf (remembers none) (seen 3) true) =
      ((.sameUnit, false), (.sameType, true), (.sameType, false)) := by decide

end Sys2Proof.Tests
end

section
/-! The steps of the part in general: the tick, the power-on values, and what a held reset pin keeps off. -/

namespace Sys2Proof.Machine

/-! ### Members of a state whose vectors are changed alike -/

theorem onEach_getElem {α β : Type} {n : Nat} (f : α → β) (v : Vector α n) (i : Fin n) : (onEach f v)[i] = f v[i] := by
  simp

/-! ### Power-on values (R186) -/

theorem State.poweredOn_cage (s : State) (c : CageNo) :
    s.poweredOn.cage c = powerOnCage (s.cage c).ciu.presentPin (s.cage c).ciu.attentionPin :=
  onEach_getElem _ _ _

theorem State.poweredOn_group (s : State) (g : GroupNo) : s.poweredOn.group g = powerOnGroup (s.group g).feedPin :=
  onEach_getElem _ _ _

theorem State.poweredOn_engine (s : State) (e : EngineNo) : s.poweredOn.engine e = idleEngine := by
  simp [State.poweredOn, State.reset, State.engine]

theorem State.poweredOn_port (s : State) (p : Port) :
    s.poweredOn.port p = { resetPort with list := [restartedEntry .powerOn] } := by
  cases p <;> rfl

/-- The state the model starts in is a part after power-on with every input line released. -/
theorem State.reset_poweredOn : State.reset.poweredOn = State.reset := by
  simp [State.poweredOn, State.reset, powerOnCage, powerOnCiu, powerOnGroup]

/-- R160: the entries of the field map table above the two built-in ones are empty. -/
theorem State.fieldMaps_reset : ∀ i : Fin 8, 2 ≤ i.val → State.reset.fieldMaps[i] = none := by decide

theorem State.poweredOn_spec (s : State) : s.poweredOn.PoweredOn where
  time := ⟨rfl, rfl, rfl, rfl⟩
  settings := rfl
  scan := ⟨rfl, rfl⟩
  maps := ⟨rfl, rfl, State.fieldMaps_reset⟩
  stream := rfl
  ports := s.poweredOn_port
  groups := fun g => by simp [s.poweredOn_group, powerOnGroup]
  engines := s.poweredOn_engine
  lines := fun c => by simp [s.poweredOn_cage, powerOnCage, powerOnCiu]
  presence := fun c => by simp [s.poweredOn_cage, powerOnCage, powerOnCiu]
  context := fun c => by simp [s.poweredOn_cage, powerOnCage]
  profiles := fun c => by simp [s.poweredOn_cage, powerOnCage]
  records := fun c => by simp [s.poweredOn_cage, powerOnCage, emptyOutage]
  rails := fun c => by simp [s.poweredOn_cage, powerOnCage]
  segments := fun c => by simp [s.poweredOn_cage, powerOnCage]
  images := fun c => by simp [s.poweredOn_cage, powerOnCage]

/-! ### The state the model starts in -/

theorem State.reset_cage (c : CageNo) : State.reset.cage c = powerOnCage false false := by
  simp [State.reset, State.cage]

theorem State.reset_group (g : GroupNo) : State.reset.group g = powerOnGroup false := by
  simp [State.reset, State.group]

theorem State.reset_engine (e : EngineNo) : State.reset.engine e = idleEngine := by
  simp [State.reset, State.engine]

/-- R20, R22: the built-in profile is in range. -/
theorem builtinProfile_inRange : builtinProfile.InRange := by
  simp [Profile.InRange, builtinProfile, builtinSlots, SlotTable.legal, LaneEntry.InRange]

theorem State.reset_queuesHold : State.reset.QueuesHold where
  reset := fun h => absurd h (by decide)
  own := fun g e he => by simp [State.reset_group, powerOnGroup] at he
  once := fun c => by simp [State.QueuedOnce, State.reset_group, State.reset_cage, powerOnGroup, powerOnCage, clearCtx]
  quiet := fun c => by
    simp [State.WaitsQuietly, State.NoAccess, State.reset_cage, State.reset_engine, powerOnCage, clearCtx, idleEngine,
      SeqState.powered, Ctx.moduleFaulted]

/-! ### The reset pin holds commands off (R186) -/

theorem event_held {s : State} (h : s.inReset = true) (f : State → State) : event s f = .next s := by
  simp [event, h]

theorem act_held {s : State} (h : s.inReset = true) (f : State → State) : act s f = .next s := event_held h _

theorem expiry_held {s : State} (h : s.inReset = true) (g : Bool) (f : State → State) : expiry s g f = .next s := by
  simp [expiry, act_held h]

end Sys2Proof.Machine

namespace Sys2Proof.Proofs

open Sys2Proof.Machine

/-- Settles O2: the tick is the step on an empty queue. -/
theorem idleStepCountsTime : Obligations.IdleStepCountsTime := by
  intro s hs
  simp [step, hs, State.tick]

/-- Settles O3: the state the model starts in is itself a part after power-on, so one specification of that serves both. -/
theorem powerOnValues : Obligations.PowerOnValues := by
  refine ⟨State.reset_poweredOn ▸ State.reset.poweredOn_spec, fun s => ⟨s.poweredOn, rfl, s.poweredOn_spec, rfl, ?_, ?_⟩⟩
  · intro c
    simp [s.poweredOn_cage, powerOnCage, powerOnCiu]
  · intro g
    simp [s.poweredOn_group, powerOnGroup]

/-- Settles O7: each invariant, read off the power-on values. -/
theorem invariantsHoldAtReset : Obligations.InvariantsHoldAtReset := by
  refine ⟨?resets, ?monitor, ?charges, ?lists, ?engines, ?polls, ?flags, ?settings, ?profiles, State.reset_queuesHold⟩
  case resets => intro c; simp [State.reset_cage, powerOnCage, powerOnCiu]
  case monitor => intro c; simp [State.reset_cage, powerOnCage, powerOnCiu, offRlm]
  case charges => intro g; simp [State.reset_group, State.reset_cage, powerOnGroup, powerOnCage, cagesOf]
  case lists => simp [State.ListsHold, ListForm, State.reset, restartedEntry]
  case engines => intro e; simp [State.reset_engine, idleEngine]
  case polls => intro c; simp [State.reset_cage, powerOnCage, clearCtx, SeqState.polled]
  case flags => intro c; simp [State.reset_cage, powerOnCage, clearCtx, Ctx.FlagsHold]
  case settings =>
    refine ⟨by decide, by decide, by decide, by decide, by decide, fun g => ?_, fun p => ?_⟩
    · simp [State.reset_group, powerOnGroup]
    · cases p <;> decide
  case profiles => intro c; rw [State.reset_cage]; exact ⟨builtinProfile_inRange, fun _ => rfl⟩

/-- Settles O6: by the command. All but the excepted ones are an `event`, an `act` or an `expiry`, at once or under a
guard, and each of these leaves the state as it is while the pin is asserted. -/
theorem resetHoldsCommandsOff : Obligations.ResetHoldsCommandsOff := by
  intro s i hr h1 h2 h3 h4 h5 h6 h7
  cases i <;> unfold exec <;> dsimp only
  case powerOn => exact absurd rfl h1
  case resetPinRelease => exact absurd rfl h2
  case presentLineChange => exact absurd rfl (h3 _ _)
  case attentionEdge => exact absurd rfl (h4 _ _)
  case groupFeedFaultActive => exact absurd rfl (h5 _)
  case groupFeedFaultInactive => exact absurd rfl (h6 _)
  case inrushRecordLapse => exact absurd rfl (h7 _)
  case resetPinAssert => simp [execResetPinAssert, hr]
  case candidateAccepted => simp [execCandidateAccepted, act_held hr]
  case settleIntervalEnd => simp [execSettleIntervalEnd, act_held hr]
  case lowPowerGrant => simp only [execLowPowerGrant, act_held hr]; split <;> rfl
  case highPowerGrant => simp only [execHighPowerGrant, act_held hr]; split <;> rfl
  case bringUpSlotStart | powerGoodLimitExpiry | adoptionPgLimitExpiry | seqPollTimerExpiry | initTimerExpiry
      | adoptionInitTimeout | decisionWindowExpiry | hpSettleTimeout | hostSideWindowExpiry | linkTimerExpiry
      | drainSlotStart | drainEnd | feedClearTimerExpiry | streamStaleTimeout | nextPollTimeReached =>
    exact expiry_held hr _ _
  case busTransactionComplete | addressNack | nackRetryExpiry | dataNack | stuckLimitExpiry | holdOffExpiry
      | pairComplete | linkStreamFrame | itemEndAtByteBoundary =>
    exact act_held hr _
  all_goals exact event_held hr _

end Sys2Proof.Proofs
end

section
/-! What the assertion of the reset pin leaves (R186), and the first parts of a release. -/

namespace Sys2Proof.Machine

/-! ### Assertion -/

theorem State.assertReset_cage (s : State) (c : CageNo) : s.assertReset.cage c = (s.cage c).assertReset :=
  onEach_getElem _ _ _

theorem State.assertReset_group (s : State) (g : GroupNo) :
    s.assertReset.group g = { s.group g with queue := [] } := onEach_getElem _ _ _

theorem State.assertReset_engine (s : State) (e : EngineNo) : s.assertReset.engine e = idleEngine := by
  simp [State.assertReset, State.engine]

theorem State.assertReset_port (s : State) (p : Port) : s.assertReset.port p = resetPort := by
  cases p <;> rfl

theorem State.assertReset_spec (s : State) : s.Asserted s.assertReset where
  device := ⟨rfl, rfl, rfl, rfl, rfl, rfl, rfl, rfl⟩
  stream := rfl
  ports := s.assertReset_port
  groups := s.assertReset_group
  engines := s.assertReset_engine
  retained := fun c => by simp [s.assertReset_cage, Cage.assertReset, Ciu.assertReset]
  segments := fun c => by simp [s.assertReset_cage, Cage.assertReset, Bus.assertReset]
  presence := fun c => by simp [s.assertReset_cage, Cage.assertReset, Ciu.assertReset]
  context := fun c => by simp [s.assertReset_cage, Cage.assertReset]
  rails := fun c => by simp [s.assertReset_cage, Cage.assertReset, Rlm.assertReset]
  images := fun c => by simp [s.assertReset_cage, Cage.assertReset]

/-- The pin's level is no part of a port. -/
theorem State.withPin_port (s : State) (b : Bool) (p : Port) : ({ s with inReset := b } : State).port p = s.port p := by
  cases p <;> rfl

/-- What an assertion leaves does not regard the pin's level. -/
theorem State.Asserted.withPin {s u : State} (h : s.Asserted u) (b : Bool) : s.Asserted { u with inReset := b } :=
  ⟨h.device, h.stream, fun p => (u.withPin_port b p).trans (h.ports p), h.groups, h.engines, h.retained, h.segments, h.presence,
    h.context, h.rails, h.images⟩

/-! ### Release, before budgets are compared and feeds in fault cut -/

/-- What every step of a fold keeps, the fold keeps. -/
theorem foldl_keeps {α β γ : Type} {f : α → β → α} {get : α → γ} (h : ∀ a b, get (f a b) = get a) (l : List β) (a : α) :
    get (l.foldl f a) = get a := by
  induction l generalizing a with
  | nil => rfl
  | cons b l ih => exact (ih _).trans (h a b)

theorem State.releaseBase_cage (s : State) (cause : ResetCause) (c : CageNo) :
    (s.releaseBase cause).cage c = (s.cage c).releaseReset s.now := by
  unfold State.releaseBase
  rw [foldl_keeps (get := fun t : State => t.cage c) fun t g => by simp [State.releaseGroup]]
  simp only [State.postDevice, State.postDeviceTo, State.modPort_cage]
  exact onEach_getElem _ _ _

end Sys2Proof.Machine

namespace Sys2Proof.Proofs

open Sys2Proof.Machine

/-- Settles O4: the assertion does to every part what the reset table says, and an asserted pin is not asserted again. -/
theorem resetPinAsserted : Obligations.ResetPinAsserted := by
  intro s
  refine ⟨fun hr => ⟨{ s.assertReset with inReset := true }, ?_, rfl, s.assertReset_spec.withPin true⟩, fun hr => ?_⟩
  · simp [exec, execResetPinAssert, hr]
  · simp [exec, execResetPinAssert, hr]

end Sys2Proof.Proofs
end

section
/-! R4 as an invariant: module reset is asserted wherever the rail enable is off. Every plain update keeps the lines, but
for the few that move them, and each of these moves them as R4 says. -/

namespace Sys2Proof.Machine

/-- R4 for one cage's lines. -/
def Lines.ResetFollows (l : Lines) : Prop := l.rail = false → l.reset = true

/-- An operation on one cage keeps R4 where it keeps it for that cage. -/
theorem State.OnlyCage.resetsHold {s t : State} {c : CageNo} (ho : s.OnlyCage t c)
    (hc : (s.cage c).ciu.lines.ResetFollows → (t.cage c).ciu.lines.ResetFollows) : s.ResetsHold → t.ResetsHold := by
  intro hs d
  by_cases hd : d = c
  · subst hd
    exact hc (hs d)
  · rw [ho.cages d hd]
    exact hs d

/-- An operation on one cage that leaves its lines keeps R4. -/
theorem State.OnlyCage.resetsHold_of_lines {s t : State} {c : CageNo} (ho : s.OnlyCage t c)
    (hl : (t.cage c).ciu.lines = (s.cage c).ciu.lines) : s.ResetsHold → t.ResetsHold :=
  ho.resetsHold fun h => hl ▸ h

/-- What leaves the cages keeps R4. -/
theorem State.ResetsHold.congr {s t : State} (h : ∀ c, t.cage c = s.cage c) (hs : s.ResetsHold) : t.ResetsHold := by
  intro c
  rw [h c]
  exact hs c

theorem State.putDown_lines (s : State) (e : EngineNo) (k : Carry) (o : Ending) (c : CageNo) :
    ((s.putDown e k o).cage c).ciu = (s.cage c).ciu := by
  unfold State.putDown State.modBus
  rw [State.modCage_cage]
  split
  · next hc => subst hc; rfl
  · rfl

/-- R4 is kept across every operation on a cage. -/
def State.ResetsHold.closed (c : CageNo) : Closed c where
  R := fun s t => s.ResetsHold → t.ResetsHold
  refl' := fun _ h => h
  trans' := fun a b h => b (a h)
  modSeq := fun s f => ((only c).modSeq s f).resetsHold_of_lines (by simp)
  modOutage := fun s f => ((only c).modOutage s f).resetsHold_of_lines (by simp)
  modImage := fun s f => ((only c).modImage s f).resetsHold_of_lines (by simp)
  modBus := fun s f => ((only c).modBus s f).resetsHold_of_lines (by simp)
  modCiu := fun s f hf => ((only c).modCiu s f hf).resetsHold_of_lines (by simp [hf])
  nextPoll := fun s f => ((only c).nextPoll s f).resetsHold_of_lines (by simp)
  learned := fun s u l => ((only c).learned s u l).resetsHold_of_lines (by simp)
  setCharge := fun s n => ((only c).setCharge s n).resetsHold_of_lines (by simp)
  railOn := fun s => ((only c).railOn s).resetsHold fun h hr => by
    cases hl : (s.cage c).ciu.lines.rail <;> simp [hl] at hr
  railOff := fun s => ((only c).railOff s).resetsHold fun _ _ => by
    rw [State.railOff_parts s c |>.1]
    split <;> rfl
  resetAssert := fun s => ((only c).resetAssert s).resetsHold fun _ _ => by simp
  resetRelease := fun s => ((only c).resetRelease s).resetsHold fun h hr => by
    cases hl : (s.cage c).ciu.lines.rail <;> simp [hl] at hr ⊢
    exact h hl
  lpLine := fun s => ((only c).lpLine s).resetsHold fun h hr => by simpa using h (by simpa using hr)
  lpRelease := fun s => ((only c).lpRelease s).resetsHold fun h hr => by simpa using h (by simpa using hr)
  settleBasis := fun s => ((only c).settleBasis s).resetsHold_of_lines (by simp)
  queue := fun s f hf => ((only c).queue s f hf).resetsHold_of_lines (by simp)
  cancel := fun s w => ((only c).cancel s w).resetsHold_of_lines (by simp)
  endPass := fun s st p => ((only c).endPass s st p).resetsHold_of_lines (by rw [(s.endPass_spec c st p).1.cage.ciu])
  cutCarried := fun s => ((only c).cutCarried s).resetsHold_of_lines (by rw [(s.cutCarried_spec c).cage.ciu])
  abortCarried := fun s => ((only c).abortCarried s).resetsHold_of_lines (by simp [State.abortCarried])
  putAway := fun s k hk hc => ((only c).putAway s k hk hc).resetsHold_of_lines (by simp)
  giveBack := fun s k o p hk hc hw => ((only c).giveBack s k o p hk hc hw).resetsHold_of_lines (by
    rw [State.answer_cage, State.putDown_lines])
  addItem := fun s i hi hw => ((only c).addItem s i hi hw).resetsHold_of_lines (by simp [State.addItem])
  postTo := fun s p k => ((only c).postTo s p k).resetsHold_of_lines (by simp [State.postTo])
  postDeviceTo := fun s p k => ((only c).postDeviceTo s p k).resetsHold_of_lines (by simp [State.postDeviceTo])

/-- A change of one cage that leaves its lines keeps R4. -/
theorem State.ResetsHold.modCage {s : State} {c : CageNo} {f : Cage → Cage} (hf : ∀ k, (f k).ciu = k.ciu) :
    s.ResetsHold → (s.modCage c f).ResetsHold :=
  (s.modCage_only c f).resetsHold_of_lines (by simp [hf])

/-- R4 is kept by every command. -/
def State.ResetsHold.stable : Stable where
  I := State.ResetsHold
  cage := State.ResetsHold.closed
  keeps := fun h => h
  same := fun h => .congr fun c => by simp [State.cage, h.cages]
  latest := fun s c vc ic => .modCage fun _ => rfl
  scan := fun s c => .modCage fun _ => rfl
  judged := fun s c vc power margin _ => .modCage fun _ => rfl
  basisDue := fun s c now => .modCage fun _ => rfl
  replace := fun s c body new _ => .modCage fun _ => rfl
  invalidate := fun s c => .modCage fun _ => rfl
  group := fun s g f _ => .congr fun _ => rfl
  budget := fun s g v => .congr fun _ => rfl
  carry := fun s e f _ => .congr fun _ => rfl
  pass := fun s i => .congr fun _ => rfl
  start := fun s e i _ _ hs => .modCage (fun _ => rfl) (.congr (s := s) (fun _ => rfl) hs)
  putDown := fun s e k o _ hs c => by
    rw [State.putDown_lines]
    exact hs c
  fetch := fun s p l _ => .congr fun c => by simp
  masks := fun s p c d => .congr fun c => by simp
  deviceSpacing := fun s v => .congr fun _ => rfl
  groupSpacing := fun s v => .congr fun _ => rfl
  debounce := fun s v => .congr fun _ => rfl
  pollInterval := fun s v => .congr fun _ => rfl
  reseatWindow := fun s v => .congr fun _ => rfl
  poweredOn := fun s _ c => by simp [s.poweredOn_cage, powerOnCage, powerOnCiu]
  assertReset := fun s hs c => by
    rw [s.assertReset_cage]
    exact hs c
  release := fun s cause hs c => by
    rw [s.releaseBase_cage]
    exact hs c

end Sys2Proof.Machine

namespace Sys2Proof.Proofs

open Sys2Proof.Machine

/-- Settles O8: R4 is kept by every plain update of the part, and so by every step. -/
theorem resetFollowsRailOff : Obligations.ResetFollowsRailOff :=
  fun s t hs h => State.ResetsHold.stable.step s t hs h

end Sys2Proof.Proofs
end

section
/-! Presence and attention lines (R7, R8, R12, R13, R170), and the requests that read. -/

namespace Sys2Proof.Machine

/-! ### One cage's CIU -/

theorem State.modCiu_modCiu (s : State) (c : CageNo) (f g : Ciu → Ciu) :
    (s.modCiu c f).modCiu c g = s.modCiu c fun k => g (f k) := by
  simp [State.modCiu]

/-- R7, R8: the raw level agrees with an accepted presence. -/
theorem Presence.is_iff (p : Presence) (level : Bool) :
    p.is level = true ↔ p = if level then .present else .absent := by
  cases p <;> cases level <;> decide

/-- R12: a raw change in a settle interval starts it again. -/
theorem Ciu.rawChange_settling {k : Ciu} {t : Stamp} (h : k.settle = some t) (level : Bool) (now : Stamp) :
    k.rawChange level now = { k with presentPin := level, settle := some now } := by
  simp [Ciu.rawChange, h]

/-- R8: a raw change ends a candidate. -/
theorem Ciu.rawChange_drops {k : Ciu} {x : Candidate} (h : k.settle = none) (hx : k.candidate = some x) (level : Bool)
    (now : Stamp) : k.rawChange level now = { k with presentPin := level, candidate := none } := by
  simp [Ciu.rawChange, h, hx]

/-- R7: a raw change away from the accepted presence opens a candidate. -/
theorem Ciu.rawChange_opens {k : Ciu} (h : k.settle = none) (hx : k.candidate = none) (level : Bool) (now : Stamp) :
    k.rawChange level now =
      { k with
        presentPin := level
        candidate := if k.presence = (if level then .present else .absent) then none else some ⟨level, now⟩ } := by
  simp only [Ciu.rawChange, h, hx, Presence.is_iff]

/-- A raw change moves the pin, the candidate and the settle interval only. -/
theorem Ciu.rawChange_frame (k : Ciu) (level : Bool) (now : Stamp) :
    k.rawChange level now =
      { k with
        presentPin := level
        candidate := (k.rawChange level now).candidate
        settle := (k.rawChange level now).settle } := by
  cases h : k.settle with
  | some t => rw [Ciu.rawChange_settling h]
  | none =>
    cases hx : k.candidate with
    | some x => rw [Ciu.rawChange_drops h hx, h]
    | none => rw [Ciu.rawChange_opens h hx, h]

/-! ### Module attention (R13, R170) -/

/-- R13: an edge of a cage that is not present, powered and out of reset is discarded, and one that finds a latch held is
merged. -/
theorem State.latchEdge_ignored {s : State} {c : CageNo}
    (h : (s.cage c).ciu.latches = false ∨ (s.cage c).ciu.latch ≠ none) : s.latchEdge c = s := by
  unfold State.latchEdge
  rcases h with h | h
  · simp [h]
  · cases hl : (s.cage c).ciu.latch with
    | none => exact absurd hl h
    | some t => simp

/-- R13: any other edge is latched and offered to the poller. -/
theorem State.latchEdge_latched {s : State} {c : CageNo} (h : (s.cage c).ciu.latches = true)
    (hl : (s.cage c).ciu.latch = none) :
    s.latchEdge c = (s.modCiu c fun k => { k with latch := some s.now }).offerLatch c := by
  simp [State.latchEdge, h, hl]

/-- R172: a poll that fails. -/
theorem State.pollFailed_spec (s : State) (c : CageNo) : s.PollMissed (s.pollFailed c) c := by
  refine ⟨(only c).pollFailed s, ⟨fun p => ?_, fun p => ?_⟩, ?_, fun p => ?_⟩ <;> unfold State.pollFailed <;> dsimp only
  · split <;> cases p <;> simp [State.port]
  · split <;> cases p <;> simp [State.port]
  · split
    · next h => simp [State.modImage, State.post, State.postTo, h]
    · next h => simpa [State.modImage] using fun h1 h2 => absurd ⟨h1, h2⟩ h
  · split <;> cases p <;> simp [State.port]

/-- R168: what the poller posts is the status item. -/
theorem State.pollItem_eq (s : State) (c : CageNo) : s.pollItem c = s.statusItem c := rfl

/-- R168: it depends on the cage's map and the time only. -/
theorem State.statusItem_modCiu (s : State) (c : CageNo) (f : Ciu → Ciu) : (s.modCiu c f).statusItem c = s.statusItem c := by
  have hm : (s.modCiu c f).mapOf c = s.mapOf c := State.mapOf_congr (by simp) (by simp)
  simp [State.statusItem, hm]

/-- R13, R170: what ATTENTION_EDGE does with a falling edge. -/
theorem exec_attentionEdge_falling {s : State} {c : CageNo} (hr : s.inReset = false)
    (hp : (s.cage c).ciu.attentionPin = false) :
    exec (.attentionEdge c true) s =
      .next ((s.modCiu c fun k => { k with attentionPin := true }).latchEdge c).settle := by
  simp [exec, execAttentionEdge, hr, hp]

/-- R13, R170: what is left of an edge that is latched, for a cage in the polled set: the poller takes it. -/
theorem State.latchEdge_polled {s : State} {c : CageNo} (h : (s.cage c).ciu.latches = true)
    (hl : (s.cage c).ciu.latch = none) (hn : (s.cage c).nextPoll ≠ none) :
    (s.modCiu c fun k => { k with attentionPin := true }).latchEdge c =
      (s.modCiu c fun k => { k with attentionPin := true, latch := none }).postPoll c := by
  rw [State.latchEdge_latched (by simpa [Ciu.latches] using h) (by simpa using hl), State.modCiu_modCiu]
  unfold State.offerLatch
  obtain ⟨x, hx⟩ := Option.ne_none_iff_exists'.mp hn
  simp [hx, State.modCiu_modCiu]

end Sys2Proof.Machine

namespace Sys2Proof.Proofs

open Sys2Proof.Machine

/-- Settles O21: by whether a reset is on, a settle interval runs, and a candidate is there. -/
theorem presentLineChanges : Obligations.PresentLineChanges := by
  intro s c level hl
  have hexec : exec (.presentLineChange c level) s =
      .next (if s.inReset then s.modCiu c fun k => { k with presentPin := level }
        else s.modCiu c fun k => k.rawChange level s.now) := by
    simp [exec, execPresentLineChange, hl]
  cases hr : s.inReset with
  | true =>
    refine ⟨{ (s.cage c).ciu with presentPin := level }, ?_, rfl, fun _ => ⟨rfl, rfl⟩, fun h => absurd h (by decide)⟩
    rw [hexec, hr]
    rfl
  | false =>
    refine ⟨(s.cage c).ciu.rawChange level s.now, ?_, Ciu.rawChange_frame _ _ _, fun h => absurd h (by decide),
      fun _ => ⟨fun t ht => ?_, fun hs => ?_⟩⟩
    · rw [hexec, hr]
      rfl
    · simp [Ciu.rawChange_settling ht]
    · refine ⟨?_, fun x hx => by simp [Ciu.rawChange_drops hs hx], fun hx => ?_⟩
      · cases hx : (s.cage c).ciu.candidate with
        | some x => simp [Ciu.rawChange_drops hs hx, hs]
        | none => simp [Ciu.rawChange_opens hs hx, hs]
      · rw [Ciu.rawChange_opens hs hx]
        exact ⟨fun h => if_pos h, fun h => if_neg h⟩

/-- Settles O25: by whether the edge is latched, and whether the poller takes the latch. -/
theorem attentionEdgeIsTaken : Obligations.AttentionEdgeIsTaken := by
  intro s c
  refine ⟨by simp [exec, execAttentionEdge], fun hr hp => ⟨fun h => ?_, fun hpres hrail hreset hlatch => ?_⟩⟩
  · rw [exec_attentionEdge_falling hr hp, State.latchEdge_ignored]
    rcases h with h | h | h | h
    · left; simp [Ciu.latches, h]
    · left; simp [Ciu.latches, h]
    · left; simp [Ciu.latches, h]
    · right; simpa using h
  · have hlat : (s.cage c).ciu.latches = true := by simp [Ciu.latches, hpres, hrail, hreset]
    refine ⟨fun hn => ?_, fun hn hpend => ?_, fun hn hpend hseg => ?_, fun hn hpend hseg => ?_⟩
    · rw [exec_attentionEdge_falling hr hp,
        State.latchEdge_latched (by simpa [Ciu.latches] using hlat) (by simpa using hlatch), State.modCiu_modCiu]
      simp [State.offerLatch, hn]
    all_goals rw [exec_attentionEdge_falling hr hp, State.latchEdge_polled hlat hlatch hn]
    all_goals
      generalize hs1 : (s.modCiu c fun k => { k with attentionPin := true, latch := none }) = s1
      have hp1 : s1.pollPending c = s.pollPending c := by rw [← hs1]; simp [State.pollPending]
      have hb1 : (s1.cage c).bus = (s.cage c).bus := by rw [← hs1]; simp
    · simp [State.postPoll, hp1, hpend]
    · refine ⟨_, rfl, ?_⟩
      simpa [State.postPoll, hp1, hpend, hb1, hseg] using s1.pollFailed_spec c
    · refine ⟨_, rfl, hs1 ▸ (s.modCiu_only c _).trans ((only c).postPoll _), ?_, ?_⟩
      all_goals simp only [State.postPoll, hp1, hpend, hb1, hseg, Bool.false_eq_true, if_false, State.pollItem_eq]
      · rw [← hs1]; simp [State.addItem]
      · have hi : s1.statusItem c = s.statusItem c := by rw [← hs1, State.statusItem_modCiu]
        rw [hi, ← hs1]
        simp [State.addItem, State.statusItem]

end Sys2Proof.Proofs
end

section
/-! The requests that read (R18, R27, R62, R97, R130, R144, R162, R167, R181): a record that does not regard the ports is
the same when the port has taken the request. -/

namespace Sys2Proof.Machine

variable {s : State} {q : Req} {sh : Shape} {sel n : Nat}

/-- What is read off the state does not regard the ports' own state. -/
def PortBlind {α : Type} (f : State → α) : Prop := ∀ (s : State) (p : Port) (g : PortState → PortState), f (s.modPort p g) = f s

theorem PortBlind.take {α : Type} {f : State → α} (h : PortBlind f) (s : State) (p : Port) (a b : Byte) (r : List Byte) :
    f (s.take p a b r) = f s := h s p _

theorem portBlind_statusBytes (c : CageNo) : PortBlind fun s => s.statusBytes c := fun _ p _ => by cases p <;> rfl
theorem portBlind_groupBytes (g : GroupNo) : PortBlind fun s => s.groupBytes g := fun _ p _ => by cases p <;> rfl
theorem portBlind_deviceBytes : PortBlind State.deviceBytes := fun _ p _ => by cases p <;> rfl

theorem portBlind_cage {α : Type} (c : CageNo) (f : Cage → α) : PortBlind fun s => f (s.cage c) :=
  fun _ _ _ => congrArg f (State.modPort_cage _ _ _ _)

theorem portBlind_entry {α : Type} (i : Fin 8) (f : Option FieldMap → α) : PortBlind fun s => f s.fieldMaps[i] :=
  fun _ p _ => by cases p <;> rfl

/-- A read of a cage's record is answered with it. -/
theorem State.TakesFor.read {c : CageNo} (h : s.TakesFor q sel n c) (hr : sh.right q.port = true)
    (hs : sh.selector.length = sel) (hb : sh.bodyLen (sel + n) = true) {f : CageNo → State → List Byte}
    (hf : PortBlind (f c)) :
    event s (fun s => s.serveCage q sh fun c s => s.answer q.port .ok (f c s)) =
      .next (s.replied q sh.code .ok (f c s)) := by
  rw [event_awake h.takes.awake, State.serveCage_takes h hr hs hb, State.take_answer, hf.take]

/-- A read of a group's record is answered with it. -/
theorem State.Takes.readGroup {g : GroupNo} (h : s.Takes q sel n) (ht : q.target.toNat = g.val)
    (hr : sh.right q.port = true) (hs : sh.selector.length = sel) (hb : sh.bodyLen (sel + n) = true)
    {f : GroupNo → State → List Byte} (hf : PortBlind (f g)) :
    event s (fun s => s.serveGroup q sh fun g s => s.answer q.port .ok (f g s)) =
      .next (s.replied q sh.code .ok (f g s)) := by
  rw [event_awake h.awake, State.serveGroup_takes h ht hr hs hb, State.take_answer, hf.take]

/-- A read of a field-map entry is answered with it. -/
theorem State.Takes.readEntry {i : Fin 8} (h : s.Takes q sel n) (ht : q.target.toNat = i.val)
    (hr : sh.right q.port = true) (hs : sh.selector.length = sel) (hb : sh.bodyLen (sel + n) = true)
    {f : Fin 8 → State → List Byte} (hf : PortBlind (f i)) :
    event s (fun s => s.serveEntry q sh fun i s => s.answer q.port .ok (f i s)) =
      .next (s.replied q sh.code .ok (f i s)) := by
  rw [event_awake h.awake, State.serveEntry_takes h ht hr hs hb, State.take_answer, hf.take]

/-- A read of the device's record is answered with it. -/
theorem State.Takes.readDevice (h : s.Takes q sel n) (hr : sh.right q.port = true) (hs : sh.selector.length = sel)
    (hb : sh.bodyLen (sel + n) = true) {f : State → List Byte} (hf : PortBlind f) :
    event s (fun s => s.serve q sh fun s => s.answer q.port .ok (f s)) = .next (s.replied q sh.code .ok (f s)) := by
  rw [event_awake h.awake, State.serve_takes h hr hs hb, State.take_answer, hf.take]

end Sys2Proof.Machine

namespace Sys2Proof.Proofs

open Sys2Proof.Machine

/-- Settles O41: each read is one of a cage's, a group's, an entry's or the device's record. -/
theorem readsAnswerAtOnce : Obligations.ReadsAnswerAtOnce := by
  intro s q
  refine ⟨fun c h => ⟨?_, ?_, ?_⟩, fun c h => ⟨?_, ?_, ?_⟩, fun h => ⟨?_, fun g ht => ?_, fun i ht => ?_⟩⟩
  · exact h.read rfl rfl rfl (portBlind_cage c (fun k => k.profile.bytes k.seq.inUse))
  · exact h.read rfl rfl rfl (portBlind_statusBytes c)
  · exact h.read rfl rfl rfl (portBlind_cage c (fun k => k.outage.bytes))
  · exact h.read rfl rfl rfl (portBlind_cage c (fun k => k.image.identityBytes))
  · exact h.read rfl rfl rfl (portBlind_cage c (fun k => k.image.appliedBytes))
  · exact h.read rfl rfl rfl (portBlind_cage c (fun k => k.image.statusBytes))
  · exact h.readDevice rfl rfl rfl portBlind_deviceBytes
  · exact h.readGroup ht rfl rfl rfl (portBlind_groupBytes g)
  · have hr : exec (.readFieldMap q) s = .next (s.replied q 0x10 .ok (entryBytes s.fieldMaps[i])) :=
      h.readEntry (sh := plain 0x10 0) (f := fun i s => entryBytes s.fieldMaps[i]) ht rfl rfl rfl
        (portBlind_entry i entryBytes)
    rw [hr]
    generalize s.fieldMaps[i] = m
    cases m <;> simp [entryBytes]

end Sys2Proof.Proofs
end

section
/-! Drains (R100 to R103): the parts that a drain's start and its undo steps leave beside those of `State.Draining` and
`State.SlotUndone`, and where a drain's end takes the cage. -/

namespace Sys2Proof.Machine

/-! ### The CIU through the undo of a slot -/

/-- From one CIU to another only the output lines have moved, and the attention latch may have been cleared with the rail
(R14). -/
structure Ciu.OnlyLines (k u : Ciu) : Prop where
  eq : u = { k with lines := u.lines, latch := u.latch }
  latch : u.latch = k.latch ∨ u.latch = none

theorem Ciu.OnlyLines.refl (k : Ciu) : k.OnlyLines k := ⟨rfl, .inl rfl⟩

theorem Ciu.OnlyLines.trans {k u v : Ciu} (a : k.OnlyLines u) (b : u.OnlyLines v) : k.OnlyLines v where
  eq := by rw [b.eq, a.eq]
  latch := by
    rcases b.latch with h | h
    · rw [h]; exact a.latch
    · exact .inr h

theorem Ciu.OnlyLines.presence {k u : Ciu} (h : k.OnlyLines u) : u.presence = k.presence := by rw [h.eq]
theorem Ciu.OnlyLines.candidate {k u : Ciu} (h : k.OnlyLines u) : u.candidate = k.candidate := by rw [h.eq]
theorem Ciu.OnlyLines.settle {k u : Ciu} (h : k.OnlyLines u) : u.settle = k.settle := by rw [h.eq]
theorem Ciu.OnlyLines.latch_none {k u : Ciu} (h : k.OnlyLines u) (hk : k.latch = none) : u.latch = none :=
  h.latch.elim (·.trans hk) id

theorem State.resetAssert_onlyLines (s : State) (c : CageNo) : (s.cage c).ciu.OnlyLines ((s.resetAssert c).cage c).ciu := by
  rw [(s.resetAssert_parts c).1]
  exact ⟨rfl, .inl rfl⟩

theorem State.lpAssert_onlyLines (s : State) (c : CageNo) : (s.cage c).ciu.OnlyLines ((s.lpAssert c).cage c).ciu := by
  rw [(s.lpAssert_parts c).1]
  exact ⟨rfl, .inl rfl⟩

theorem State.railOff_onlyLines (s : State) (c : CageNo) : (s.cage c).ciu.OnlyLines ((s.railOff c).cage c).ciu := by
  rw [(s.railOff_parts c).1]
  split
  · exact ⟨rfl, .inr rfl⟩
  · exact ⟨rfl, .inl rfl⟩

theorem State.busUndo_onlyLines (s : State) (c : CageNo) : (s.cage c).ciu.OnlyLines ((s.busUndo c).cage c).ciu := by
  rw [(s.busUndo_spec c).ciu]
  exact .refl _

theorem State.undoSlot_onlyLines (s : State) (c : CageNo) (n : Nat) :
    (s.cage c).ciu.OnlyLines ((s.undoSlot c n).cage c).ciu := by
  have step : ∀ (p : Prop) [Decidable p] (t u : State), (t.cage c).ciu.OnlyLines (u.cage c).ciu →
      (t.cage c).ciu.OnlyLines ((if p then u else t).cage c).ciu := fun p _ t u h => by
    split
    · exact h
    · exact .refl _
  unfold State.undoSlot
  exact ((step _ _ _ (s.resetAssert_onlyLines c)).trans (step _ _ _ (State.busUndo_onlyLines _ c))).trans
    (step _ _ _ (State.railOff_onlyLines _ c))

/-! ### The start of a drain -/

/-- R100: a drain as it starts, before the steps of its first slot are undone. -/
def State.drainBase (s : State) (c : CageNo) (dest : Dest) (reason : Option Reason) : State :=
  (((((s.stopWork c).withdrawEntry c).enter c .draining (.slot (s.cage c).seq.firstDrainSlot)).modSeq c fun q =>
    { q with
      dest := some dest
      reason := reason
      adopted := false
      parkAs := none
      reinsertion := false
      busRelease := false }).lpAssert c).modSeq c fun q =>
    { q with
      slot := (s.cage c).seq.firstDrainSlot
      stage := .slot (s.cage c).seq.firstDrainSlot
      timers := { q.timers with slot := some ⟨s.now, q.drainTable.len⟩ } }

theorem State.startDrain_eq (s : State) (c : CageNo) (dest : Dest) (reason : Option Reason) :
    s.startDrain c dest reason = (s.drainBase c dest reason).undoSlot c (s.cage c).seq.firstDrainSlot := by
  simp [State.startDrain, State.startDrainSlot, State.drainBase]

theorem State.startDrain_onlyLines (s : State) (c : CageNo) (dest : Dest) (reason : Option Reason) :
    (s.cage c).ciu.OnlyLines ((s.startDrain c dest reason).cage c).ciu := by
  rw [State.startDrain_eq]
  refine .trans ?_ ((s.drainBase c dest reason).undoSlot_onlyLines c _)
  unfold State.drainBase
  rw [(State.modSeq_parts _ c _).1]
  refine .trans ?_ (State.lpAssert_onlyLines _ c)
  simpa using Ciu.OnlyLines.refl _

/-- R100: a drain's start keeps the restore's results and times, and posts nothing. -/
theorem State.startDrain_keeps (s : State) (c : CageNo) (dest : Dest) (reason : Option Reason) :
    let u := s.startDrain c dest reason
    (u.cage c).seq.insertion = (s.cage c).seq.insertion ∧ (u.cage c).seq.cls = (s.cage c).seq.cls ∧ s.SameLists u := by
  dsimp only
  rw [State.startDrain_eq]
  have h := (s.drainBase c dest reason).undoSlot_spec c (s.cage c).seq.firstDrainSlot
  refine ⟨?_, ?_, fun p => ?_⟩
  · rw [h.seq]
    simp [State.drainBase, Ctx.entered]
  · rw [h.seq]
    simp [State.drainBase, Ctx.entered]
  · rw [h.list]
    cases p <;> simp [State.drainBase, State.port]

/-! ### Entries that post nothing -/

theorem State.enterPowerFault_port (s : State) (c : CageNo) (r : Reason) (stage : Stage) (p : Port) :
    (s.enterPowerFault c r stage).port p = s.port p := by
  cases p <;> simp [State.enterPowerFault, State.port]

theorem State.enterEmpty_port (s : State) (c : CageNo) (p : Port) : (s.enterEmpty c).port p = s.port p := by
  cases p <;> simp [State.enterEmpty, State.port]

theorem State.emptyImage_port (s : State) (c : CageNo) (p : Port) : (s.emptyImage c).port p = s.port p := by
  cases p <;> simp [State.port]

theorem State.enterAdmit_port (s : State) (c : CageNo) (h : 1500 ≤ (s.group (groupOf c)).budget) (p : Port) :
    (s.enterAdmit c).port p = s.port p := by
  have hb : ¬ (s.group (groupOf c)).budget < 1500 := by omega
  cases p <;> simp [State.enterAdmit, State.enqueue, State.port, lowPowerCharge, hb]

/-! ### ADMIT_WAIT (R41, R102, R121) -/

/-- R102: a readmission is an entry to ADMIT_WAIT with an EMPTY image, queued or parked by the group's budget. -/
theorem State.readmit_asks (s : State) (c : CageNo) : s.AsksAdmission (s.readmit c) c Machine.emptyImage := by
  refine ⟨fun hb => ⟨s.readmit_spec c hb, fun p => ?_⟩, fun hb => ?_⟩
  · unfold State.readmit
    rw [State.enterAdmit_port _ c (by simpa using hb), State.emptyImage_port]
  · obtain ⟨h1, h2, -, h4⟩ := s.readmit_never c hb
    exact ⟨h1, h2, h4⟩

/-- What the end of a drain keeps, wherever it takes the cage. -/
structure State.DrainEnded (s u : State) (c : CageNo) : Prop where
  only : s.OnlyCage u c
  replies : s.SameReplies u
  lines : (u.cage c).ciu.lines = (s.cage c).ciu.lines
  profile : (u.cage c).profile = (s.cage c).profile
  image : (u.cage c).image = Machine.emptyImage

theorem State.readmit_ended (s : State) (c : CageNo) : s.DrainEnded (s.readmit c) c := by
  by_cases hb : 1500 ≤ (s.group (groupOf c)).budget
  · have h := s.readmit_spec c hb
    have hp : ∀ p, (s.readmit c).port p = s.port p := fun p => by
      unfold State.readmit
      rw [State.enterAdmit_port _ c (by simpa using hb), State.emptyImage_port]
    exact ⟨h.only, ⟨fun p => by rw [hp], fun p => by rw [hp]⟩, h.power.1, h.kept.1, h.image⟩
  · obtain ⟨h, -, hr, -⟩ := s.readmit_never c (by omega)
    exact ⟨h.only, hr, h.power.1, h.kept, h.image⟩

/-- R102: the image is EMPTY and the cage is FAULTED with a power fault. -/
theorem State.emptyImage_enterPowerFault_ended (s : State) (c : CageNo) (r : Reason) (stage : Stage) :
    s.DrainEnded ((s.emptyImage c).enterPowerFault c r stage) c where
  only := ((only c).emptyImage s).trans ((only c).enterPowerFault _ _ _)
  replies := ⟨fun p => by rw [State.enterPowerFault_port, State.emptyImage_port],
    fun p => by rw [State.enterPowerFault_port, State.emptyImage_port]⟩
  lines := by simp [State.enterPowerFault]
  profile := by simp [State.enterPowerFault]
  image := by simp [State.enterPowerFault]

/-- R102: the image is EMPTY and the cage is in EMPTY. -/
theorem State.emptyImage_enterEmpty_ended (s : State) (c : CageNo) :
    s.DrainEnded ((s.emptyImage c).enterEmpty c) c where
  only := ((only c).emptyImage s).trans ((only c).enterEmpty _)
  replies := ⟨fun p => by rw [State.enterEmpty_port, State.emptyImage_port],
    fun p => by rw [State.enterEmpty_port, State.emptyImage_port]⟩
  lines := by simp [State.enterEmpty]
  profile := by simp [State.enterEmpty]
  image := by simp [State.enterEmpty]

/-! ### The end of a drain (R102), by its destination -/

theorem State.endDrain_admitWait {s : State} {c : CageNo} (h : (s.cage c).seq.dest = some .admitWait) :
    s.endDrain c = s.readmit c := by
  simp [State.endDrain, h]

theorem State.endDrain_faulted {s : State} {c : CageNo} (h : (s.cage c).seq.dest = some .faulted) :
    s.endDrain c = (s.emptyImage c).enterPowerFault c ((s.cage c).seq.reason.getD .railFail) .power := by
  simp [State.endDrain, h]

theorem State.endDrain_reinserted {s : State} {c : CageNo} (h1 : (s.cage c).seq.dest ≠ some .faulted)
    (h : (s.cage c).seq.reinsertion = true) : s.endDrain c = s.readmit c := by
  unfold State.endDrain
  split
  · rfl
  · next hd => exact absurd hd h1
  · simp [h]

theorem State.endDrain_empty {s : State} {c : CageNo} (h1 : (s.cage c).seq.dest ≠ some .faulted)
    (h2 : (s.cage c).seq.dest ≠ some .admitWait) (h : (s.cage c).seq.reinsertion = false) :
    s.endDrain c = (s.emptyImage c).enterEmpty c := by
  unfold State.endDrain
  split
  · next hd => exact absurd hd h2
  · next hd => exact absurd hd h1
  · simp [h]

theorem State.endDrain_ended (s : State) (c : CageNo) : s.DrainEnded (s.endDrain c) c := by
  by_cases hf : (s.cage c).seq.dest = some .faulted
  · rw [State.endDrain_faulted hf]
    exact s.emptyImage_enterPowerFault_ended c _ _
  by_cases ha : (s.cage c).seq.dest = some .admitWait
  · rw [State.endDrain_admitWait ha]
    exact s.readmit_ended c
  cases hr : (s.cage c).seq.reinsertion with
  | true =>
    rw [State.endDrain_reinserted hf hr]
    exact s.readmit_ended c
  | false =>
    rw [State.endDrain_empty hf ha hr]
    exact s.emptyImage_enterEmpty_ended c

/-! ### A drain slot (R101) -/

/-- The undo of a slot regards the lines, the charge and the segment of a cage only. -/
theorem Cage.Undone.congr {k k' u : Cage} {t : SlotTable} {n : Nat} (h : k.Undone u t n) (hc : k.ciu = k'.ciu)
    (hb : k.bus = k'.bus) : k'.Undone u t n := by
  obtain ⟨h1, h2, h3, h4, h5, h6⟩ := h
  rw [hc] at h2 h3 h4
  rw [hb] at h6
  exact ⟨h1, h2, h3, h4, h5, h6⟩

/-- R101: a drain slot as it starts, before its steps are undone. -/
def State.slotBase (s : State) (c : CageNo) (n : Nat) : State :=
  s.modSeq c fun q =>
    { q with
      slot := n
      stage := .slot n
      timers := { q.timers with slot := some ⟨s.now, q.drainTable.len⟩ } }

theorem State.startDrainSlot_spec (s : State) (c : CageNo) (n : Nat) :
    let u := s.startDrainSlot c n
    (s.cage c).Undone (u.cage c) (s.cage c).seq.drainTable n ∧
      (u.cage c).seq =
        { (s.cage c).seq with
          slot := n
          stage := (u.cage c).seq.stage
          busRelease := (u.cage c).seq.busRelease
          timers := { (s.cage c).seq.timers with slot := some ⟨s.now, (s.cage c).seq.drainTable.len⟩ } } ∧
      (u.cage c).image = (s.cage c).image ∧ (u.cage c).profile = (s.cage c).profile ∧
      (u.cage c).outage = (s.cage c).outage := by
  have h := (s.slotBase c n).undoSlot_spec c n
  have hu : s.startDrainSlot c n = (s.slotBase c n).undoSlot c n := rfl
  dsimp only
  rw [hu]
  generalize (s.slotBase c n).undoSlot c n = u at h ⊢
  have hseq := h.seq
  have hund := h.undone
  have htab : ((s.slotBase c n).cage c).seq.drainTable = (s.cage c).seq.drainTable := by
    simp [State.slotBase, Ctx.drainTable]
  rw [htab] at hund
  refine ⟨hund.congr ?_ ?_, ?_, ?_, ?_, ?_⟩
  · simp [State.slotBase]
  · simp [State.slotBase]
  · rw [Ctx.OnlyWait] at hseq
    rw [hseq]
    simp [State.slotBase]
  · rw [h.image]; simp [State.slotBase]
  · rw [h.profile]; simp [State.slotBase]
  · rw [h.outage]; simp [State.slotBase]

/-- R101, R102: a slot of a drain that waits for nothing has lasted its length. -/
theorem State.drainSlotOver_of {s : State} {c : CageNo} (hd : (s.cage c).seq.state = .draining)
    (ht : Reached (s.cage c).seq.timers.slot s.now) (hb : (s.cage c).seq.busRelease = false) :
    s.drainSlotOver c = true := by
  simp [State.drainSlotOver, s.expired_due (t := Timers.slot) (p := fun x => decide (x = .draining)) (by simp [hd]) ht, hb]

theorem exec_drainSlotStart {s : State} {c : CageNo} {n : Nat} (hr : s.inReset = false)
    (ho : s.drainSlotOver c = true) (hn : (s.cage c).seq.slot = n + 1) :
    exec (.drainSlotStart c) s = .next (s.startDrainSlot c n).settle := by
  have h : exec (.drainSlotStart c) s = .next (s.nextDrainSlot c).settle :=
    expiry_due hr (by simp [ho, hn]) _
  rw [h, State.nextDrainSlot, hn, Nat.add_sub_cancel]

theorem exec_drainEnd {s : State} {c : CageNo} (hr : s.inReset = false) (ho : s.drainSlotOver c = true)
    (hn : (s.cage c).seq.slot = 0) : exec (.drainEnd c) s = .next (s.endDrain c).settle :=
  expiry_due hr (by simp [ho, hn]) _

end Sys2Proof.Machine

namespace Sys2Proof.Proofs

open Sys2Proof.Machine

/-- Settles O39: a slot's start by `startDrainSlot_spec`, a drain's end by its destination. -/
theorem drainsRunDown : Obligations.DrainsRunDown := by
  refine ⟨fun q => ⟨fun h => ?_, fun t h => ?_⟩, fun s c hr hd ht hb => ?_⟩
  · simp [Ctx.drainTable, Ctx.firstDrainSlot, h, builtinSlots]
  · simp [Ctx.drainTable, Ctx.firstDrainSlot, h]
  have ho := State.drainSlotOver_of hd ht hb
  refine ⟨fun n hn => ?_, fun hn => ?_⟩
  · exact ⟨_, exec_drainSlotStart hr ho hn, (only c).startDrainSlot s n, s.startDrainSlot_spec c n⟩
  · have he := s.endDrain_ended c
    refine ⟨_, exec_drainEnd hr ho hn, he.only, he.replies, he.lines, he.profile, he.image, fun h1 h2 => ?_,
      fun h => ?_, fun r h1 h2 => ?_⟩
    · rw [State.endDrain_empty (by simp [h1]) (by simp [h1]) h2]
      have hv := (s.emptyImage c).enterEmpty_spec c
      exact ⟨hv.state.1, hv.cleared.2.2.2.2⟩
    · have hre : s.endDrain c = s.readmit c := by
        rcases h with h | ⟨h, hi⟩
        · exact State.endDrain_admitWait h
        · exact State.endDrain_reinserted (by simp [h]) hi
      rw [hre]
      exact s.readmit_asks c
    · rw [State.endDrain_faulted h1, h2]
      obtain ⟨e1, e2, e3, -, -, -, -, -, -, e10, -⟩ := (s.emptyImage c).enterPowerFault_parts c r .power
      exact ⟨e1, e3, e2, by simpa using e10⟩

end Sys2Proof.Proofs
end

section
/-! Accepted presence (R9, R16, R41, R98, R99, R103): what the sequencer does with a removal and with an insertion. -/

namespace Sys2Proof.Machine

/-! ### Acceptance -/

theorem State.candidateDue_iff {s : State} {c : CageNo} {k : Candidate} (hk : (s.cage c).ciu.candidate = some k) :
    s.candidateDue c = true ↔ s.settings.debounce ≤ (s.now - k.capture).toNat ∧ (s.cage c).ciu.presentPin = k.level := by
  simp only [State.candidateDue, hk, Bool.and_eq_true]
  exact and_congr decide_eq_true_iff decide_eq_true_iff

theorem State.acceptDue_due {s : State} {c : CageNo} {k : Candidate} (hk : (s.cage c).ciu.candidate = some k)
    (hd : s.candidateDue c = true) : s.acceptDue c = s.accept c k := by
  simp [State.acceptDue, hk, hd]

theorem exec_candidateAccepted {s : State} {c : CageNo} {k : Candidate} (hr : s.inReset = false)
    (hk : (s.cage c).ciu.candidate = some k) (hp : (s.cage c).ciu.presentPin = k.level)
    (ht : s.settings.debounce ≤ (s.now - k.capture).toNat) :
    exec (.candidateAccepted c) s = .next (s.accept c k).settle := by
  have hd : s.candidateDue c = true := (State.candidateDue_iff hk).mpr ⟨ht, hp⟩
  simp [exec, execCandidateAccepted, hd, act_awake hr, State.acceptDue_due hk hd]

/-- R182: a posting to both ports is a posting. -/
theorem State.post_posted (s : State) (c : CageNo) (k : CageKind) : s.Posted (s.post c k) c k := fun p => by
  cases p <;> simp [State.port]

/-- A posting after operations that post nothing. -/
theorem State.SameLists.posted {s t : State} (h : s.SameLists t) (c : CageNo) (k : CageKind) :
    s.Posted (t.post c k) c k := fun p => by
  rw [t.post_posted c k p, h p]

/-! ### A removal at the sequencer (R98, R99) -/

/-- R98: a powered cage whose module was removed, before its drain starts. -/
def State.tearBase (s : State) (c : CageNo) : State :=
  (((s.abortCarried c).endPasses c .absent).emptyImage c).modSeq c fun q => { q.clearRestore with insertion := none }

theorem State.tearDown_eq (s : State) (c : CageNo) : s.tearDown c = (s.tearBase c).startDrain c .empty none := rfl

/-- What an operation leaves in the parts of the cage, its group and the lists that a removal's first steps keep. -/
structure State.TearBegun (s u : State) (c : CageNo) : Prop where
  ciu : (u.cage c).ciu = (s.cage c).ciu
  outage : (u.cage c).outage = (s.cage c).outage
  profile : (u.cage c).profile = (s.cage c).profile
  image : (u.cage c).image = Machine.emptyImage
  seq : (u.cage c).seq = { (s.cage c).seq.clearRestore with insertion := none }
  group : u.group (groupOf c) = s.group (groupOf c)
  now : u.now = s.now
  lists : s.SameLists u

theorem State.tearBase_spec (s : State) (c : CageNo) : s.TearBegun (s.tearBase c) c := by
  have h := ((s.abortCarried c).endPasses_spec c .absent).1
  unfold State.tearBase
  generalize (s.abortCarried c).endPasses c .absent = e at h ⊢
  obtain ⟨hc, hg, hn, hl⟩ := h
  refine ⟨?_, ?_, ?_, ?_, ?_, ?_, ?_, fun p => ?_⟩
  rotate_right
  · have hp := hl p
    cases p <;> simpa [State.port, State.abortCarried] using hp
  · simpa [State.abortCarried] using hc.ciu
  · simpa [State.abortCarried] using hc.outage
  · simpa [State.abortCarried] using hc.profile
  · simp
  · simp [hc.seq, State.abortCarried]
  · simpa [State.abortCarried] using hg
  · simpa [State.abortCarried] using hn

/-- R98, R99: from `s` to `u` the sequencer has taken a removal: the restore's results, the insertion time and the image are
cleared; a powered cage starts a drain to EMPTY, a draining one is sent to EMPTY, any other enters EMPTY. -/
structure State.RemovalTaken (s u : State) (c : CageNo) : Prop where
  only : s.OnlyCage u c
  lists : s.SameLists u
  ciu : (s.cage c).ciu.OnlyLines (u.cage c).ciu
  record : (u.cage c).outage = (s.cage c).outage
  image : (u.cage c).image = Machine.emptyImage
  profile : (u.cage c).profile = (s.cage c).profile
  cleared : (u.cage c).seq.insertion = none ∧ (u.cage c).seq.cls = none ∧ (u.cage c).seq.reason = none
  powered : (s.cage c).ciu.lines.rail = true → (s.cage c).seq.state ≠ .draining →
    (u.cage c).seq.state = .draining ∧ (u.cage c).seq.dest = some .empty ∧ (u.cage c).ciu.lines.lp = true ∧
      (u.cage c).seq.timers = { slot := some ⟨s.now, (s.cage c).seq.drainTable.len⟩ } ∧
      (u.group (groupOf c)).queue = (s.group (groupOf c)).queue.filter fun e => decide (e.cage ≠ c)
  draining : (s.cage c).seq.state = .draining →
    (u.cage c).seq.state = .draining ∧ (u.cage c).seq.dest = some .empty ∧
      (u.cage c).seq.timers = (s.cage c).seq.timers ∧ (u.cage c).seq.reinsertion = false
  unpowered : (s.cage c).ciu.lines.rail = false → (s.cage c).seq.state ≠ .draining →
    (u.cage c).seq.state = .empty ∧ (u.cage c).seq.timers = {} ∧
      (u.group (groupOf c)).queue = (s.group (groupOf c)).queue.filter fun e => decide (e.cage ≠ c)

/-- R98: a powered cage. -/
theorem State.tearDown_taken (s : State) (c : CageNo) (hr : (s.cage c).ciu.lines.rail = true)
    (hd : (s.cage c).seq.state ≠ .draining) : s.RemovalTaken (s.tearDown c) c := by
  have hb := s.tearBase_spec c
  have hdr := (s.tearBase c).startDrain_spec c .empty none
  have hk := (s.tearBase c).startDrain_keeps c .empty none
  have hl := (s.tearBase c).startDrain_onlyLines c .empty none
  have htab : ((s.tearBase c).cage c).seq.drainTable = (s.cage c).seq.drainTable := by
    rw [hb.seq]; simp [Ctx.drainTable, Ctx.clearRestore]
  have ho := (only c).tearDown s
  rw [State.tearDown_eq] at ho ⊢
  generalize (s.tearBase c).startDrain c .empty none = u at ho hdr hk hl ⊢
  refine ⟨ho, fun p => ?_, hb.ciu ▸ hl, ?_, ?_, ?_, ⟨?_, ?_, hdr.state.2.2⟩, fun _ _ => ⟨hdr.state.1,
    hdr.state.2.1, hdr.low.1, ?_, ?_⟩, fun h => absurd h hd, fun h => absurd (hr.symm.trans h) (by decide)⟩
  · exact (hk.2.2 p).trans (hb.lists p)
  · exact hdr.kept.2.2.trans hb.outage
  · exact hdr.kept.1.trans hb.image
  · exact hdr.kept.2.1.trans hb.profile
  · exact hk.1.trans (by rw [hb.seq])
  · exact hk.2.1.trans (by rw [hb.seq]; rfl)
  · exact hdr.timers.trans (by rw [htab, hb.now])
  · exact hdr.queue.trans (by rw [hb.group])

/-- R99: a cage that drains, or whose rail is off. -/
theorem State.removedUnpowered_taken (s : State) (c : CageNo)
    (h : ¬((s.cage c).ciu.lines.rail = true ∧ (s.cage c).seq.state ≠ .draining)) :
    s.RemovalTaken (s.removedUnpowered c) c := by
  have ho := (only c).removedUnpowered s
  unfold State.removedUnpowered at ho ⊢
  by_cases hd : (s.cage c).seq.state = .draining
  · rw [if_pos hd] at ho ⊢
    refine ⟨ho, fun p => ?_, ?_, ?_, ?_, ?_, ?_, fun _ h' => absurd hd h', fun _ => ?_, fun _ h' => absurd hd h'⟩
    · cases p <;> simp [State.port, State.abortCarried]
    · simpa [State.abortCarried] using Ciu.OnlyLines.refl _
    all_goals simp [State.abortCarried, Ctx.clearRestore, hd]
  · rw [if_neg hd] at ho ⊢
    refine ⟨ho, fun p => ?_, ?_, ?_, ?_, ?_, ?_, fun hr' _ => absurd ⟨hr', hd⟩ h, fun h' => absurd h' hd, fun _ _ => ?_⟩
    · rw [State.enterEmpty_port]
      cases p <;> simp [State.port, State.abortCarried]
    · simpa [State.enterEmpty, State.abortCarried] using Ciu.OnlyLines.refl _
    all_goals simp [State.enterEmpty, State.abortCarried, Ctx.clearRestore, Ctx.entered]

/-- R98, R99: the sequencer takes a removal. -/
theorem State.removed_spec (s : State) (c : CageNo) : s.RemovalTaken (s.removed c) c := by
  unfold State.removed
  split
  · next h => exact s.tearDown_taken c h.1 h.2
  · next h => exact s.removedUnpowered_taken c h

/-! ### A removal is accepted (R9, R14, R16) -/

/-- R9, R14, R16: the cage with an accepted removal, before the sequencer takes it. -/
def State.absentBase (s : State) (c : CageNo) (t : Stamp) : State :=
  (s.modCiu c fun x => { x with presence := .absent, candidate := none, latch := none }).recordRemoval c t

theorem State.accept_absent (s : State) (c : CageNo) (t : Stamp) :
    s.accept c ⟨false, t⟩ = ((s.absentBase c t).removed c).post c .removed := rfl

theorem State.absentBase_cage (s : State) (c : CageNo) (t : Stamp) :
    (s.absentBase c t).cage c =
      { s.cage c with
        ciu := { (s.cage c).ciu with presence := .absent, candidate := none, latch := none }
        outage := { emptyOutage with removal := some t } } := by
  simp [State.absentBase, State.recordRemoval, State.modOutage, State.modCiu]

theorem State.absentBase_rest (s : State) (c : CageNo) (t : Stamp) :
    (s.absentBase c t).now = s.now ∧ (∀ g, (s.absentBase c t).group g = s.group g) ∧
      ∀ p, (s.absentBase c t).port p = s.port p :=
  ⟨rfl, fun _ => rfl, fun p => by cases p <;> rfl⟩

/-! ### ADMIT_WAIT from an insertion (R41, R121) -/

theorem State.enterAdmit_ciu (s : State) (c : CageNo) : ((s.enterAdmit c).cage c).ciu = (s.cage c).ciu := by
  unfold State.enterAdmit State.enqueue
  dsimp only
  split <;> simp [State.parkNow]

/-- From `s` to `b` only the CIU but for its lines, the record and the insertion time of a cage have changed: what an
accepted presence does before the sequencer asks for power. -/
structure State.Renewed (s b : State) (c : CageNo) : Prop where
  only : s.OnlyCage b c
  group : b.group (groupOf c) = s.group (groupOf c)
  lists : s.SameLists b
  lines : (b.cage c).ciu.lines = (s.cage c).ciu.lines
  charge : (b.cage c).charge = (s.cage c).charge
  profile : (b.cage c).profile = (s.cage c).profile
  image : (b.cage c).image = (s.cage c).image
  bus : (b.cage c).bus = (s.cage c).bus
  seq : (b.cage c).seq = { (s.cage c).seq with insertion := (b.cage c).seq.insertion }

theorem State.Renewed.newEntry {s b : State} {c : CageNo} (h : s.Renewed b c) (k : QueueKind) (n : Nat) :
    b.newEntry c k n = s.newEntry c k n := by
  simp [State.newEntry, State.profile, h.profile, h.only.device.now, h.only.device.elapsed]

/-- R41, R121: a park of a cage that never fits, told from the state before its record and its insertion time were
written. -/
theorem State.Renewed.neverFits {s b u : State} {c : CageNo} {image : Image} {o : Outage} (h : s.Renewed b c)
    (hn : b.NeverFits u c image o) : s.NeverFits u c image o where
  only := h.only.trans hn.only
  state := hn.state
  cleared := hn.cleared
  timers := hn.timers
  group := hn.group.trans h.group
  power := ⟨hn.power.1.trans h.lines, hn.power.2.trans h.charge⟩
  image := hn.image
  record := by rw [hn.record, h.only.device.now]
  kept := hn.kept.trans h.profile
  polls := hn.polls

/-- A posting leaves a park as it is. -/
theorem State.NeverFits.post {s u : State} {c : CageNo} {image : Image} {o : Outage} (hn : s.NeverFits u c image o)
    (k : CageKind) : s.NeverFits (u.post c k) c image o where
  only := hn.only.trans ((Machine.only c).post u k)
  state := by simpa using hn.state
  cleared := by simpa using hn.cleared
  timers := by simpa using hn.timers
  group := by simpa using hn.group
  power := by simpa using hn.power
  image := by simpa using hn.image
  record := by simpa using hn.record
  kept := by simpa using hn.kept
  polls := by simpa using hn.polls

/-- R120: where an entry stands in the queue it joins. -/
theorem joinQueue_splits (e : Entry) (q : List Entry) :
    ∃ l r, q = l ++ r ∧ joinQueue e q = l ++ e :: r ∧ (∀ x ∈ l, e.ahead x = false) ∧
      ∀ x, r.head? = some x → e.ahead x = true := by
  induction q with
  | nil => exact ⟨[], [], rfl, rfl, by simp, by simp⟩
  | cons x q ih =>
    by_cases h : e.ahead x = true
    · exact ⟨[], x :: q, rfl, by simp [joinQueue, h], by simp, by simpa using h⟩
    · obtain ⟨l, r, hq, hj, hl, hr⟩ := ih
      refine ⟨x :: l, r, by rw [hq]; rfl, by simp [joinQueue, h, hj], fun y hy => ?_, hr⟩
      rcases List.mem_cons.mp hy with rfl | hy
      · simpa using h
      · exact hl y hy

theorem Entry.ahead_iff (e x : Entry) :
    e.ahead x = true ↔ x.priority < e.priority ∨ x.priority = e.priority ∧ x.joined = e.joined ∧ e.cage < x.cage := by
  simp [Entry.ahead, and_assoc]

/-! ### An insertion is accepted (R9, R16, R41, R103) -/

/-- R16: the record that an insertion opens. -/
def Outage.reopened (o : Outage) (t : Stamp) : Outage :=
  let old := if o.result = none then o else emptyOutage
  { old with insertion := some t, duration := old.removal.map fun r => (t - r).toNat, result := some .inProgress }

/-- R9, R16: the cage with an accepted insertion, before the sequencer takes it. -/
def State.presentBase (s : State) (c : CageNo) (t : Stamp) : State :=
  (s.modCiu c fun x => { x with presence := .present, candidate := none }).recordInsertion c t

theorem State.accept_present (s : State) (c : CageNo) (t : Stamp) :
    s.accept c ⟨true, t⟩ = ((s.presentBase c t).inserted c t).post c .inserted := rfl

theorem State.presentBase_cage (s : State) (c : CageNo) (t : Stamp) :
    (s.presentBase c t).cage c =
      { s.cage c with
        ciu := { (s.cage c).ciu with presence := .present, candidate := none }
        outage := (s.cage c).outage.reopened t } := by
  cases hr : (s.cage c).outage.result <;>
    simp [State.presentBase, State.recordInsertion, State.modOutage, State.modCiu, Outage.reopened, Outage.hasResult, hr] <;>
    rfl

/-- R16, R41: an accepted insertion with its record, and the insertion time in the context or not. -/
theorem State.presentBase_renewed (s : State) (c : CageNo) (t : Stamp) : s.Renewed (s.presentBase c t) c where
  only := ((only c).modCiu s (fun x => { x with presence := .present, candidate := none }) fun _ => rfl).trans
    ((only c).recordInsertion _ _)
  group := rfl
  lists := fun p => by cases p <;> rfl
  lines := by rw [s.presentBase_cage]
  charge := by rw [s.presentBase_cage]
  profile := by rw [s.presentBase_cage]
  image := by rw [s.presentBase_cage]
  bus := by rw [s.presentBase_cage]
  seq := by rw [s.presentBase_cage]

theorem State.Renewed.insertion {s b : State} {c : CageNo} (h : s.Renewed b c) (t : Option Stamp) :
    s.Renewed (b.modSeq c fun q => { q with insertion := t }) c where
  only := h.only.trans ((Machine.only c).modSeq _ _)
  group := by simpa using h.group
  lists := fun p => (by cases p <;> rfl : ((b.modSeq c _).port p).list = (b.port p).list).trans (h.lists p)
  lines := by simpa using h.lines
  charge := by simpa using h.charge
  profile := by simpa using h.profile
  image := by simpa using h.image
  bus := by simpa using h.bus
  seq := by
    have hs := h.seq
    simp only [State.modSeq_parts]
    rw [hs]

theorem State.inserted_empty {s : State} {c : CageNo} (h : (s.cage c).seq.state = .empty) (t : Stamp) :
    s.inserted c t = (s.modSeq c fun q => { q with insertion := some t }).enterAdmit c := by
  simp [State.inserted, h]

theorem State.inserted_draining {s : State} {c : CageNo} (h : (s.cage c).seq.state = .draining) (t : Stamp) :
    s.inserted c t = s.modSeq c fun q => { q with insertion := some t, reinsertion := true } := by
  simp [State.inserted, h]

theorem State.inserted_other {s : State} {c : CageNo} (h1 : (s.cage c).seq.state ≠ .empty)
    (h2 : (s.cage c).seq.state ≠ .draining) (t : Stamp) : s.inserted c t = s := by
  unfold State.inserted
  split
  · next h => exact absurd h h1
  · next h => exact absurd h h2
  · rfl

/-- R41: a cage that asks for low power, told from the state before its record and its insertion time were written. -/
theorem State.Renewed.asks {s b : State} {c : CageNo} (h : s.Renewed b c) :
    (1500 ≤ (s.group (groupOf c)).budget →
      b.Admitted (b.enterAdmit c) c (s.cage c).image ∧ s.SameLists (b.enterAdmit c) ∧
        ((b.enterAdmit c).group (groupOf c)).queue =
          joinQueue (s.newEntry c .lowPower 1500) (s.group (groupOf c)).queue) ∧
      ((s.group (groupOf c)).budget < 1500 →
        s.NeverFits (b.enterAdmit c) c (s.cage c).image (b.cage c).outage ∧ s.Posted (b.enterAdmit c) c .parked ∧
          ((b.enterAdmit c).cage c).seq.insertion = (b.cage c).seq.insertion) := by
  refine ⟨fun hb => ?_, fun hb => ?_⟩
  · have hb' : 1500 ≤ (b.group (groupOf c)).budget := by rw [h.group]; exact hb
    have ha := b.enterAdmit_spec c hb'
    refine ⟨h.image ▸ ha, fun p => by rw [b.enterAdmit_port c hb', h.lists p], ?_⟩
    rw [ha.queued, h.newEntry, h.group]
  · obtain ⟨hn, hp, -, hi⟩ := b.enterAdmit_never c (by rw [h.group]; exact hb)
    exact ⟨h.neverFits (h.image ▸ hn), fun p => by rw [hp p, h.lists p], hi⟩

/-- What an accepted insertion leaves of its cage, wherever the sequencer takes it. -/
structure State.InsertionKept (s u : State) (c : CageNo) : Prop where
  presence : (u.cage c).ciu.presence = .present
  candidate : (u.cage c).ciu.candidate = none
  lines : (u.cage c).ciu.lines = (s.cage c).ciu.lines
  charge : (u.cage c).charge = (s.cage c).charge
  profile : (u.cage c).profile = (s.cage c).profile
  image : (u.cage c).image = (s.cage c).image

/-- A cage that asks for low power keeps its lines, charge, profile and image, queued or parked. -/
theorem State.enterAdmit_keeps (s : State) (c : CageNo) :
    ((s.enterAdmit c).cage c).charge = (s.cage c).charge ∧ ((s.enterAdmit c).cage c).profile = (s.cage c).profile ∧
      ((s.enterAdmit c).cage c).image = (s.cage c).image := by
  by_cases hb : 1500 ≤ (s.group (groupOf c)).budget
  · have h := s.enterAdmit_spec c hb
    exact ⟨h.power.2, h.kept.1, h.image⟩
  · obtain ⟨h, -⟩ := s.enterAdmit_never c (by omega)
    exact ⟨h.power.2, h.kept, h.image⟩

theorem State.inserted_kept (s : State) (c : CageNo) (t : Stamp) :
    s.InsertionKept ((s.presentBase c t).inserted c t) c := by
  have hcage := s.presentBase_cage c t
  unfold State.inserted
  split
  · obtain ⟨h1, h2, h3⟩ := ((s.presentBase c t).modSeq c fun q => { q with insertion := some t }).enterAdmit_keeps c
    constructor
    · rw [State.enterAdmit_ciu]; simp [hcage]
    · rw [State.enterAdmit_ciu]; simp [hcage]
    · rw [State.enterAdmit_ciu]; simp [hcage]
    · rw [h1]; simp [hcage]
    · rw [h2]; simp [hcage]
    · rw [h3]; simp [hcage]
  · constructor <;> simp [hcage]
  · constructor <;> rw [hcage]

end Sys2Proof.Machine

namespace Sys2Proof.Proofs

open Sys2Proof.Machine

/-- Settles O23: the sequencer takes the removal in the state that its acceptance has made. -/
theorem removalIsAccepted : Obligations.RemovalIsAccepted := by
  intro s c t hr hc hp ht
  obtain ⟨hnow, hgroup, hport⟩ := s.absentBase_rest c t
  obtain ⟨-, hl, hciu, hrec, himg, hprof, ⟨hins, hcls, -⟩, hpow, hdrain, hun⟩ := (s.absentBase c t).removed_spec c
  simp only [s.absentBase_cage, hnow, hgroup] at hciu hrec hprof hpow hdrain hun
  refine ⟨_, exec_candidateAccepted hr hc hp ht, (only c).accept s _, ?_⟩
  rw [s.accept_absent]
  refine ⟨State.SameLists.posted (fun p => by rw [hl p, hport]) c _, ?_⟩
  simp only [State.post_parts]
  exact ⟨hciu.presence, hciu.candidate, hciu.latch_none rfl, hrec, himg, hprof, hins, hcls, hpow, hdrain, hun⟩

/-- Settles O22: R120's place of an entry, then the insertion by the state the sequencer is in. -/
theorem insertionIsAccepted : Obligations.InsertionIsAccepted := by
  refine ⟨fun e q => ?_, fun s c t hr hc hp ht => ?_⟩
  · obtain ⟨l, r, hq, hj, hl, hh⟩ := joinQueue_splits e q
    exact ⟨l, r, hq, hj, fun x hx h => by simpa [hl x hx] using (e.ahead_iff x).mpr h, fun x hx => (e.ahead_iff x).mp (hh x hx)⟩
  · obtain ⟨k1, k2, k3, k4, k5, k6⟩ := s.inserted_kept c t
    have hb := s.presentBase_renewed c t
    have hcage := s.presentBase_cage c t
    refine ⟨_, exec_candidateAccepted hr hc hp ht, (only c).accept s _, ?_⟩
    rw [s.accept_present]
    simp only [State.post_parts]
    refine ⟨k1, k2, k3, k4, k5, k6, ?_⟩
    by_cases he : (s.cage c).seq.state = .empty
    · have hb2 := hb.insertion (some t)
      obtain ⟨hfit, hnever⟩ := hb2.asks
      rw [State.inserted_empty (by rw [hcage]; exact he)]
      refine ⟨fun h => ?_, fun _ => ⟨?_, fun h => ?_, fun h => ?_⟩, fun hd => absurd (he.symm.trans hd) (by decide)⟩
      · obtain ⟨ha, hl, -⟩ := hfit (h.resolve_left fun hn => hn he)
        exact ⟨ha.kept.2.1.trans (by simp [hcage, Outage.reopened]), hl.posted c _⟩
      · by_cases hbud : 1500 ≤ (s.group (groupOf c)).budget
        · exact (hfit hbud).1.kept.2.2.trans (by simp)
        · exact (hnever (by omega)).2.2.trans (by simp)
      · obtain ⟨ha, -, hq⟩ := hfit h
        exact ⟨ha.state.1, hq⟩
      · obtain ⟨hn, hpark, -⟩ := hnever h
        refine ⟨?_, fun p => ?_⟩
        · simpa [hcage, Outage.reopened] using hn.post .inserted
        · rw [State.post_posted _ c .inserted p, hpark p]
    · refine ⟨fun _ => ?_, fun h => absurd h he, fun hd => ?_⟩
      · by_cases hd : (s.cage c).seq.state = .draining
        · rw [State.inserted_draining (by rw [hcage]; exact hd)]
          refine ⟨by simp [hcage, Outage.reopened], State.SameLists.posted (fun p => ?_) c _⟩
          exact (by cases p <;> rfl : ((State.modSeq _ c _).port p).list = ((s.presentBase c t).port p).list).trans
            (hb.lists p)
        · rw [State.inserted_other (by rw [hcage]; exact he) (by rw [hcage]; exact hd)]
          exact ⟨by simp [hcage, Outage.reopened], hb.lists.posted c _⟩
      · rw [State.inserted_draining (by rw [hcage]; exact hd)]
        simp [hcage]

end Sys2Proof.Proofs
end

section
/-! The adoption presence (R12, R187, R188, R189): what the end of a settle interval does with a cage, by the state it is in
and the lines it stands with. -/

namespace Sys2Proof.Machine

/-- Of a cage's CIU only the lines, and its latch, have moved, and its profile stays. -/
structure Cage.OnlyLines (k u : Cage) : Prop where
  ciu : k.ciu.OnlyLines u.ciu
  profile : u.profile = k.profile

theorem Cage.OnlyLines.trans {k u v : Cage} (a : k.OnlyLines u) (b : u.OnlyLines v) : k.OnlyLines v :=
  ⟨a.ciu.trans b.ciu, b.profile.trans a.profile⟩

theorem Cage.OnlyLines.of_eq {k u : Cage} (h : u.ciu = k.ciu) (hp : u.profile = k.profile) : k.OnlyLines u :=
  ⟨h ▸ .refl _, hp⟩

/-! ### The records of an adoption (R188) -/

theorem State.recordA_cage (s : State) (c : CageNo) :
    (s.recordA c).cage c =
      { s.cage c with
        outage :=
          if (s.cage c).outage.result = none then (s.cage c).outage else { emptyOutage with removal := some s.now } } := by
  cases h : (s.cage c).outage.result <;>
    simp [State.recordA, Outage.hasResult, h, State.recordRemoval, State.modOutage]

theorem State.recordA_rest (s : State) (c : CageNo) :
    (s.recordA c).now = s.now ∧ ∀ p, (s.recordA c).port p = s.port p := by
  unfold State.recordA
  split
  · exact ⟨rfl, fun p => by cases p <;> rfl⟩
  · exact ⟨rfl, fun _ => rfl⟩

/-- R188 B: the record as it is opened with the reset release time. -/
def State.releasedRecord (s : State) : Outage :=
  { emptyOutage with insertion := some s.releaseTime, result := some .inProgress }

theorem State.recordB_cage (s : State) (c : CageNo) :
    (s.recordB c).cage c =
      { s.cage c with
        outage := s.releasedRecord
        seq := { (s.cage c).seq with insertion := some s.releaseTime } } := by
  simp [State.recordB, State.modOutage, State.modSeq, State.releasedRecord]

theorem State.recordB_port (s : State) (c : CageNo) (p : Port) : (s.recordB c).port p = s.port p := by
  cases p <;> rfl

theorem State.recordC_cage (s : State) (c : CageNo) :
    (s.recordC c).cage c =
      { s.cage c with
        outage := if (s.cage c).outage.result = some .inProgress then (s.cage c).outage else s.releasedRecord
        seq := { (s.cage c).seq with insertion := ((s.recordC c).cage c).seq.insertion } } := by
  by_cases h : (s.cage c).outage.result = some .inProgress
  · simp [State.recordC, Outage.isOpen, h, State.modSeq]
  · simp [State.recordC, Outage.isOpen, h, State.recordB_cage]

theorem State.noticeA_spec (s : State) (c : CageNo) (w : Bool) :
    ((s.noticeA c w).cage c) = s.cage c ∧ (w = true → s.Posted (s.noticeA c w) c .removed) ∧
      (w = false → s.SameLists (s.noticeA c w)) := by
  cases w with
  | true => exact ⟨by simp [State.noticeA, State.post, State.postTo], fun _ => s.post_posted c _, fun h => absurd h (by decide)⟩
  | false => exact ⟨rfl, fun h => absurd h (by decide), fun _ _ => rfl⟩

/-! ### A drain that adoption starts (R187, R188) -/

theorem State.drainAdoption_spec (s : State) (c : CageNo) (d : Dest) :
    let u := s.drainAdoption c d
    (s.cage c).OnlyLines (u.cage c) ∧ s.SameLists u ∧ (u.cage c).outage = (s.cage c).outage ∧
      (u.cage c).seq.state = .draining ∧ (u.cage c).seq.dest = some d ∧
      (u.cage c).seq.insertion = (s.cage c).seq.insertion := by
  have h := s.startDrain_spec c d none
  have hk := s.startDrain_keeps c d none
  have hl := s.startDrain_onlyLines c d none
  unfold State.drainAdoption
  dsimp only at hk ⊢
  generalize s.startDrain c d none = u at h hk hl ⊢
  refine ⟨⟨by simpa using hl, by simpa using h.kept.2.1⟩, fun p => ?_, by simpa using h.kept.2.2, by simpa using h.state.1,
    by simpa using h.state.2.1, by simpa using hk.1⟩
  have hp := hk.2.2 p
  cases p <;> simpa [State.port] using hp

/-! ### The reading of a running module (R189) -/

theorem State.postSeq_onlyLines (s : State) (c : CageNo) (a : Access) :
    (s.cage c).OnlyLines ((s.postSeq c a).cage c) := by
  unfold State.postSeq
  split
  · exact .of_eq (by simp [State.addItem]) (by simp [State.addItem])
  · refine ⟨?_, (s.moduleFault_spec c .busStuck).kept.2⟩
    have h : ((s.moduleFault c .busStuck).cage c).ciu =
        { (s.cage c).ciu with lines := { (s.cage c).ciu.lines with reset := true, lp := true } } := by
      simp [State.moduleFault]
    rw [h]
    exact ⟨rfl, .inl rfl⟩
  · exact .of_eq (by simp) (by simp)

theorem State.startReading_onlyLines (s : State) (c : CageNo) : (s.cage c).OnlyLines ((s.startReading c).cage c) := by
  unfold State.startReading State.startIdentPoll
  exact .trans (.of_eq (by simp) (by simp)) (State.postSeq_onlyLines _ c _)

theorem State.startReading_spec (s : State) (c : CageNo) (h : (s.cage c).bus.seg = .connected) :
    s.ReadingStarted (s.startReading c) c ∧
      ((s.startReading c).cage c).seq =
        { (s.cage c).seq with
          access := .ident
          timers := { (s.cage c).seq.timers with init := some ⟨s.now, (s.profile c).initTimeout⟩ } } ∧
      ((s.startReading c).cage c).ciu = (s.cage c).ciu ∧ ((s.startReading c).cage c).outage = (s.cage c).outage := by
  unfold State.startReading State.startIdentPoll
  dsimp only
  generalize ht : (State.modImage (s.modTimers c _) c _ : State) = t
  have hseg : (t.cage c).bus.seg = .connected := by rw [← ht]; simpa using h
  have hn : t.now = s.now := by rw [← ht]; simp
  have he : t.elapsed = s.elapsed := by rw [← ht]; simp
  obtain ⟨p1, -⟩ := t.postSeq_parts c .ident hseg
  refine ⟨⟨?_, ?_, _, s.postSeq_newest t c .ident hseg hn he, rfl, rfl, rfl⟩, ?_, ?_, ?_⟩
  all_goals rw [p1, ← ht]
  all_goals simp

/-- What the start of a reading is told from: the time, the profile in force and the image. -/
theorem State.ReadingStarted.congr {s b u : State} {c : CageNo} (h : b.ReadingStarted u c) (hn : b.now = s.now)
    (he : b.elapsed = s.elapsed) (hp : (b.cage c).profile = (s.cage c).profile)
    (hi : (b.cage c).image = (s.cage c).image) : s.ReadingStarted u c := by
  obtain ⟨h1, h2, i, ⟨a1, a2, a3, a4, a5⟩, h3⟩ := h
  refine ⟨?_, by rw [h2, hi], i, ⟨a1, a2, a3, by rw [a4, hn], by rw [a5, he]⟩, h3⟩
  rw [h1, hn, State.profile, State.profile, hp]

/-! ### The end of a settle interval (R12) -/

/-- R12: the cage with its adoption presence, before the sequencer takes it. -/
def State.settledBase (s : State) (c : CageNo) : State :=
  s.modCiu c fun k =>
    { k with settle := none, presence := if (s.cage c).ciu.presentPin then .present else .absent }

theorem State.endSettle_eq (s : State) (c : CageNo) :
    s.endSettle c = (s.settledBase c).adoptionPresence c (s.cage c).ciu.presentPin := rfl

theorem State.settledBase_cage (s : State) (c : CageNo) :
    (s.settledBase c).cage c =
      { s.cage c with
        ciu :=
          { (s.cage c).ciu with
            settle := none, presence := if (s.cage c).ciu.presentPin then .present else .absent } } := by
  simp [State.settledBase, State.modCiu]

theorem State.settledBase_port (s : State) (c : CageNo) (p : Port) : (s.settledBase c).port p = s.port p := by
  cases p <;> rfl

theorem exec_settleIntervalEnd {s : State} {c : CageNo} {t : Stamp} (hr : s.inReset = false)
    (hs : (s.cage c).ciu.settle = some t) (ht : s.settings.debounce ≤ (s.now - t).toNat) :
    exec (.settleIntervalEnd c) s = .next (s.endSettle c).settle := by
  have hd : s.settleDue c = true := by
    simp only [State.settleDue, hs]
    exact decide_eq_true ht
  simp [exec, execSettleIntervalEnd, hd, act_awake hr]

/-- R12, R188 B: a cage that is taken as present, with its record open from the release on. -/
theorem State.recordB_renewed (s : State) (c : CageNo) : s.Renewed ((s.settledBase c).recordB c) c where
  only := (State.modCiu_only s c _).trans ((only c).recordB _)
  group := rfl
  lists := fun p => by rw [State.recordB_port, State.settledBase_port]
  lines := by rw [State.recordB_cage, State.settledBase_cage]
  charge := by rw [State.recordB_cage, State.settledBase_cage]
  profile := by rw [State.recordB_cage, State.settledBase_cage]
  image := by rw [State.recordB_cage, State.settledBase_cage]
  bus := by rw [State.recordB_cage, State.settledBase_cage]
  seq := by rw [State.recordB_cage, State.settledBase_cage]

/-! ### A cage in ADOPTING (R188) -/

/-- R188 A: a cage found absent goes to EMPTY, through a drain if its rail is on. -/
theorem State.adoptionRow_absent (s : State) (c : CageNo) :
    let u := s.adoptionRow c false
    (s.cage c).OnlyLines (u.cage c) ∧
      (u.cage c).outage =
        (if (s.cage c).outage.result = none then (s.cage c).outage else { emptyOutage with removal := some s.now }) ∧
      ((s.cage c).outage.result ≠ none → s.Posted u c .removed) ∧
      ((s.cage c).ciu.lines.rail = true → (u.cage c).seq.state = .draining ∧ (u.cage c).seq.dest = some .empty) ∧
      ((s.cage c).ciu.lines.rail = false → (u.cage c).seq.state = .empty) := by
  have hw : (s.cage c).outage.result ≠ none → (s.cage c).outage.hasResult = true := Option.isSome_iff_ne_none.mpr
  have hA : (s.cage c).OnlyLines ((s.recordA c).cage c) := by
    rw [s.recordA_cage c]
    exact .of_eq rfl rfl
  unfold State.adoptionRow
  dsimp only
  cases hr : (s.cage c).ciu.lines.rail with
  | true =>
    obtain ⟨d1, d2, d3, d4, d5, -⟩ := (s.recordA c).drainAdoption_spec c .empty
    obtain ⟨n1, n2, -⟩ := ((s.recordA c).drainAdoption c .empty).noticeA_spec c (s.cage c).outage.hasResult
    simp only [Bool.false_eq_true, if_false, if_true, n1]
    refine ⟨hA.trans d1, by rw [d3, s.recordA_cage], fun h p => ?_, fun _ => ⟨d4, d5⟩, fun h => absurd h (by decide)⟩
    rw [n2 (hw h) p, d2 p, (s.recordA_rest c).2]
  | false =>
    obtain ⟨n1, n2, -⟩ := ((s.recordA c).enterEmpty c).noticeA_spec c (s.cage c).outage.hasResult
    simp only [Bool.false_eq_true, if_false, n1]
    refine ⟨hA.trans (.of_eq (by simp [State.enterEmpty]) (by simp [State.enterEmpty])), ?_, fun h p => ?_,
      fun h => absurd h (by decide), fun _ => ((s.recordA c).enterEmpty_spec c).state.1⟩
    · simp [State.enterEmpty, s.recordA_cage]
    · rw [n2 (hw h) p, State.enterEmpty_port, (s.recordA_rest c).2]

/-- R188 C: a running cage is adopted, and reads its module once POWER_GOOD is held. -/
theorem State.adopt_spec (s : State) (c : CageNo) :
    let u := s.adopt c
    (s.cage c).OnlyLines (u.cage c) ∧
      ((s.cage c).bus.seg = .connected → (s.cage c).seq.state = .adopting →
        (u.cage c).seq.state = .adopting ∧ (u.cage c).seq.adopted = true ∧
          (u.cage c).ciu.lines = (s.cage c).ciu.lines ∧
          (u.cage c).outage =
            (if (s.cage c).outage.result = some .inProgress then (s.cage c).outage else s.releasedRecord) ∧
          ((s.cage c).seq.pgHeld = true → s.ReadingStarted u c) ∧
          ((s.cage c).seq.pgHeld = false → (u.cage c).image = (s.cage c).image)) := by
  unfold State.adopt
  dsimp only
  generalize ht : ((s.recordC c).modSeq c fun q => { q with adopted := true, sinceAdoption := true }) = t
  have hdev : s.SameDevice t := by
    rw [← ht]
    exact (((only c).recordC s).trans (State.modSeq_only _ c _)).device
  have hcage : t.cage c =
      { s.cage c with
        outage := if (s.cage c).outage.result = some .inProgress then (s.cage c).outage else s.releasedRecord
        seq := { (t.cage c).seq with state := (s.cage c).seq.state, adopted := true } } := by
    rw [← ht, State.modSeq, State.modCage_cage_self, s.recordC_cage c]
  have hOnly : (s.cage c).OnlyLines (t.cage c) := by
    rw [hcage]
    exact .of_eq rfl rfl
  cases hpg : (s.cage c).seq.pgHeld with
  | false =>
    simp only [Bool.false_eq_true, if_false]
    refine ⟨hOnly, fun _ hst => ?_⟩
    rw [hcage]
    exact ⟨hst, rfl, rfl, rfl, fun h => absurd h (by decide), fun _ => rfl⟩
  | true =>
    simp only [if_true]
    refine ⟨hOnly.trans (t.startReading_onlyLines c), fun hb hst => ?_⟩
    obtain ⟨r1, r2, r3, r4⟩ := t.startReading_spec c (by rw [hcage]; exact hb)
    refine ⟨?_, ?_, ?_, ?_, fun _ => ?_, fun h => absurd h (by decide)⟩
    · rw [r2, hcage]; exact hst
    · rw [r2, hcage]
    · rw [r3, hcage]
    · rw [r4, hcage]
    · exact r1.congr hdev.now hdev.elapsed (by rw [hcage]) (by rw [hcage])

/-- R188: the row of a present cage whose rail is off. -/
theorem State.adoptionRow_unpowered {s : State} {c : CageNo} (h : (s.cage c).ciu.lines.rail = false) :
    s.adoptionRow c true = (s.recordB c).enterAdmit c := by
  simp [State.adoptionRow, h]

/-- R188: the row of a present cage that is powered and held in reset. -/
theorem State.adoptionRow_held {s : State} {c : CageNo} (h : (s.cage c).ciu.lines.rail = true)
    (hr : (s.cage c).ciu.lines.reset = true) : s.adoptionRow c true = (s.recordB c).drainAdoption c .admitWait := by
  simp [State.adoptionRow, h, hr]

/-- R188: the row of a present cage that runs. -/
theorem State.adoptionRow_running {s : State} {c : CageNo} (h : (s.cage c).ciu.lines.rail = true)
    (hr : (s.cage c).ciu.lines.reset = false) : s.adoptionRow c true = s.adopt c := by
  simp [State.adoptionRow, h, hr]

/-- R188, R187: a present cage in ADOPTING. -/
theorem State.adoptionRow_onlyLines (s : State) (c : CageNo) (present : Bool) :
    (s.cage c).OnlyLines ((s.adoptionRow c present).cage c) := by
  have hB : (s.cage c).OnlyLines ((s.recordB c).cage c) := by
    rw [s.recordB_cage c]
    exact .of_eq rfl rfl
  cases present with
  | false => exact (s.adoptionRow_absent c).1
  | true =>
    unfold State.adoptionRow
    simp only [if_true]
    split
    · exact hB.trans (.of_eq (State.enterAdmit_ciu _ c) ((s.recordB c).enterAdmit_keeps c).2.1)
    · split
      · exact hB.trans ((s.recordB c).drainAdoption_spec c .admitWait).1
      · exact (s.adopt_spec c).1

/-! ### A cage found DRAINING or FAULTED (R187) -/

/-- R187: a present one stays so, with a new record, which closes at once in FAULTED. -/
theorem State.adoptionLate_present (s : State) (c : CageNo) :
    let u := s.adoptionLate c true
    s.SameLists u ∧ (u.cage c).ciu = (s.cage c).ciu ∧ (u.cage c).profile = (s.cage c).profile ∧
      (u.cage c).image = (s.cage c).image ∧
      (u.cage c).seq = { (s.cage c).seq with insertion := some s.releaseTime } ∧
      (u.cage c).outage =
        (if (s.cage c).seq.state = .faulted then
          closedRecord s.releasedRecord s.now (s.cage c).seq.retry .faulted (s.cage c).seq.reason
        else s.releasedRecord) := by
  have hcage := s.recordB_cage c
  have hn : (s.recordB c).now = s.now := rfl
  unfold State.adoptionLate
  dsimp only
  simp only [if_true]
  split
  · refine ⟨fun p => ?_, ?_⟩
    · cases p <;> rfl
    · simp [hcage, hn]
  · exact ⟨fun p => by rw [State.recordB_port], by simp [hcage]⟩

/-- R187: an absent one is sent to EMPTY, or enters it from a power fault. -/
theorem State.adoptionLate_absent (s : State) (c : CageNo) :
    let u := s.adoptionLate c false
    (s.cage c).OnlyLines (u.cage c) ∧ (u.cage c).image = Machine.emptyImage ∧ (u.cage c).seq.insertion = none ∧
      (u.cage c).seq.reason = none ∧
      (u.cage c).outage =
        (if (s.cage c).outage.result = none then (s.cage c).outage else { emptyOutage with removal := some s.now }) ∧
      ((s.cage c).outage.result ≠ none → s.Posted u c .removed) ∧
      ((s.cage c).outage.result = none → s.SameLists u) ∧
      ((s.cage c).seq.state = .draining →
        (u.cage c).seq.state = .draining ∧ (u.cage c).seq.dest = some .empty ∧
          (u.cage c).seq.timers = (s.cage c).seq.timers) ∧
      ((s.cage c).seq.state = .faulted → (s.cage c).ciu.lines.rail = false → (u.cage c).seq.state = .empty) := by
  have h := (s.recordA c).removed_spec c
  obtain ⟨n1, n2, n3⟩ := ((s.recordA c).removed c).noticeA_spec c (s.cage c).outage.hasResult
  have hp := (s.recordA_rest c).2
  have hcage := s.recordA_cage c
  unfold State.adoptionLate
  simp only [Bool.false_eq_true, if_false, n1]
  generalize (s.recordA c).removed c = u at h n2 n3 ⊢
  obtain ⟨-, hl, hciu, hrec, himg, hprof, ⟨hins, -, hreason⟩, -, hdrain, hun⟩ := h
  simp only [hcage] at hciu hrec hprof hdrain hun
  refine ⟨⟨hciu, hprof⟩, himg, hins, hreason, hrec, fun hr p => ?_, fun hr p => ?_, fun hd => ?_, fun hf hr => ?_⟩
  · rw [n2 (Option.isSome_iff_ne_none.mpr hr) p, hl p, hp]
  · rw [n3 (by simp [Outage.hasResult, hr]) p, hl p, hp]
  · obtain ⟨h1, h2, h3, -⟩ := hdrain hd
    exact ⟨h1, h2, h3⟩
  · exact (hun hr (by simp [hf])).1

/-- R138: the end of the 18000 target changes the rail monitor only. -/
theorem State.settleBasis_lists (s : State) (c : CageNo) : s.SameLists (s.settleBasis c) := fun p => by
  cases p <;> simp [State.port]

end Sys2Proof.Machine

namespace Sys2Proof.Proofs

open Sys2Proof.Machine

/-- Settles O24: a cage in ADOPTING by the row of R188 its lines stand in, any other by what it is found in. -/
theorem adoptionPresenceIsTaken : Obligations.AdoptionPresenceIsTaken := by
  intro s c t hr hs ht
  have hexec := exec_settleIntervalEnd hr hs ht
  have honly := (only c).endSettle s
  have hcage := s.settledBase_cage c
  rw [s.endSettle_eq c] at hexec honly
  unfold State.adoptionPresence at hexec honly
  refine ⟨fun hst => ?_, fun hst => ?_⟩
  · rw [if_pos (by rw [hcage]; exact hst)] at hexec honly
    have hk := (s.settledBase c).adoptionRow_onlyLines c (s.cage c).ciu.presentPin
    refine ⟨_, hexec, honly, ?_, ?_, ?_, fun hp => ?_, fun hp hrail hb => ?_, fun hp hrail hb => ?_,
      fun hp hrail hreset => ?_, fun hp hrail hreset hseg => ?_⟩
    · rw [hk.ciu.settle, hcage]
    · rw [hk.ciu.presence, hcage]
    · rw [hk.profile, hcage]
    · obtain ⟨-, h1, h2, h3, h4⟩ := (s.settledBase c).adoptionRow_absent c
      simp only [hcage] at h1 h2 h3 h4
      rw [hp]
      exact ⟨h1, fun hn p => by rw [h2 hn p, s.settledBase_port c], h3, h4⟩
    all_goals
      have hB := s.recordB_renewed c
      have hcB := (s.settledBase c).recordB_cage c
      rw [hp]
    · rw [State.adoptionRow_unpowered (by rw [hcage]; exact hrail)]
      obtain ⟨h1, h2, h3⟩ := hB.asks.2 hb
      rw [hcB] at h1 h3
      exact ⟨h3, h2, h1⟩
    · rw [State.adoptionRow_unpowered (by rw [hcage]; exact hrail)]
      obtain ⟨ha, -, hq⟩ := hB.asks.1 hb
      refine ⟨ha.state.1, ha.kept.2.2.trans ?_, ha.kept.2.1.trans ?_, hq⟩
      · rw [hcB]; rfl
      · rw [hcB]; rfl
    · rw [State.adoptionRow_held (by rw [hcage]; exact hrail) (by rw [hcage]; exact hreset)]
      obtain ⟨-, -, d3, d4, d5, d6⟩ := ((s.settledBase c).recordB c).drainAdoption_spec c .admitWait
      refine ⟨d4, d5, d6.trans ?_, d3.trans ?_⟩
      · rw [hcB]; rfl
      · rw [hcB]; rfl
    · rw [State.adoptionRow_running (by rw [hcage]; exact hrail) (by rw [hcage]; exact hreset)]
      obtain ⟨a1, a2, a3, a4, a5, a6⟩ := ((s.settledBase c).adopt_spec c).2 (by rw [hcage]; exact hseg)
        (by rw [hcage]; exact hst)
      simp only [hcage] at a3 a4 a5 a6
      exact ⟨a1, a2, a3, a4, fun h => (a5 h).congr rfl rfl (by rw [hcage]) (by rw [hcage]), a6⟩
  · rw [if_neg (by rw [hcage]; rcases hst with h | h <;> simp [h])] at hexec honly
    cases hp : (s.cage c).ciu.presentPin with
    | true =>
      rw [hp] at hexec honly hcage
      obtain ⟨l1, l2, l3, l4, l5, l6⟩ := (s.settledBase c).adoptionLate_present c
      have hl := ((s.settledBase c).adoptionLate c true).settleBasis_lists c
      simp only [hcage] at l2 l3 l4 l5 l6
      refine ⟨_, hexec, honly, ?_⟩
      simp only [State.settleBasis_parts]
      refine ⟨by rw [l2], by rw [l2], l3, fun _ => ⟨fun p => ?_, l5, by rw [l2], l4, l6⟩, fun h => absurd h (by decide)⟩
      rw [hl p, l1 p, s.settledBase_port c]
    | false =>
      rw [hp] at hexec honly hcage
      obtain ⟨l1, l2, l3, l4, l5, l6, l7, l8, l9⟩ := (s.settledBase c).adoptionLate_absent c
      have hl := ((s.settledBase c).adoptionLate c false).settleBasis_lists c
      simp only [hcage] at l1 l5 l6 l7 l8 l9
      refine ⟨_, hexec, honly, ?_⟩
      simp only [State.settleBasis_parts]
      refine ⟨l1.ciu.settle, l1.ciu.presence, l1.profile, fun h => absurd h (by decide),
        fun _ => ⟨l2, l3, l4, l5, fun hn p => ?_, fun hn p => ?_, l8, l9⟩⟩
      · rw [hl p, l6 hn p, s.settledBase_port c]
      · rw [hl p, l7 hn p, s.settledBase_port c]

end Sys2Proof.Proofs
end

section
/-! Operations made for several cages in turn. What the operation on one cage leaves of every other (`State.Beside`), so
that a cage's own part of the whole can be told from the operation on it alone. -/

namespace Sys2Proof.Machine

/-! ### Operations confined to a cage -/

/-- Engines carry no item they did not carry before. -/
def State.CarriesLess (s t : State) : Prop :=
  ∀ e k, (t.engine e).current = some k → ∃ x, (s.engine e).current = some x ∧ x.item = k.item

theorem State.CarriesLess.of_engines {s t : State} (h : ∀ e, t.engine e = s.engine e) : s.CarriesLess t :=
  fun e k hk => ⟨k, by rw [← h e]; exact hk, rfl⟩

theorem State.CarriesLess.of_only {s t : State} {c : CageNo} (ho : s.OnlyCage t c)
    (h : ∀ k, (t.engine (engineOf c)).current = some k →
      ∃ x, (s.engine (engineOf c)).current = some x ∧ x.item = k.item) : s.CarriesLess t := by
  intro e k hk
  by_cases he : e = engineOf c
  · subst he
    exact h k hk
  · rw [ho.engines e he] at hk
    exact ⟨k, hk, rfl⟩

theorem State.CarriesLess.trans {s t u : State} (a : s.CarriesLess t) (b : t.CarriesLess u) : s.CarriesLess u := by
  intro e k hk
  obtain ⟨x, hx, hxk⟩ := b e k hk
  obtain ⟨y, hy, hyx⟩ := a e x hx
  exact ⟨y, hy, hyx.trans hxk⟩

/-- A change of an engine that changes what it carries, if anything, but not the item. -/
theorem State.CarriesLess.modEngine (s : State) (e : EngineNo) (f : Engine → Engine)
    (h : ∀ k, (f (s.engine e)).current = some k → ∃ x, (s.engine e).current = some x ∧ x.item = k.item) :
    s.CarriesLess (s.modEngine e f) := by
  intro e2 k hk
  rw [State.modEngine_engine] at hk
  split at hk
  · next he => subst he; exact h k hk
  · exact ⟨k, hk, rfl⟩

/-- A carried item that is marked is the same item. -/
theorem exists_item_of_map {o : Option Carry} {f : Carry → Carry} (hf : ∀ k, (f k).item = k.item) {k : Carry}
    (hk : o.map f = some k) : ∃ x, o = some x ∧ x.item = k.item := by
  obtain ⟨x, hx, rfl⟩ := Option.map_eq_some_iff.mp hk
  exact ⟨x, hx, (hf x).symm⟩

theorem State.CarriesLess.cutCarried (s : State) (c : CageNo) : s.CarriesLess (s.cutCarried c) := by
  have away : s.CarriesLess (s.modEngine (engineOf c) fun e => { e with current := none, selected := none }) :=
    .modEngine s _ _ fun k hk => by simp at hk
  unfold State.cutCarried
  split
  · split
    · dsimp only
      split
      · exact away.trans (.of_engines fun e => State.answer_engine _ _ _ _ e)
      · exact away
    · exact .of_engines fun _ => rfl
  · exact .of_engines fun _ => rfl

theorem State.CarriesLess.putDown (s : State) (e : EngineNo) (k : Carry) (o : Ending) : s.CarriesLess (s.putDown e k o) := by
  unfold State.putDown
  exact (State.CarriesLess.modEngine s e (fun g => { g with current := none, selected := none }) fun _ hk => by
    simp at hk).trans (.of_engines fun _ => rfl)

/-- From `s` to `t` an operation was made that is confined to a cage: it touches that cage only, has no engine carry another
item, and leaves the slots of a port without a passthrough for the cage. -/
structure State.Confined (s t : State) (c : CageNo) : Prop where
  only : s.OnlyCage t c
  carries : s.CarriesLess t
  slots : ∀ p, s.KeepsSlots t c p

/-- An operation on a cage that leaves the engines is confined to it. -/
theorem State.Confined.of_engines {c : CageNo} {s t : State} (ho : s.OnlyCage t c)
    (hs : ∀ p, s.KeepsSlots t c p) (h : ∀ e, t.engine e = s.engine e) : s.Confined t c := ⟨ho, .of_engines h, hs⟩

/-- Every operation on a cage is confined to it. -/
def confined (c : CageNo) : Closed c where
  R := fun s t => s.Confined t c
  refl' := fun s => ⟨.refl s c, .of_engines fun _ => rfl, fun _ h => ⟨h, rfl, rfl⟩⟩
  trans' := fun a b => ⟨a.only.trans b.only, a.carries.trans b.carries, fun p => (a.slots p).trans (b.slots p)⟩
  modSeq := fun s f => .of_engines ((only c).modSeq s f) (fun p => (State.KeepsSlots.closed c p).modSeq s f) fun _ => rfl
  modOutage := fun s f =>
    .of_engines ((only c).modOutage s f) (fun p => (State.KeepsSlots.closed c p).modOutage s f) fun _ => rfl
  modImage := fun s f =>
    .of_engines ((only c).modImage s f) (fun p => (State.KeepsSlots.closed c p).modImage s f) fun _ => rfl
  modBus := fun s f => .of_engines ((only c).modBus s f) (fun p => (State.KeepsSlots.closed c p).modBus s f) fun _ => rfl
  modCiu := fun s f h =>
    .of_engines ((only c).modCiu s f h) (fun p => (State.KeepsSlots.closed c p).modCiu s f h) fun _ => rfl
  nextPoll := fun s f =>
    .of_engines ((only c).nextPoll s f) (fun p => (State.KeepsSlots.closed c p).nextPoll s f) fun _ => rfl
  learned := fun s u l =>
    .of_engines ((only c).learned s u l) (fun p => (State.KeepsSlots.closed c p).learned s u l) fun _ => rfl
  setCharge := fun s n =>
    .of_engines ((only c).setCharge s n) (fun p => (State.KeepsSlots.closed c p).setCharge s n) fun _ => rfl
  railOn := fun s => .of_engines ((only c).railOn s) (fun p => (State.KeepsSlots.closed c p).railOn s) fun _ => by
    unfold State.railOn; split <;> rfl
  railOff := fun s => .of_engines ((only c).railOff s) (fun p => (State.KeepsSlots.closed c p).railOff s) fun _ => by
    unfold State.railOff; split <;> rfl
  resetAssert := fun s =>
    .of_engines ((only c).resetAssert s) (fun p => (State.KeepsSlots.closed c p).resetAssert s) fun _ => rfl
  resetRelease := fun s =>
    .of_engines ((only c).resetRelease s) (fun p => (State.KeepsSlots.closed c p).resetRelease s) fun _ => rfl
  lpLine := fun s => .of_engines ((only c).lpLine s) (fun p => (State.KeepsSlots.closed c p).lpLine s) fun _ => rfl
  lpRelease := fun s =>
    .of_engines ((only c).lpRelease s) (fun p => (State.KeepsSlots.closed c p).lpRelease s) fun _ => rfl
  settleBasis := fun s =>
    .of_engines ((only c).settleBasis s) (fun p => (State.KeepsSlots.closed c p).settleBasis s) fun _ => by
      unfold State.settleBasis; split <;> rfl
  queue := fun s f h =>
    .of_engines ((only c).queue s f h) (fun p => (State.KeepsSlots.closed c p).queue s f h) fun _ => rfl
  cancel := fun s w => ⟨(only c).cancel s w,
    .modEngine s _ _ fun _ hk => exists_item_of_map (fun k => by split <;> rfl) hk,
    fun p => (State.KeepsSlots.closed c p).cancel s w⟩
  endPass := fun s st q => ⟨(only c).endPass s st q,
    .of_only ((only c).endPass s st q) fun k hk => ⟨k, by rw [← (s.endPass_engine c st q).1]; exact hk, rfl⟩,
    fun p => (State.KeepsSlots.closed c p).endPass s st q⟩
  cutCarried := fun s => ⟨(only c).cutCarried s, .cutCarried s c, fun p => (State.KeepsSlots.closed c p).cutCarried s⟩
  abortCarried := fun s => ⟨(only c).abortCarried s,
    .modEngine s _ _ fun _ hk => exists_item_of_map (fun k => by split <;> rfl) hk,
    fun p => (State.KeepsSlots.closed c p).abortCarried s⟩
  putAway := fun s k hk hc => ⟨(only c).putAway s k hk hc, .modEngine s _ _ fun k hk => by simp at hk,
    fun p => (State.KeepsSlots.closed c p).putAway s k hk hc⟩
  giveBack := fun s k o q hk hc hw => ⟨(only c).giveBack s k o q hk hc hw,
    (State.CarriesLess.putDown s _ k o).trans (.of_engines fun e => State.answer_engine _ _ _ _ e),
    fun p => (State.KeepsSlots.closed c p).giveBack s k o q hk hc hw⟩
  addItem := fun s i hi hw => ⟨(only c).addItem s i hi hw, .modEngine s _ _ fun k hk => ⟨k, hk, rfl⟩,
    fun p => (State.KeepsSlots.closed c p).addItem s i hi hw⟩
  postTo := fun s q k =>
    .of_engines ((only c).postTo s q k) (fun p => (State.KeepsSlots.closed c p).postTo s q k) fun _ => by cases q <;> rfl
  postDeviceTo := fun s q k =>
    .of_engines ((only c).postDeviceTo s q k) (fun p => (State.KeepsSlots.closed c p).postDeviceTo s q k) fun _ => by
      cases q <;> rfl

/-! ### What an operation leaves of another cage -/

/-- From `s` to `t` only other cages than `c` were operated on: the cage stays, its group but for the committed charge and
the other cages' entries, its items, and its attention entries. -/
structure State.Beside (s t : State) (c : CageNo) : Prop where
  device : s.SameDevice t
  cage : t.cage c = s.cage c
  group : t.group (groupOf c) =
    { s.group (groupOf c) with
      committed := (t.group (groupOf c)).committed, queue := (t.group (groupOf c)).queue }
  queued : ∀ e : Entry, e.cage = c → (e ∈ (t.group (groupOf c)).queue ↔ e ∈ (s.group (groupOf c)).queue)
  waiting : ∀ i : Item, i.cage = c → (i ∈ (t.engine (engineOf c)).waiting ↔ i ∈ (s.engine (engineOf c)).waiting)
  carried : ∀ k, (s.engine (engineOf c)).current = some k → k.item.cage = c → (t.engine (engineOf c)).current = some k
  carries : s.CarriesLess t
  entries : ∀ p, entriesOf (t.port p).list c = entriesOf (s.port p).list c

theorem State.Beside.refl (s : State) (c : CageNo) : s.Beside s c :=
  ⟨.refl s, rfl, rfl, fun _ _ => .rfl, fun _ _ => .rfl, fun _ h _ => h, .of_engines fun _ => rfl, fun _ => rfl⟩

theorem State.Beside.trans {s t u : State} {c : CageNo} (a : s.Beside t c) (b : t.Beside u c) : s.Beside u c where
  device := a.device.trans b.device
  cage := b.cage.trans a.cage
  group := by rw [b.group, a.group]
  queued := fun e he => (b.queued e he).trans (a.queued e he)
  waiting := fun i hi => (b.waiting i hi).trans (a.waiting i hi)
  carried := fun k hk hc => b.carried k (a.carried k hk hc) hc
  carries := a.carries.trans b.carries
  entries := fun p => (b.entries p).trans (a.entries p)

/-- What a filter keeps and two lists filter alike is in both or in neither. -/
theorem mem_iff_of_filter_eq {α : Type} {l m : List α} {f : α → Bool} (h : l.filter f = m.filter f) {x : α}
    (hx : f x = true) : x ∈ l ↔ x ∈ m := by
  have key : ∀ l : List α, x ∈ l ↔ x ∈ l.filter f := fun l => by simp [hx]
  rw [key l, key m, h]

theorem State.Confined.beside {s t : State} {c d : CageNo} (h : s.Confined t d) (hd : c ≠ d) : s.Beside t c where
  device := h.only.device
  cage := h.only.cages c hd
  group := by
    by_cases hg : groupOf c = groupOf d
    · rw [hg, h.only.group]
    · rw [h.only.groups _ hg]
  queued := fun e he => by
    by_cases hg : groupOf c = groupOf d
    · rw [hg]
      exact mem_iff_of_filter_eq h.only.queue (by simp [he, hd])
    · rw [h.only.groups _ hg]
  waiting := fun i hi => by
    by_cases hg : engineOf c = engineOf d
    · rw [hg]
      exact mem_iff_of_filter_eq h.only.waiting (by simp [hi, hd])
    · rw [h.only.engines _ hg]
  carried := fun k hk hc => by
    by_cases hg : engineOf c = engineOf d
    · rw [hg] at hk ⊢
      have hfree : (s.engine (engineOf d)).Free d := fun x hx => by
        rw [hk] at hx
        cases hx
        rw [hc]
        exact hd
      rw [(h.only.carried hfree).1, hk]
    · rw [h.only.engines _ hg, hk]
  carries := h.carries
  entries := fun p => h.only.entries p c hd

/-- Where no passthrough for the cage is, none has come by operations on other cages, and none has gone. -/
theorem State.Beside.noPassFor {s t : State} {c : CageNo} (h : s.Beside t c) (p : Port) :
    t.NoPassFor c p ↔ s.NoPassFor c p := by
  refine ⟨fun ⟨hw, hk⟩ => ⟨fun i hi hc => hw i ((h.waiting i hc).mpr hi) hc, fun k hs hc => hk k (h.carried k hs hc) hc⟩,
    fun ⟨hw, hk⟩ => ⟨fun i hi hc => hw i ((h.waiting i hc).mp hi) hc, fun k ht hc => ?_⟩⟩
  obtain ⟨x, hx, hxk⟩ := h.carries _ k ht
  rw [← hxk] at hc ⊢
  exact hk x hx hc

/-! ### One operation for each cage of a list -/

theorem State.each_cons (s : State) (d : CageNo) (l : List CageNo) (f : CageNo → State → State) :
    s.each (d :: l) f = (f d s).each l f := rfl

/-- What every operation keeps, the whole keeps. -/
theorem State.each_keeps {f : CageNo → State → State} {R : State → State → Prop} (refl : ∀ s, R s s)
    (trans : ∀ {s t u}, R s t → R t u → R s u) (l : List CageNo) (hf : ∀ d ∈ l, ∀ s, R s (f d s)) (s : State) :
    R s (s.each l f) := by
  induction l generalizing s with
  | nil => exact refl s
  | cons d l ih =>
    exact trans (hf d (List.mem_cons_self ..) s) (ih (fun d hd => hf d (List.mem_cons_of_mem _ hd)) _)

theorem State.each_beside_of_notMem {f : CageNo → State → State} (hf : ∀ d s, (confined d).To s (f d s)) {c : CageNo}
    {l : List CageNo} (hc : c ∉ l) (s : State) : s.Beside (s.each l f) c :=
  State.each_keeps (R := fun s t => s.Beside t c) (fun s => .refl s c) (fun a b => a.trans b) l
    (fun d hd s => State.Confined.beside (hf d s) (by rintro rfl; exact hc hd)) s

/-- What is kept by each operation holds of the cages before and after one of them as well. -/
theorem State.each_around {f : CageNo → State → State} (hf : ∀ d s, (confined d).To s (f d s)) {R : State → State → Prop}
    (refl : ∀ s, R s s) (trans : ∀ {s t u}, R s t → R t u → R s u) {c : CageNo} {l : List CageNo}
    (hR : ∀ d ∈ l, ∀ s, R s (f d s)) (hn : l.Nodup) (hc : c ∈ l) (s : State) :
    ∃ t, s.Beside t c ∧ R s t ∧ (f c t).Beside (s.each l f) c ∧ R (f c t) (s.each l f) := by
  obtain ⟨l1, l2, rfl⟩ := List.append_of_mem hc
  have h1 : c ∉ l1 := fun h => (List.nodup_append.mp hn).2.2 c h c (List.mem_cons_self ..) rfl
  have h2 : c ∉ l2 := (List.nodup_cons.mp (List.nodup_append.mp hn).2.1).1
  have he : s.each (l1 ++ c :: l2) f = (f c (s.each l1 f)).each l2 f := by simp [State.each, List.foldl_append]
  rw [he]
  exact ⟨s.each l1 f, State.each_beside_of_notMem hf h1 s,
    State.each_keeps refl trans l1 (fun d hd => hR d (by simp [hd])) s, State.each_beside_of_notMem hf h2 _,
    State.each_keeps refl trans l2 (fun d hd => hR d (by simp [hd])) _⟩

/-- Around the operation on a cage only other cages are operated on. -/
theorem State.each_beside {f : CageNo → State → State} (hf : ∀ d s, (confined d).To s (f d s)) {c : CageNo}
    {l : List CageNo} (hn : l.Nodup) (hc : c ∈ l) (s : State) :
    ∃ t, s.Beside t c ∧ (f c t).Beside (s.each l f) c := by
  obtain ⟨t, ht, -, hu, -⟩ := State.each_around hf (R := fun _ _ => True) (fun _ => trivial) (fun _ _ => trivial)
    (fun _ _ _ => trivial) hn hc s
  exact ⟨t, ht, hu⟩

/-! ### The slots of a port without passthroughs -/

/-- No passthrough of a port waits or is carried for any cage, as `State.NoPassFor` says of one. -/
def State.NoPassAny (s : State) (p : Port) : Prop := ∀ c, s.NoPassFor c p

theorem State.NoPass.any {s : State} {p : Port} (h : s.NoPass p) : s.NoPassAny p :=
  fun c => ⟨fun i hi _ => (h (engineOf c)).1 i hi, fun k hk _ => (h (engineOf c)).2 k hk⟩

/-- Operations on cages leave the slots of a port without passthroughs. -/
theorem State.each_slots {f : CageNo → State → State} (hf : ∀ d s, (confined d).To s (f d s)) (l : List CageNo)
    {s : State} {p : Port} (h : s.NoPassAny p) :
    ((s.each l f).port p).reply = (s.port p).reply ∧ ((s.each l f).port p).request = (s.port p).request := by
  have key := State.each_keeps
    (R := fun s t => s.NoPassAny p →
      t.NoPassAny p ∧ (t.port p).reply = (s.port p).reply ∧ (t.port p).request = (s.port p).request)
    (fun s h => ⟨h, rfl, rfl⟩)
    (fun a b h => ⟨(b (a h).1).1, (b (a h).1).2.1.trans (a h).2.1, (b (a h).1).2.2.trans (a h).2.2⟩) l
    (fun d _ s h => by
      obtain ⟨hn, hr, hq⟩ := State.Confined.slots (hf d s) p (h d)
      refine ⟨fun c => ?_, hr, hq⟩
      by_cases hc : c = d
      · subst hc; exact hn
      · exact ((State.Confined.beside (hf d s) hc).noPassFor p).mpr (h c)) s h
  exact key.2

/-! ### Entries of an attention list -/

/-- R182: a posted kind is in the list, at the entry it was posted for. -/
theorem addKind_has (l : List AttEntry) (w : Option CageNo) {k : BitVec 16} (hk : k ≠ 0) (r : Option ResetCause) :
    ∃ a ∈ addKind l w k r, a.who = w ∧ a.kinds &&& k ≠ 0 := by
  have hself : ∀ x : BitVec 16, (x ||| k) &&& k = k := fun x => by
    ext i hi
    simp only [BitVec.getElem_and, BitVec.getElem_or]
    cases x[i] <;> cases k[i] <;> rfl
  induction l with
  | nil => exact ⟨⟨w, k, r⟩, by simp [addKind], rfl, by simpa using hk⟩
  | cons a l ih =>
    unfold addKind
    split
    · next ha => exact ⟨_, List.mem_cons_self .., ha, by rw [hself]; exact hk⟩
    · obtain ⟨b, hb, hw, hbk⟩ := ih
      exact ⟨b, List.mem_cons_of_mem _ hb, hw, hbk⟩

/-- An entry for a cage is found where the entries for it are the same. -/
theorem exists_entry_congr {l m : List AttEntry} {c : CageNo} (h : entriesOf m c = entriesOf l c) {P : AttEntry → Prop}
    (hl : ∃ a ∈ l, a.who = some c ∧ P a) : ∃ a ∈ m, a.who = some c ∧ P a := by
  obtain ⟨a, ha, hw, hp⟩ := hl
  exact ⟨a, (mem_iff_of_filter_eq h (by simp [hw])).mpr ha, hw, hp⟩

end Sys2Proof.Machine
end

section
/-! Masks, the attention line and the settings of a port (R180, R184), and a new debounce time (R10). -/

namespace Sys2Proof.Machine

/-! ### Numbers of two bytes (R185) -/

theorem toNat_append_bytes (hi lo : Byte) : (hi ++ lo).toNat = hi.toNat * 256 + lo.toNat := by
  rw [BitVec.toNat_append, Nat.shiftLeft_eq, Nat.mul_comm, ← Nat.two_pow_add_eq_or_of_lt lo.isLt, Nat.mul_comm]

theorem u16_eq (n : Nat) : u16 n = bytesOf16 (BitVec.ofNat 16 n) := by
  have h : (BitVec.ofNat 16 n >>> 8).setWidth 8 = BitVec.ofNat 8 (n / 256) := by
    apply BitVec.eq_of_toNat_eq
    simp only [BitVec.toNat_setWidth, BitVec.toNat_ushiftRight, BitVec.toNat_ofNat, Nat.shiftRight_eq_div_pow]
    omega
  have h2 : (BitVec.ofNat 16 n).setWidth 8 = BitVec.ofNat 8 n := by
    apply BitVec.eq_of_toNat_eq
    simp only [BitVec.toNat_setWidth, BitVec.toNat_ofNat]
    omega
  simp [u16, bytesOf16, h, h2]

/-- R180: a stored setting, as held to its range and rounded down. -/
theorem storedSetting_eq (lo hi step v : Nat) :
    storedSetting lo hi step v = if v < lo then lo else if hi < v then hi else v - v % step := by
  unfold storedSetting
  rw [Nat.div_mul_self_eq_mod_sub_self]

/-! ### The attention line (R184) -/

/-- A bit of a set that a mask leaves. -/
theorem and_not_ne_zero_iff (x m : BitVec 16) :
    x &&& ~~~m ≠ 0 ↔ ∃ n, n < 16 ∧ x.getLsbD n = true ∧ m.getLsbD n = false := by
  constructor
  · intro h
    by_contra hn
    push Not at hn
    refine h (BitVec.eq_of_getLsbD_eq fun n hlt => ?_)
    have := hn n hlt
    cases hx : x.getLsbD n <;> simp_all
  · rintro ⟨n, hlt, hx, hm⟩ h
    have hb : (x &&& ~~~m).getLsbD n = false := by rw [h]; simp
    rw [BitVec.getLsbD_and, BitVec.getLsbD_not, hx, hm] at hb
    simp [hlt] at hb

/-- R184: an entry drives the line by a kind that the mask for its entries leaves. -/
theorem AttEntry.drives_iff (a : AttEntry) (cageMask : BitVec 16) (deviceMask : Byte) :
    a.drives cageMask deviceMask = true ↔
      ∃ n, n < 16 ∧ a.kinds.getLsbD n = true ∧
        ((∃ c, a.who = some c) ∧ cageMask.getLsbD n = false ∨ a.who = none ∧ deviceMask.getLsbD n = false) := by
  have hw : ∀ n, n < 16 → (deviceMask.setWidth 16).getLsbD n = deviceMask.getLsbD n := fun n hn => by
    simp [hn]
  cases ha : a.who with
  | some c => simp only [AttEntry.drives, ha, decide_eq_true_eq, and_not_ne_zero_iff]; simp
  | none =>
    simp only [AttEntry.drives, ha, decide_eq_true_eq, and_not_ne_zero_iff]
    refine exists_congr fun n => and_congr_right fun hn => ?_
    simp [hw n hn]

/-! ### A request taken, and its answer -/

section
variable (s : State) (p : Port) (code target : Byte) (r : List Byte)

theorem State.take_now : (s.take p code target r).now = s.now := by cases p <;> rfl

theorem State.take_settings : (s.take p code target r).settings = s.settings := by cases p <;> rfl

theorem State.take_reply : ((s.take p code target r).port p).reply = .pending code target := by cases p <;> rfl

theorem State.take_port_ne {s : State} {p : Port} (code target : Byte) (r : List Byte) {x : Port} (h : x ≠ p) : (s.take p code target r).port x = s.port x := by
  rw [State.take, State.modPort_port, if_neg h]

theorem State.take_noPass {x : Port} (h : s.NoPassAny x) : (s.take p code target r).NoPassAny x := by
  cases p <;> exact h

theorem State.answer_settings (st : ReplyStatus) (d : List Byte) : (s.answer p st d).settings = s.settings := by
  cases p <;> rfl

end

theorem port_other_ne (p : Port) : p.other ≠ p := by cases p <;> decide

/-- R174: the outcome of a request that is served. -/
theorem State.answer_answers {s : State} {p : Port} {code target : Byte} (h : (s.port p).reply = .pending code target)
    (st : ReplyStatus) (d : List Byte) :
    ((s.answer p st d).port p).reply = .answered st code target d ∧ ((s.answer p st d).port p).request = none := by
  unfold State.answer
  rw [State.modPort_port, if_pos rfl, h]
  exact ⟨rfl, rfl⟩

/-! ### A setting taken and answered -/

section
variable {s : State} {q : Req}

/-- The port's masks stored between the taking of its request and the answer. -/
theorem State.take_setMasks (s : State) (q : Req) (code : Byte) (r : List Byte) (c1 c2 d : Byte) :
    (s.take q.port code q.target r).setMasks q.port [c1, c2, d] =
      (s.modPort q.port fun x =>
        { x with cageMask := (c1 ++ c2) &&& 0x0FFF, deviceMask := d &&& 0x1F }).replied q code .ok
          (bytesOf16 ((c1 ++ c2) &&& 0x0FFF) ++ [d &&& 0x1F]) := by
  cases hq : q.port <;>
    simp [State.setMasks, State.take, State.answer, State.replied, State.modPort, hq, word16, byteAt, cageMaskBits,
      deviceMaskBits]

/-- A change of the settings between the taking of a request and the answer. -/
theorem State.take_modSettings_answer (s : State) (q : Req) (code : Byte) (r : List Byte) (f : Settings → Settings)
    (st : ReplyStatus) (d : List Byte) :
    ((s.take q.port code q.target r).modSettings f).answer q.port st d =
      ({ s with settings := f s.settings } : State).replied q code st d := by
  cases hq : q.port <;> simp [State.take, State.answer, State.replied, State.modPort, State.modSettings, hq]

/-- R180: a SET_TIMING that is taken stores its value and answers with it. -/
theorem State.Takes.setTiming {hi lo : Byte} (h : s.Takes q 1 2) (hb : q.body = [hi, lo]) (hp : q.port = .B)
    (sel low high step : Nat) (f : Nat → State → State) :
    let v := (hi ++ lo).toNat
    let n := storedSetting low high step v
    event s (fun s => s.serve q (timingShape (BitVec.ofNat 8 sel)) fun s => s.setTiming q sel low high step f) =
      .next
        ((f n (s.take q.port 0x14 q.target (recordOf q (timingShape (BitVec.ofNat 8 sel))))).answer q.port
          (if n = v then .ok else .clamped) ([BitVec.ofNat 8 sel] ++ bytesOf16 (BitVec.ofNat 16 n))).settle := by
  have hv : num16 q.body 0 = (hi ++ lo).toNat := by
    rw [hb, toNat_append_bytes]; rfl
  dsimp only
  rw [event_awake h.awake, State.serve_takes h (by rw [hp]; rfl) rfl rfl, State.setTiming, hv, State.done, u16_eq]
  rfl

/-- R180: a setting that only is stored. -/
theorem State.Takes.storesSetting {hi lo : Byte} (h : s.Takes q 1 2) (hb : q.body = [hi, lo]) (hp : q.port = .B)
    (sel low high step : Nat) (f : Nat → Settings → Settings) :
    let v := (hi ++ lo).toNat
    let n := storedSetting low high step v
    event s (fun s => s.serve q (timingShape (BitVec.ofNat 8 sel)) fun s =>
        s.setTiming q sel low high step fun v s => s.modSettings (f v)) =
      .next
        (({ s with settings := f n s.settings } : State).replied q 0x14 (if n = v then .ok else .clamped)
          ([BitVec.ofNat 8 sel] ++ bytesOf16 (BitVec.ofNat 16 n))).settle := by
  dsimp only
  rw [h.setTiming hb hp, State.take_modSettings_answer]

end

/-! ### A new debounce time (R10) -/

theorem confined_acceptDue (d : CageNo) (s : State) : (confined d).To s (s.acceptDue d) := (confined d).acceptDue s

/-- R9, R10: what an accepted candidate leaves, whatever the sequencer does with it. -/
structure State.CandidateTaken (u : State) (c : CageNo) (x : Candidate) : Prop where
  candidate : (u.cage c).ciu.candidate = none
  present : x.level = true →
    (u.cage c).ciu.presence = .present ∧ (u.cage c).outage.insertion = some x.capture ∧
      ∀ p, ∃ a ∈ (u.port p).list, a.who = some c ∧ a.kinds &&& CageKind.inserted.bit ≠ 0
  absent : x.level = false →
    (u.cage c).ciu.presence = .absent ∧ (u.cage c).outage.removal = some x.capture ∧
      ∀ p, ∃ a ∈ (u.port p).list, a.who = some c ∧ a.kinds &&& CageKind.removed.bit ≠ 0

theorem CageKind.bit_ne_zero (k : CageKind) : k.bit ≠ 0 := by cases k <;> decide

theorem State.post_has (s : State) (c : CageNo) (k : CageKind) (p : Port) :
    ∃ a ∈ ((s.post c k).port p).list, a.who = some c ∧ a.kinds &&& k.bit ≠ 0 := by
  rw [s.post_posted c k p]
  exact addKind_has _ _ k.bit_ne_zero _

/-- R16: the record of an accepted insertion keeps its time, open or closed at once. -/
theorem State.inserted_record (s : State) (c : CageNo) (t : Stamp) :
    (((s.presentBase c t).inserted c t).cage c).outage.insertion = some t := by
  have hcage := s.presentBase_cage c t
  have ho : ((s.presentBase c t).cage c).outage.insertion = some t := by rw [hcage]; rfl
  unfold State.inserted
  split
  · generalize hb : ((s.presentBase c t).modSeq c fun q => { q with insertion := some t }) = b
    have hbo : (b.cage c).outage.insertion = some t := by rw [← hb]; simpa using ho
    by_cases hbud : 1500 ≤ (b.group (groupOf c)).budget
    · rw [(b.enterAdmit_spec c hbud).kept.2.1, hbo]
    · rw [(b.enterAdmit_never c (by omega)).1.record]
      unfold closedRecord
      split <;> exact hbo
  · simpa using ho
  · exact ho

theorem State.accept_taken (s : State) (c : CageNo) (x : Candidate) : (s.accept c x).CandidateTaken c x := by
  obtain ⟨level, t⟩ := x
  cases level with
  | true =>
    obtain ⟨k1, k2, -⟩ := s.inserted_kept c t
    rw [s.accept_present]
    exact ⟨by simpa using k2, fun _ => ⟨by simpa using k1, by simpa using s.inserted_record c t, State.post_has _ c _⟩,
      nofun⟩
  | false =>
    have h := (s.absentBase c t).removed_spec c
    have hcage := s.absentBase_cage c t
    rw [s.accept_absent]
    refine ⟨?_, nofun, fun _ => ⟨?_, ?_, State.post_has _ c _⟩⟩
    · rw [(State.post_parts _ c _).1, h.ciu.candidate, hcage]
    · rw [(State.post_parts _ c _).1, h.ciu.presence, hcage]
    · rw [(State.post_parts _ c _).2.1, h.record, hcage]

/-- What was taken of a candidate stays through operations on other cages. -/
theorem State.CandidateTaken.beside {s u : State} {c : CageNo} {x : Candidate} (h : s.CandidateTaken c x)
    (hb : s.Beside u c) : u.CandidateTaken c x where
  candidate := by rw [hb.cage]; exact h.candidate
  present := fun hx => by
    obtain ⟨h1, h2, h3⟩ := h.present hx
    rw [hb.cage]
    exact ⟨h1, h2, fun p => exists_entry_congr (hb.entries p) (h3 p)⟩
  absent := fun hx => by
    obtain ⟨h1, h2, h3⟩ := h.absent hx
    rw [hb.cage]
    exact ⟨h1, h2, fun p => exists_entry_congr (hb.entries p) (h3 p)⟩

theorem State.CandidateTaken.answer {u : State} {c : CageNo} {x : Candidate} (h : u.CandidateTaken c x) (p : Port)
    (st : ReplyStatus) (d : List Byte) : (u.answer p st d).CandidateTaken c x where
  candidate := by rw [State.answer_cage]; exact h.candidate
  present := by simpa only [State.answer_cage, State.answer_list] using h.present
  absent := by simpa only [State.answer_cage, State.answer_list] using h.absent

/-- R9, R10: a candidate has held the debounce time exactly where it is due under it. -/
theorem State.heldFor_iff {s t : State} {c : CageNo} (hc : t.cage c = s.cage c) (hn : t.now = s.now) :
    s.HeldFor c t.settings.debounce ↔ t.candidateDue c = true := by
  unfold State.HeldFor
  rw [← hc, ← hn]
  cases hx : (t.cage c).ciu.candidate with
  | none => simp [State.candidateDue, hx]
  | some x => simp [State.candidateDue_iff hx, and_comm]

/-- R10: what a new debounce time leaves of a cage: its candidate is accepted if it has held the time, and the cage stays
as it is if not. -/
theorem State.changeDebounce_cage (s : State) (v : Nat) (c : CageNo) :
    (¬s.HeldFor c v → (s.changeDebounce v).cage c = s.cage c) ∧
      ∀ x, s.HeldFor c v → (s.cage c).ciu.candidate = some x → (s.changeDebounce v).CandidateTaken c x := by
  obtain ⟨t, ht, hu⟩ := State.each_beside confined_acceptDue (List.nodup_finRange 32) (List.mem_finRange c)
    (s.modSettings fun x => { x with debounce := v })
  have hc : t.cage c = s.cage c := ht.cage
  have hv : t.settings.debounce = v := by rw [ht.device.settings]; rfl
  have hiff := State.heldFor_iff hc ht.device.now
  rw [hv] at hiff
  have hall : (s.modSettings fun x => { x with debounce := v }).each (List.finRange 32) (fun c s => s.acceptDue c) =
      s.changeDebounce v := rfl
  rw [hall] at hu
  refine ⟨fun hn => ?_, fun x hh hx => ?_⟩
  · rw [hu.cage, ← hc]
    have hd : t.candidateDue c = false := by simpa using fun h => hn (hiff.mpr h)
    unfold State.acceptDue
    split <;> simp [hd]
  · rw [State.acceptDue_due (by rw [hc]; exact hx) (hiff.mp hh)] at hu
    exact (t.accept_taken c x).beside hu

/-- R10: the slots of a port without passthroughs stay. -/
theorem State.changeDebounce_slots {s : State} {p : Port} (v : Nat) (h : s.NoPassAny p) :
    ((s.changeDebounce v).port p).reply = (s.port p).reply ∧
      ((s.changeDebounce v).port p).request = (s.port p).request :=
  State.each_slots confined_acceptDue allCages (s := s.modSettings fun x => { x with debounce := v }) h

theorem State.changeDebounce_settings (s : State) (v : Nat) :
    (s.changeDebounce v).settings = { s.settings with debounce := v } :=
  (State.each_keeps (R := fun s t => t.settings = s.settings) (fun _ => rfl) (fun a b => b.trans a) allCages
    (fun d _ s => ((only d).acceptDue s).device.settings) _).trans rfl

end Sys2Proof.Machine

namespace Sys2Proof.Proofs

open Sys2Proof.Machine

/-- Settles O50: the masks, the line, four settings that are stored alone, and the debounce time by `changeDebounce_cage`. -/
theorem portSettingsAreStored : Obligations.PortSettingsAreStored := by
  intro s q
  refine ⟨fun c1 c2 d h hb => ?_, fun p => ?_, fun hi lo h hb hp => ?_⟩
  · have hx : exec (.setMask q) s = event s (fun s => s.serve q (plain 0x12 3) fun s => s.setMasks q.port q.body) := rfl
    rw [hx, event_awake h.awake, State.serve_takes h rfl rfl rfl, hb]
    exact congrArg Host.Outcome.next (s.take_setMasks q 0x12 _ c1 c2 d)
  · simp only [State.attentionLine, List.any_eq_true, AttEntry.drives_iff]
  simp only [← storedSetting_eq]
  refine ⟨?_, ?_, ?_, ?_, ?_⟩
  · exact h.storesSetting hb hp 0 1 255 1 fun v x => { x with deviceSpacing := v }
  · exact h.storesSetting hb hp 1 1 255 1 fun v x => { x with groupSpacing := v }
  · have hx := h.setTiming hb hp 2 1 255 1 fun v s => s.changeDebounce v
    refine ⟨_, hx, by rw [State.answer_settings, State.changeDebounce_settings, State.take_settings], fun hn => ?_, fun hn => ?_,
      fun c => ?_⟩
    · obtain ⟨hr, -⟩ := State.changeDebounce_slots (storedSetting 1 255 1 (hi ++ lo).toNat)
        (s.take_noPass q.port 0x14 q.target (recordOf q (timingShape 2)) hn.any)
      exact State.answer_answers (hr.trans (s.take_reply ..)) _ _
    · rw [State.answer_port_ne _ (port_other_ne q.port)]
      obtain ⟨hr, hq⟩ := State.changeDebounce_slots (storedSetting 1 255 1 (hi ++ lo).toNat)
        (s.take_noPass q.port 0x14 q.target (recordOf q (timingShape 2)) hn.any)
      rw [State.take_port_ne _ _ _ (port_other_ne q.port)] at hr hq
      exact ⟨hr, hq⟩
    · have hc := s.take_cage q.port 0x14 q.target (recordOf q (timingShape 2)) c
      have hh : (s.take q.port 0x14 q.target (recordOf q (timingShape 2))).HeldFor c = s.HeldFor c := by
        funext n
        unfold State.HeldFor
        rw [hc, s.take_now]
      obtain ⟨hkeep, htaken⟩ := (s.take q.port 0x14 q.target (recordOf q (timingShape 2))).changeDebounce_cage
        (storedSetting 1 255 1 (hi ++ lo).toNat) c
      rw [hh, hc] at hkeep htaken
      exact ⟨fun hn => (State.answer_cage ..).trans (hkeep hn), fun x hx hxc =>
        let t := (htaken x hx hxc).answer q.port _ _
        ⟨t.candidate, t.present, t.absent⟩⟩
  · exact h.storesSetting hb hp 3 10 2550 10 fun v x => { x with pollInterval := v }
  · exact h.storesSetting hb hp 4 1 3600 1 fun v x => { x with reseatWindow := v }

end Sys2Proof.Proofs
end

section
/-! A group feed fault (R106, R110, R128): the cut of one cage, what it answers and posts, and the cut of a group. -/

namespace Sys2Proof.Machine

/-! ### The cages of a group -/

theorem mem_cagesOf {c : CageNo} {g : GroupNo} : c ∈ cagesOf g ↔ groupOf c = g := by
  have hc := c.isLt
  simp only [cagesOf, groupOf, List.mem_cons, List.not_mem_nil, or_false, Fin.ext_iff]
  omega

theorem nodup_cagesOf (g : GroupNo) : (cagesOf g).Nodup := by
  simp [cagesOf]

/-! ### Slots that end with STATE -/

/-- The reply slot of a port stays, or a pending reply gives way to STATE without data. -/
def State.EndsState (s t : State) (p : Port) : Prop :=
  (t.port p).reply = (s.port p).reply ∨
    ∃ code target, (s.port p).reply = .pending code target ∧ (t.port p).reply = .answered .state code target []

theorem State.EndsState.refl (s : State) (p : Port) : s.EndsState s p := .inl rfl

theorem State.EndsState.of_port {s t : State} {p : Port} (h : t.port p = s.port p) : s.EndsState t p := .inl (by rw [h])

theorem State.EndsState.trans {s t u : State} {p : Port} (a : s.EndsState t p) (b : t.EndsState u p) : s.EndsState u p := by
  rcases a with a | ⟨code, target, a1, a2⟩
  · rcases b with b | ⟨code, target, b1, b2⟩
    · exact .inl (b.trans a)
    · exact .inr ⟨code, target, a ▸ b1, b2⟩
  · rcases b with b | ⟨code', target', b1, b2⟩
    · exact .inr ⟨code, target, a1, b.trans a2⟩
    · rw [a2] at b1; cases b1

/-- An answer given stays. -/
theorem State.EndsState.answered {s t : State} {p : Port} (h : s.EndsState t p) {st : ReplyStatus} {code target : Byte}
    {d : List Byte} (hs : (s.port p).reply = .answered st code target d) :
    (t.port p).reply = .answered st code target d := by
  rcases h with h | ⟨_, _, h, -⟩
  · exact h.trans hs
  · rw [hs] at h; cases h

/-- A pending reply is still pending, or answered STATE. -/
theorem State.EndsState.pending {s t : State} {p : Port} (h : s.EndsState t p) {code target : Byte}
    (hs : (s.port p).reply = .pending code target) :
    (t.port p).reply = .pending code target ∨ (t.port p).reply = .answered .state code target [] := by
  rcases h with h | ⟨_, _, h, ht⟩
  · exact .inl (h.trans hs)
  · rw [hs] at h; cases h; exact .inr ht

theorem State.answer_endsState (s : State) (q p : Port) : s.EndsState (s.answer q .state []) p := by
  by_cases h : p = q
  · subst h
    cases hr : (s.port p).reply with
    | pending code target => exact .inr ⟨code, target, hr, (State.answer_answers hr ..).1⟩
    | _ =>
      left
      rw [State.answer, State.modPort_port, if_pos rfl, hr]
      exact hr
  · exact .of_port (s.answer_port_ne h ..)

theorem State.endPass_endsState (s : State) (c : CageNo) (q p : Port) : s.EndsState (s.endPass c .state q) p := by
  unfold State.endPass
  split
  · exact State.EndsState.trans (.of_port (by cases p <;> rfl)) (State.answer_endsState ..)
  · exact .refl s p

theorem State.disconnect_endsState (s : State) (c : CageNo) (p : Port) : s.EndsState (s.disconnect c) p :=
  State.EndsState.trans (.of_port (by cases p <;> rfl))
    ((State.endPass_endsState _ c .A p).trans (State.endPass_endsState _ c .B p))

theorem State.cutCarried_endsState (s : State) (c : CageNo) (p : Port) : s.EndsState (s.cutCarried c) p := by
  unfold State.cutCarried
  split
  · split
    · dsimp only
      split
      · exact State.EndsState.trans (.of_port (by cases p <;> rfl)) (State.answer_endsState ..)
      · exact .of_port (by cases p <;> rfl)
    · exact .refl s p
  · exact .refl s p

/-! ### A cage with a passthrough that is cut -/

/-- R154: the waiting passthrough of a port that is ended is answered. -/
theorem State.endPass_answers {s : State} {c : CageNo} {p : Port} {code target : Byte} (hw : s.passWaits c p = true)
    (hr : (s.port p).reply = .pending code target) (st : ReplyStatus) :
    ((s.endPass c st p).port p).reply = .answered st code target [] := by
  unfold State.endPass
  rw [if_pos hw]
  exact (State.answer_answers (by cases p <;> exact hr) st []).1

/-- A passthrough of port B is still there when that of port A has ended. -/
theorem State.endPass_A_passWaits (s : State) (c : CageNo) (st : ReplyStatus) (h : s.passWaits c .B = true) :
    (s.endPass c st .A).passWaits c .B = true := by
  unfold State.passWaits at h ⊢
  obtain ⟨i, hi, hb⟩ := List.any_eq_true.mp h
  refine List.any_eq_true.mpr ⟨i, ?_, hb⟩
  unfold State.endPass
  split
  · rw [State.answer_engine]
    simp only [Item.isOf, Bool.and_eq_true, decide_eq_true_eq] at hb
    simpa [Item.isOf, hb] using hi
  · exact hi

/-- R147, R154: a disconnection answers the waiting passthrough of a port with STATE. -/
theorem State.disconnect_answers {s : State} {c : CageNo} {p : Port} {code target : Byte} (hw : s.passWaits c p = true)
    (hr : (s.port p).reply = .pending code target) :
    ((s.disconnect c).port p).reply = .answered .state code target [] := by
  unfold State.disconnect
  generalize hb : ((s.modBus c Bus.disconnect).cancelSeq c).withdrawPoll c = b
  have hbr : (b.port p).reply = .pending code target := by rw [← hb]; cases p <;> exact hr
  have hbw : b.passWaits c p = true := by
    obtain ⟨i, hi, hio⟩ := List.any_eq_true.mp hw
    refine List.any_eq_true.mpr ⟨i, ?_, hio⟩
    rw [← hb]
    simp only [Item.isOf, Bool.and_eq_true, decide_eq_true_eq] at hio
    simpa [State.cancelSeq, State.withdrawPoll, Engine.cancel, Item.isOf, hio] using hi
  cases p with
  | A => exact (State.endPass_endsState _ c .B .A).answered (State.endPass_answers hbw hbr .state)
  | B =>
    rcases (State.endPass_endsState b c .A .B).pending hbr with h | h
    · exact State.endPass_answers (b.endPass_A_passWaits c .state hbw) h .state
    · exact (State.endPass_endsState _ c .B .B).answered h

theorem State.cutCarried_waiting (s : State) (c : CageNo) :
    ((s.cutCarried c).engine (engineOf c)).waiting = (s.engine (engineOf c)).waiting := by
  unfold State.cutCarried
  split
  · split
    · dsimp only
      split
      · rw [State.answer_engine, State.modEngine_engine_self]
      · rw [State.modEngine_engine_self]
    · rfl
  · rfl

/-- R106, R154: the carried passthrough of a port for a cage that is cut is answered with STATE. -/
theorem State.cutCarried_answers {s : State} {c : CageNo} {p : Port} {code target : Byte} {k : Carry}
    (hk : (s.engine (engineOf c)).current = some k) (hc : k.item.cage = c) (hw : k.item.who = .port p)
    (hr : (s.port p).reply = .pending code target) :
    ((s.cutCarried c).port p).reply = .answered .state code target [] := by
  unfold State.cutCarried
  simp only [hk, hc, if_true, hw]
  exact (State.answer_answers (by cases p <;> exact hr) .state []).1

/-- R106: every passthrough of a port for a cage ends with STATE when the cage is cut off its bus. -/
theorem State.cutBus_answers {s : State} {c : CageNo} {p : Port} {code target : Byte} (hn : ¬s.NoPassFor c p)
    (hr : (s.port p).reply = .pending code target) :
    (((s.cutCarried c).disconnect c).port p).reply = .answered .state code target [] := by
  rcases (s.cutCarried_endsState c p).pending hr with h | h
  · refine State.disconnect_answers ?_ h
    by_contra hw
    refine hn ⟨fun i hi hic hip => hw ?_, fun k hk hkc hkp => ?_⟩
    · refine List.any_eq_true.mpr ⟨i, ?_, by simp [Item.isOf, hic, hip]⟩
      rwa [s.cutCarried_waiting]
    · rw [State.cutCarried_answers hk hkc hkp hr] at h
      cases h
  · exact (State.disconnect_endsState _ c p).answered h

/-! ### Where a cut cage goes -/

/-- R106: the cage goes where its state says. -/
def State.cutGoes (u : State) (c : CageNo) (q : Ctx) : State :=
  match q.state with
  | .draining =>
    match q.dest with
    | some .admitWait => (u.emptyImage c).enterGroupFeed c
    | _ => u.endDrain c
  | .faulted => u.enterGroupFeed c
  | _ => (u.post c .fault).enterGroupFeed c

/-- R106: the cage is cut off its bus, its lines fall and its entry goes. -/
def State.cutBase (s : State) (c : CageNo) : State :=
  ((((s.cutCarried c).disconnect c).withdrawEntry c).railOff c).lpAssert c

theorem State.cut_eq (s : State) (c : CageNo) : s.cut c = (s.cutBase c).cutGoes c (s.cage c).seq := by
  unfold State.cut State.cutGoes
  rfl

/-- R106: a cage that is neither FAULTED nor DRAINING has FAULT posted and is FAULTED with GROUP_FEED. -/
theorem State.cut_running {s : State} {c : CageNo} (hd : (s.cage c).seq.state ≠ .draining)
    (hf : (s.cage c).seq.state ≠ .faulted) : s.cut c = ((s.cutBase c).post c .fault).enterGroupFeed c := by
  rw [State.cut_eq]
  unfold State.cutGoes
  split
  · next h => exact absurd h hd
  · next h => exact absurd h hf
  · rfl

theorem State.enterGroupFeed_port (s : State) (c : CageNo) (p : Port) : (s.enterGroupFeed c).port p = s.port p := by
  have h := s.enterPowerFault_port c .groupFeed .feedActive p
  unfold State.enterGroupFeed
  dsimp only
  split
  · exact h
  · rw [← h]
    cases p <;> simp only [State.port, State.modSeq_parts]

theorem State.cutGoes_reply (u : State) (c : CageNo) (q : Ctx) (p : Port) :
    ((u.cutGoes c q).port p).reply = (u.port p).reply := by
  unfold State.cutGoes
  split
  · split
    · rw [State.enterGroupFeed_port, State.emptyImage_port]
    · exact (u.endDrain_ended c).replies.reply p
  · rw [State.enterGroupFeed_port]
  · rw [State.enterGroupFeed_port]
    cases p <;> rfl

theorem State.cutBase_port (s : State) (c : CageNo) (p : Port) :
    (s.cutBase c).port p = ((s.cutCarried c).disconnect c).port p := by
  cases p <;> simp [State.cutBase, State.port]

theorem State.cut_reply (s : State) (c : CageNo) (p : Port) :
    ((s.cut c).port p).reply = (((s.cutCarried c).disconnect c).port p).reply := by
  rw [State.cut_eq, State.cutGoes_reply, State.cutBase_port]

theorem State.cut_endsState (s : State) (c : CageNo) (p : Port) : s.EndsState (s.cut c) p :=
  ((s.cutCarried_endsState c p).trans (State.disconnect_endsState _ c p)).trans (.inl (s.cut_reply c p))

/-- R147: what ends the passthroughs of a cut cage leaves the cage but for its bus. -/
theorem State.cutBus_ended (s : State) (c : CageNo) : s.PassesEnded ((s.cutCarried c).disconnect c) c :=
  (s.cutCarried_spec c).trans (State.disconnect_spec _ c).1

theorem State.cutBase_list (s : State) (c : CageNo) (p : Port) : ((s.cutBase c).port p).list = (s.port p).list := by
  rw [State.cutBase_port]
  exact (s.cutBus_ended c).list p

theorem State.cutBase_seq (s : State) (c : CageNo) : ((s.cutBase c).cage c).seq = { (s.cage c).seq with hpOn := false } := by
  simp [State.cutBase, (s.cutBus_ended c).cage.seq]

/-- R102: a drain that ends with no reinsertion pending posts nothing, but for one to ADMIT_WAIT. -/
theorem State.endDrain_port {s : State} {c : CageNo} (h : (s.cage c).seq.dest ≠ some .admitWait)
    (hr : (s.cage c).seq.reinsertion = false) (p : Port) : (s.endDrain c).port p = s.port p := by
  by_cases hf : (s.cage c).seq.dest = some .faulted
  · rw [State.endDrain_faulted hf, State.enterPowerFault_port, State.emptyImage_port]
  · rw [State.endDrain_empty hf h hr, State.enterEmpty_port, State.emptyImage_port]

/-- R106: FAULT is posted for a cut cage that is neither FAULTED nor DRAINING. -/
theorem State.cut_fault (s : State) (c : CageNo) (hd : (s.cage c).seq.state ≠ .draining)
    (hf : (s.cage c).seq.state ≠ .faulted) : s.Posted (s.cut c) c .fault := fun p => by
  rw [State.cut_running hd hf, State.enterGroupFeed_port, State.post_posted, State.cutBase_list]

/-- R106: nothing is posted for a cut cage that is FAULTED, or DRAINING without a reinsertion. -/
theorem State.cut_quiet (s : State) (c : CageNo)
    (h : (s.cage c).seq.state = .faulted ∨ (s.cage c).seq.state = .draining ∧ (s.cage c).seq.reinsertion = false) :
    s.SameLists (s.cut c) := fun p => by
  have hs := s.cutBase_seq c
  rw [State.cut_eq, ← s.cutBase_list c p]
  generalize s.cutBase c = u at *
  unfold State.cutGoes
  rcases h with h | ⟨h, hr⟩
  · rw [h]
    exact congrArg PortState.list (u.enterGroupFeed_port c p)
  · rw [h]
    split
    · split
      · rw [State.enterGroupFeed_port, State.emptyImage_port]
      · next hd => rw [State.endDrain_port (by rw [hs]; exact hd) (by rw [hs]; exact hr)]
    · next hd => cases hd
    · next hd _ => exact absurd rfl hd

/-! ### A cut among operations on other cages -/

/-- What the cut of a cage regards of the part besides the engines is in `t` as in `s`. -/
structure State.SameCage (s t : State) (c : CageNo) : Prop where
  cage : t.cage c = s.cage c
  now : t.now = s.now
  elapsed : t.elapsed = s.elapsed
  budget : (t.group (groupOf c)).budget = (s.group (groupOf c)).budget

theorem State.SameCage.newEntry {s t : State} {c : CageNo} (h : s.SameCage t c) (k : QueueKind) (n : Nat) :
    t.newEntry c k n = s.newEntry c k n := by
  simp [State.newEntry, State.profile, h.cage, h.now, h.elapsed]

theorem State.Beside.sameCage {s t u : State} {c : CageNo} (a : s.SameCage t c) (b : t.Beside u c) : s.SameCage u c :=
  ⟨b.cage.trans a.cage, b.device.now.trans a.now, b.device.elapsed.trans a.elapsed, by rw [b.group]; exact a.budget⟩

theorem State.CutOff.around {s t v u : State} {c : CageNo} (h : t.CutOff v c) (a : s.SameCage t c) (b : v.Beside u c) :
    s.CutOff u c where
  lines := by rw [b.cage]; exact h.lines
  charge := by rw [b.cage]; exact h.charge
  bus := by rw [b.cage]; exact h.bus
  carried := fun k hk => by
    obtain ⟨x, hx, hxk⟩ := b.carries _ k hk
    rw [← hxk]
    exact h.carried x hx
  waiting := fun i hi hc => h.waiting i ((b.waiting i hc).mp hi) hc
  queue := fun hs e he hc => h.queue (by rw [← b.cage]; exact hs) e ((b.queued e hc).mp he) hc
  profile := by rw [b.cage, h.profile, a.cage]

theorem State.FeedCut.around {s t v u : State} {c : CageNo} (h : t.FeedCut v c) (a : s.SameCage t c) (b : v.Beside u c) :
    s.FeedCut u c where
  off := h.off.around a b
  state := by rw [b.cage]; exact h.state
  timers := by rw [b.cage]; exact h.timers
  record := by rw [b.cage, h.record, a.cage, a.now]

theorem State.DrainCut.around {s t v u : State} {c : CageNo} (h : t.DrainCut v c) (a : s.SameCage t c) (b : v.Beside u c) :
    s.DrainCut u c where
  off := h.off.around a b
  image := by rw [b.cage]; exact h.image
  emptied := by simpa only [b.cage, ← a.cage] using h.emptied
  readmitted := by
    have hr := h.readmitted
    rw [a.newEntry] at hr
    rw [b.cage, ← a.cage, ← a.budget, ← a.now, b.queued (s.newEntry c .lowPower 1500) rfl]
    exact hr
  kept := by simpa only [b.cage, ← a.cage, ← a.now] using h.kept
  fed := fun hd => (h.fed (by rw [a.cage]; exact hd)).around a b

/-! ### The report to each cage of a group (R128) -/

theorem confined_feedFault (d : CageNo) (s : State) : (confined d).To s (s.feedFault d) := (confined d).feedFault s

theorem State.feedFault_powered {s : State} {c : CageNo} (h : (s.cage c).ciu.lines.rail = true) :
    s.feedFault c = s.cut c := by
  unfold State.feedFault
  rw [if_pos h]

theorem State.feedFault_off {s : State} {c : CageNo} (h : (s.cage c).ciu.lines.rail = false) :
    s.feedFault c = s.stopFeedClear c := by
  unfold State.feedFault
  rw [if_neg (by simp [h])]

/-- The stop of a feed-clear timer touches the sequencer context only. -/
theorem State.stopFeedClear_rest (s : State) (c : CageNo) :
    (∀ g, (s.stopFeedClear c).group g = s.group g) ∧ (∀ e, (s.stopFeedClear c).engine e = s.engine e) ∧
      (∀ p, (s.stopFeedClear c).port p = s.port p) ∧
      ∀ d, ((s.stopFeedClear c).cage d).ciu = (s.cage d).ciu := by
  unfold State.stopFeedClear
  split
  · refine ⟨fun _ => rfl, fun _ => rfl, fun p => by cases p <;> rfl, fun d => ?_⟩
    by_cases h : d = c
    · subst h; simp
    · rw [State.OnlyCage.cages ((only c).modSeq s _) d h]
  · exact ⟨fun _ => rfl, fun _ => rfl, fun _ => rfl, fun _ => rfl⟩

theorem State.feedFault_endsState (s : State) (c : CageNo) (p : Port) : s.EndsState (s.feedFault c) p := by
  unfold State.feedFault
  split
  · exact s.cut_endsState c p
  · exact .of_port ((s.stopFeedClear_rest c).2.2.1 p)

/-- From `s` to `t` only cages of a group were operated on, as the groups and the queue entries tell. -/
structure State.InGroup (s t : State) (g : GroupNo) : Prop where
  device : s.SameDevice t
  others : ∀ h, h ≠ g → t.group h = s.group h
  feed : (t.group g).feedActive = (s.group g).feedActive ∧ (t.group g).feedPin = (s.group g).feedPin
  queued : ∀ e ∈ (s.group g).queue, (s.cage e.cage).ciu.lines.rail = false →
    e ∈ (t.group g).queue ∧ (t.cage e.cage).ciu.lines.rail = false

theorem State.InGroup.refl (s : State) (g : GroupNo) : s.InGroup s g :=
  ⟨.refl s, fun _ _ => rfl, ⟨rfl, rfl⟩, fun _ h hr => ⟨h, hr⟩⟩

theorem State.InGroup.trans {s t u : State} {g : GroupNo} (a : s.InGroup t g) (b : t.InGroup u g) : s.InGroup u g :=
  ⟨a.device.trans b.device, fun h hg => (b.others h hg).trans (a.others h hg),
    ⟨b.feed.1.trans a.feed.1, b.feed.2.trans a.feed.2⟩, fun e he hr =>
      b.queued e (a.queued e he hr).1 (a.queued e he hr).2⟩

theorem State.feedFault_inGroup (s : State) {g : GroupNo} {d : CageNo} (hd : groupOf d = g) : s.InGroup (s.feedFault d) g := by
  subst hd
  have ho : s.OnlyCage (s.feedFault d) d := (only d).feedFault s
  refine ⟨ho.device, ho.groups, by rw [ho.group]; exact ⟨rfl, rfl⟩, fun e he hr => ?_⟩
  by_cases h : e.cage = d
  · rw [h] at hr
    obtain ⟨hg, -, -, hc⟩ := s.stopFeedClear_rest d
    rw [State.feedFault_off hr, hg, h, hc]
    exact ⟨he, hr⟩
  · rw [ho.cages _ h]
    exact ⟨(mem_iff_of_filter_eq ho.queue (by simpa using h)).mpr he, hr⟩

/-- No passthrough of a port is for a powered cage of a group. -/
def State.NoPassPowered (s : State) (g : GroupNo) (p : Port) : Prop :=
  ∀ c, groupOf c = g → (s.cage c).ciu.lines.rail = true → s.NoPassFor c p

/-- R154: where no powered cage has a passthrough of a port, its slots stay. -/
theorem State.feedFault_slots {s : State} {g : GroupNo} {d : CageNo} {p : Port} (hd : groupOf d = g)
    (h : s.NoPassPowered g p) :
    (s.feedFault d).NoPassPowered g p ∧ ((s.feedFault d).port p).reply = (s.port p).reply := by
  cases hr : (s.cage d).ciu.lines.rail with
  | true =>
    have hc := confined_feedFault d s
    obtain ⟨hn, hp, -⟩ := State.Confined.slots hc p (h d hd hr)
    refine ⟨fun c hg hcr => ?_, hp⟩
    by_cases hcd : c = d
    · subst hcd; exact hn
    · have hb : s.Beside (s.feedFault d) c := State.Confined.beside hc hcd
      rw [hb.cage] at hcr
      exact (hb.noPassFor p).mpr (h c hg hcr)
  | false =>
    obtain ⟨-, he, hp, hc⟩ := s.stopFeedClear_rest d
    rw [State.feedFault_off hr]
    refine ⟨fun c hg hcr => ?_, by rw [hp]⟩
    rw [hc] at hcr
    unfold State.NoPassFor
    rw [he]
    exact h c hg hcr

/-- R128: the pin and the level of the group are ACTIVE. -/
def State.feedBase (s : State) (g : GroupNo) : State :=
  (s.modGroup g fun x => { x with feedPin := true }).modGroup g fun x => { x with feedActive := true }

/-- R128: the group with its cages. -/
def State.feedFaults (s : State) (g : GroupNo) : State := (s.feedBase g).each (cagesOf g) fun c s => s.feedFault c

theorem State.feedBase_group (s : State) (g : GroupNo) :
    (s.feedBase g).group g = { s.group g with feedPin := true, feedActive := true } ∧
      ∀ h, h ≠ g → (s.feedBase g).group h = s.group h := by
  unfold State.feedBase
  refine ⟨by simp only [State.modGroup_group_self], fun h hh => ?_⟩
  rw [State.modGroup_group_ne _ _ _ _ hh, State.modGroup_group_ne _ _ _ _ hh]

theorem State.feedBase_sameCage (s : State) (g : GroupNo) (c : CageNo) : s.SameCage (s.feedBase g) c := by
  refine ⟨rfl, rfl, rfl, ?_⟩
  by_cases h : groupOf c = g
  · rw [h, (s.feedBase_group g).1]
  · rw [(s.feedBase_group g).2 _ h]

theorem exec_groupFeedFaultActive {s : State} {g : GroupNo} (hr : s.inReset = false) (hp : (s.group g).feedPin = false) :
    exec (.groupFeedFaultActive g) s = .next (s.feedFaults g).settle := by
  simp only [exec, execGroupFeedFaultActive, feedChange, hp, hr]
  rfl

/-! ### What becomes of each cage -/

/-- The report of a feed fault to a cage of the group, among those to the others. -/
theorem State.feedFaults_around (s : State) {g : GroupNo} {c : CageNo} (hc : groupOf c = g) :
    ∃ t, s.SameCage t c ∧ (s.feedBase g).Beside t c ∧ (t.group (groupOf c)).feedActive = true ∧
      (∀ p, s.EndsState t p ∧ (t.feedFault c).EndsState (s.feedFaults g) p) ∧ (t.feedFault c).Beside (s.feedFaults g) c := by
  obtain ⟨t, hb, hp, hu, hq⟩ := State.each_around confined_feedFault (R := fun s t => ∀ p, s.EndsState t p)
    (fun s p => .refl s p) (fun a b p => (a p).trans (b p)) (fun d _ s p => s.feedFault_endsState d p)
    (nodup_cagesOf g) (mem_cagesOf.mpr hc) (s.feedBase g)
  refine ⟨t, hb.sameCage (s.feedBase_sameCage g c), hb, ?_, fun p => ⟨?_, hq p⟩, hu⟩
  · rw [hb.group, hc, (s.feedBase_group g).1]
  · exact State.EndsState.trans (.of_port (by cases p <;> rfl)) (hp p)

/-- R106: a powered cage of the group is cut. -/
theorem State.feedFaults_powered (s : State) {g : GroupNo} {c : CageNo} (hc : groupOf c = g)
    (hr : (s.cage c).ciu.lines.rail = true) :
    ((s.cage c).seq.state ≠ .draining → s.FeedCut (s.feedFaults g) c) ∧
      ((s.cage c).seq.state = .draining → s.DrainCut (s.feedFaults g) c) ∧
      ((s.cage c).seq.state ≠ .draining → (s.cage c).seq.state ≠ .faulted →
        ∀ p, ∃ a ∈ ((s.feedFaults g).port p).list, a.who = some c ∧ a.kinds &&& CageKind.fault.bit ≠ 0) ∧
      ((s.cage c).seq.state = .faulted ∨ (s.cage c).seq.state = .draining ∧ (s.cage c).seq.reinsertion = false →
        ∀ p, entriesOf ((s.feedFaults g).port p).list c = entriesOf (s.port p).list c) := by
  obtain ⟨t, hs, hb, hf, -, hu⟩ := s.feedFaults_around hc
  rw [← hs.cage] at hr
  rw [State.feedFault_powered hr] at hu
  rw [← hs.cage]
  refine ⟨fun hd => (t.cut_spec c hr hd hf).around hs hu, fun hd => (t.cut_drain_spec c hr hd hf).around hs hu,
    fun hd hn p => exists_entry_congr (hu.entries p) ?_, fun h p => ?_⟩
  · rw [t.cut_fault c hd hn p]
    exact addKind_has _ _ CageKind.fault.bit_ne_zero _
  · rw [hu.entries, t.cut_quiet c h p, hb.entries]
    cases p <;> rfl

/-- R110, R128: an unpowered cage of the group stays, but for the feed-clear timer of a GROUP_FEED cage. -/
theorem State.feedFaults_off (s : State) {g : GroupNo} {c : CageNo} (hc : groupOf c = g)
    (hr : (s.cage c).ciu.lines.rail = false) :
    ((s.cage c).seq.state = .faulted → (s.cage c).seq.reason = some .groupFeed →
      ((s.feedFaults g).cage c).seq =
        { (s.cage c).seq with
          stage := .feedActive, timers := { (s.cage c).seq.timers with feedClear := none } }) ∧
      ((s.cage c).seq.state ≠ .faulted ∨ (s.cage c).seq.reason ≠ some .groupFeed →
        (s.feedFaults g).cage c = s.cage c) := by
  obtain ⟨t, hs, -, -, -, hu⟩ := s.feedFaults_around hc
  rw [← hs.cage] at hr
  rw [State.feedFault_off hr] at hu
  rw [hu.cage, ← hs.cage]
  unfold State.stopFeedClear Ctx.feedFaulted
  refine ⟨fun h1 h2 => ?_, fun h => ?_⟩
  · rw [if_pos (by simp [h1, h2])]
    simp
  · rw [if_neg (by rcases h with h | h <;> simp [h])]

/-! ### What becomes of each port -/

/-- R154: the passthrough of a port for a powered cage of the group is answered STATE. -/
theorem State.feedFaults_answers {s : State} {g : GroupNo} {c : CageNo} {p : Port} {code target : Byte}
    (hp : (s.port p).reply = .pending code target) (hc : groupOf c = g) (hr : (s.cage c).ciu.lines.rail = true)
    (hn : ¬s.NoPassFor c p) : ((s.feedFaults g).port p).reply = .answered .state code target [] := by
  obtain ⟨t, hs, hb, -, he, -⟩ := s.feedFaults_around hc
  rw [← hs.cage] at hr
  rw [State.feedFault_powered hr] at he
  rcases (he p).1.pending hp with h | h
  · refine (he p).2.answered ?_
    rw [State.cut_reply]
    exact State.cutBus_answers (fun ht => hn ((hb.noPassFor p).mp ht)) h
  · exact (he p).2.answered ((t.cut_endsState c p).answered h)

/-- R154: a port without a passthrough for a powered cage of the group keeps its reply. -/
theorem State.feedFaults_reply {s : State} {g : GroupNo} {p : Port} (h : s.NoPassPowered g p) :
    ((s.feedFaults g).port p).reply = (s.port p).reply := by
  have key := State.each_keeps (f := fun c s => s.feedFault c)
    (R := fun s t => s.NoPassPowered g p → t.NoPassPowered g p ∧ (t.port p).reply = (s.port p).reply)
    (fun s h => ⟨h, rfl⟩) (fun a b h => ⟨(b (a h).1).1, (b (a h).1).2.trans (a h).2⟩) (cagesOf g)
    (fun d hd s h => State.feedFault_slots (mem_cagesOf.mp hd) h) (s.feedBase g) h
  refine key.2.trans ?_
  cases p <;> rfl

theorem State.feedFaults_inGroup (s : State) (g : GroupNo) : (s.feedBase g).InGroup (s.feedFaults g) g :=
  State.each_keeps (R := fun s t => s.InGroup t g) (fun s => .refl s g) (fun a b => a.trans b) (cagesOf g)
    (fun _ hd s => s.feedFault_inGroup (mem_cagesOf.mp hd)) _

end Sys2Proof.Machine

namespace Sys2Proof.Proofs

open Sys2Proof.Machine

/-- Settles O29: the part as a whole by `feedFaults_inGroup`, the ports and the cages by the cut of each cage among the
others. -/
theorem feedFaultCutsGroup : Obligations.FeedFaultCutsGroup := by
  intro s g
  refine ⟨fun hp => ?_, fun hr hp => ?_⟩
  · simp only [exec, execGroupFeedFaultActive, feedChange, hp, if_true]
  have hw := s.feedFaults_inGroup g
  obtain ⟨hg, hgo⟩ := s.feedBase_group g
  have hd : s.SameDevice (s.feedBase g) := ⟨rfl, rfl, rfl, rfl, rfl, rfl, rfl, rfl, rfl, rfl, rfl⟩
  refine ⟨s.feedFaults g, exec_groupFeedFaultActive hr hp, hd.trans hw.device,
    by rw [hw.feed.1, hg], by rw [hw.feed.2, hg], fun h hh => (hw.others h hh).trans (hgo h hh),
    fun e he hoff => (hw.queued e (by rw [hg]; exact he) hoff).1,
    fun p => ⟨fun code target hpd ⟨c, hc, hrail, hn⟩ => State.feedFaults_answers hpd hc hrail hn,
      fun h => State.feedFaults_reply h⟩, fun c => ⟨fun hc => ?_, fun hc => s.feedFaults_powered hc,
      fun hc => s.feedFaults_off hc⟩⟩
  exact (State.each_beside_of_notMem confined_feedFault (fun hm => hc (mem_cagesOf.mp hm)) (s.feedBase g)).cage

end Sys2Proof.Proofs
end

section
/-! The release of the reset pin, and RESTART (R186): the blocks at the held lines, and the cuts of the groups whose feed is
in fault. -/

namespace Sys2Proof.Machine

/-! ### The blocks before the cuts -/

theorem addKind_again (l : List AttEntry) (w : Option CageNo) (k : BitVec 16) :
    addKind (addKind l w k none) w k none = addKind l w k none := by
  induction l with
  | nil => simp [addKind]
  | cons a l ih =>
    by_cases h : a.who = w
    · simp [addKind, h, BitVec.or_assoc]
    · simp [addKind, h, ih]

/-- R182: what is first in an attention list stays first when another is posted. -/
theorem addKind_cons_ne (a : AttEntry) (l : List AttEntry) {w : Option CageNo} (h : a.who ≠ w) (k : BitVec 16)
    (r : Option ResetCause) : addKind (a :: l) w k r = a :: addKind l w k r := by simp [addKind, h]

theorem State.postDevice_port (s : State) (k : DeviceKind) (p : Port) :
    (s.postDevice k).port p =
      { s.port p with
        list := addKind (s.port p).list none k.bit (if k = .restarted then some s.cause else none) } := by
  cases p <;> rfl

theorem mem_allGroups (g : GroupNo) : g ∈ allGroups := List.mem_finRange g

theorem State.releaseGroup_chargeSum (s : State) (g h : GroupNo) : (s.releaseGroup g).chargeSum h = s.chargeSum h := rfl

theorem State.releaseGroups_group (s : State) (l : List GroupNo) (g : GroupNo) :
    (l.foldl State.releaseGroup s).group g =
      if g ∈ l then { s.group g with committed := s.chargeSum g, feedActive := (s.group g).feedPin } else s.group g := by
  induction l generalizing s with
  | nil => rfl
  | cons h l ih =>
    rw [List.foldl_cons, ih, State.releaseGroup_chargeSum, State.releaseGroup, State.modGroup_group]
    by_cases hg : g = h
    · subst hg; by_cases hl : g ∈ l <;> simp [hl]
    · simp [hg]

/-- R186: the state with the part's own values of a release and RESTARTED posted. -/
def State.restartedPosted (s : State) (cause : ResetCause) : State :=
  ({ s with
      cause := cause
      releaseTime := s.now
      scanCage := 0
      cages := onEach (fun (k : Cage) => k.releaseReset s.now) s.cages } : State).postDevice .restarted

theorem State.releaseBase_eq (s : State) (cause : ResetCause) :
    s.releaseBase cause = allGroups.foldl State.releaseGroup (s.restartedPosted cause) := rfl

theorem State.restartedPosted_chargeSum (s : State) (cause : ResetCause) (g : GroupNo) :
    (s.restartedPosted cause).chargeSum g = s.heldCharges g := by
  have h : ∀ c, ((s.restartedPosted cause).cage c).charge = if (s.cage c).ciu.lines.rail then 1500 else 0 := fun c =>
    congrArg Cage.charge (onEach_getElem (fun (k : Cage) => k.releaseReset s.now) s.cages c)
  simp only [State.chargeSum, State.heldCharges, h]

/-- What a release has set before any cage is cut. -/
structure State.HeldAt (s b : State) (cause : ResetCause) : Prop where
  device : ({ s with cause := cause, releaseTime := s.now, scanCage := 0 } : State).SameDevice b
  cage : ∀ c, b.cage c = (s.cage c).releaseReset s.now
  group : ∀ g, b.group g = { s.group g with committed := s.heldCharges g, feedActive := (s.group g).feedPin }
  engine : ∀ e, b.engine e = s.engine e
  port : ∀ p, b.port p = { s.port p with list := (b.port p).list }

theorem State.releaseGroups_sameDevice (s : State) (l : List GroupNo) : s.SameDevice (l.foldl State.releaseGroup s) := by
  induction l generalizing s with
  | nil => exact .refl s
  | cons g l ih =>
    have h : s.SameDevice (s.releaseGroup g) := ⟨rfl, rfl, rfl, rfl, rfl, rfl, rfl, rfl, rfl, rfl, rfl⟩
    exact h.trans (ih _)

theorem State.releaseBase_list (s : State) (cause : ResetCause) (p : Port) :
    ((s.releaseBase cause).port p).list = addKind (s.port p).list none DeviceKind.restarted.bit (some cause) := by
  rw [State.releaseBase_eq, foldl_keeps (get := fun t : State => (t.port p).list) fun t g => by cases p <;> rfl]
  cases p <;> rfl

theorem State.releaseBase_held (s : State) (cause : ResetCause) : s.HeldAt (s.releaseBase cause) cause where
  device := State.SameDevice.trans (t := s.restartedPosted cause) ⟨rfl, rfl, rfl, rfl, rfl, rfl, rfl, rfl, rfl, rfl, rfl⟩
    (State.releaseGroups_sameDevice _ _)
  cage := s.releaseBase_cage cause
  group := fun g => by
    rw [State.releaseBase_eq, State.releaseGroups_group, if_pos (mem_allGroups g), State.restartedPosted_chargeSum]
    rfl
  engine := fun e => by
    rw [State.releaseBase_eq, foldl_keeps (f := State.releaseGroup) (get := fun t : State => t.engine e) fun t g => rfl]
    rfl
  port := fun p => by
    rw [State.releaseBase_eq, foldl_keeps (get := fun t : State => t.port p) fun t g => by cases p <;> rfl]
    cases p <;> rfl

/-! ### OVERCOMMIT (R119), by the charges of the held lines -/

theorem State.HeldAt.overcommit {s b : State} {cause : ResetCause} (h : s.HeldAt b cause) (g : GroupNo) :
    s.HeldAt (b.overcommit g) cause := by
  unfold State.overcommit
  split
  · refine ⟨h.device.trans ⟨rfl, rfl, rfl, rfl, rfl, rfl, rfl, rfl, rfl, rfl, rfl⟩, fun c => ?_, h.group, h.engine, fun p => ?_⟩
    · exact h.cage c
    · rw [State.postDevice_port, h.port p]
  · exact h

theorem State.HeldAt.overcommit_list {s b : State} {cause : ResetCause} (h : s.HeldAt b cause) (g : GroupNo) (p : Port) :
    ((b.overcommit g).port p).list =
      if (s.group g).budget < s.heldCharges g then addKind (b.port p).list none DeviceKind.overcommit.bit none
      else (b.port p).list := by
  unfold State.overcommit
  rw [h.group g]
  dsimp only
  split
  · rw [State.postDevice_port]; rfl
  · rfl

/-- OVERCOMMIT is posted once for all groups over their budget. -/
theorem State.HeldAt.overcommits {s b : State} {cause : ResetCause} (h : s.HeldAt b cause) (l : List GroupNo) :
    s.HeldAt (l.foldl State.overcommit b) cause ∧
      ∀ p, ((l.foldl State.overcommit b).port p).list =
        if ∃ g ∈ l, (s.group g).budget < s.heldCharges g then
          addKind (b.port p).list none DeviceKind.overcommit.bit none
        else (b.port p).list := by
  induction l generalizing b with
  | nil => exact ⟨h, fun p => by simp⟩
  | cons g l ih =>
    obtain ⟨h1, h2⟩ := ih (h.overcommit g)
    refine ⟨h1, fun p => ?_⟩
    rw [List.foldl_cons, h2, h.overcommit_list]
    by_cases hg : (s.group g).budget < s.heldCharges g
    · simp [hg, addKind_again]
    · simp [hg]

/-- The state of a release before the cuts. -/
def State.releaseHeld (s : State) (cause : ResetCause) : State := allGroups.foldl State.overcommit (s.releaseBase cause)

theorem State.releaseHeld_heldAt (s : State) (cause : ResetCause) : s.HeldAt (s.releaseHeld cause) cause :=
  ((s.releaseBase_held cause).overcommits allGroups).1

/-- The attention lists of a release before the cuts. -/
structure State.HeldLists (s b : State) (cause : ResetCause) : Prop where
  fit : (∀ g, s.heldCharges g ≤ (s.group g).budget) →
    ∀ p, (b.port p).list = addKind (s.port p).list none DeviceKind.restarted.bit (some cause)
  exceed : ∀ g, (s.group g).budget < s.heldCharges g →
    ∀ p, (b.port p).list =
      addKind (addKind (s.port p).list none DeviceKind.restarted.bit (some cause)) none DeviceKind.overcommit.bit none

theorem State.releaseHeld_lists (s : State) (cause : ResetCause) : s.HeldLists (s.releaseHeld cause) cause := by
  have h := ((s.releaseBase_held cause).overcommits allGroups).2
  simp only [s.releaseBase_list] at h
  refine ⟨fun hall p => (h p).trans (if_neg ?_), fun g hg p => (h p).trans (if_pos ⟨g, mem_allGroups g, hg⟩)⟩
  rintro ⟨g, -, hg⟩
  exact absurd (hall g) (by omega)

/-! ### The cut of a running cage (R106) -/

/-- What a cut leaves of a cage besides what `FeedCut` says, and of its group. -/
structure State.CutDown (s u : State) (c : CageNo) : Prop where
  ciu : (s.cage c).ciu.OnlyLines (u.cage c).ciu
  image : (u.cage c).image = (s.cage c).image
  polls : (u.cage c).nextPoll = none
  monitor : (u.cage c).rlm.pg = .off ∧ (u.cage c).rlm.basis = none
  committed : (u.group (groupOf c)).committed = (s.group (groupOf c)).committed - (s.cage c).charge

theorem State.cutBase_down (s : State) (c : CageNo) (hr : (s.cage c).ciu.lines.rail = true) :
    (s.cage c).ciu.OnlyLines ((s.cutBase c).cage c).ciu ∧ ((s.cutBase c).cage c).image = (s.cage c).image ∧
      (((s.cutBase c).cage c).rlm.pg = .off ∧ ((s.cutBase c).cage c).rlm.basis = none ∧
        ((s.cutBase c).cage c).rlm.reset18 = false) ∧
      ((s.cutBase c).group (groupOf c)).committed = (s.group (groupOf c)).committed - (s.cage c).charge := by
  have h := s.cutBus_ended c
  unfold State.cutBase
  generalize (s.cutCarried c).disconnect c = b at *
  refine ⟨?_, ?_, ?_, ?_⟩
  · have h1 := State.railOff_onlyLines (b.withdrawEntry c) c
    rw [(b.withdrawEntry_parts c).1, h.cage.ciu] at h1
    exact h1.trans (State.lpAssert_onlyLines _ c)
  · simp [h.cage.image]
  · simp [h.cage.ciu, hr, Rlm.railOff, lowPowerCharge]
  · simp [h.cage.ciu, h.cage.charge, h.group, hr]

theorem State.enterGroupFeed_down {s : State} {c : CageNo} (hf : (s.group (groupOf c)).feedActive = true) :
    ((s.enterGroupFeed c).cage c).ciu = (s.cage c).ciu ∧ ((s.enterGroupFeed c).cage c).image = (s.cage c).image ∧
      ((s.enterGroupFeed c).cage c).nextPoll = none ∧
      ((s.cage c).rlm.reset18 = false → ((s.enterGroupFeed c).cage c).rlm = (s.cage c).rlm) ∧
      (s.enterGroupFeed c).group (groupOf c) = s.group (groupOf c) := by
  unfold State.enterGroupFeed
  simp only [hf, if_true]
  refine ⟨by simp [State.enterPowerFault], by simp [State.enterPowerFault],
    by simp [State.enterPowerFault, SeqState.polled], fun h => ?_, by simp [State.enterPowerFault]⟩
  simp [State.enterPowerFault, Rlm.endReset18, h]

theorem State.cut_down {s : State} {c : CageNo} (hr : (s.cage c).ciu.lines.rail = true)
    (ha : (s.cage c).seq.state = .adopting) (hf : (s.group (groupOf c)).feedActive = true) :
    s.CutDown (s.cut c) c := by
  obtain ⟨b1, b2, ⟨b3, b4, b5⟩, b6⟩ := s.cutBase_down c hr
  have hfb : ((s.cutBase c).group (groupOf c)).feedActive = true := (s.cut_severed c hr).feed.trans hf
  rw [State.cut_running (by rw [ha]; decide) (by rw [ha]; decide)]
  generalize s.cutBase c = b at *
  obtain ⟨e1, e2, e3, e4, e5⟩ := State.enterGroupFeed_down (s := b.post c .fault) (c := c) (by simpa using hfb)
  simp only [State.post_parts] at e1 e2 e4 e5
  exact ⟨by rw [e1]; exact b1, by rw [e2, b2], e3, by rw [e4 b5]; exact ⟨b3, b4⟩, by rw [e5, b6]⟩

/-! ### The cuts as operations on the cages in turn -/

/-- R131: a powered cage of a group whose feed is in fault is cut. -/
def State.releaseCut (c : CageNo) (s : State) : State :=
  if (s.group (groupOf c)).feedActive = true ∧ (s.cage c).ciu.lines.rail = true then s.cut c else s

theorem confined_releaseCut (d : CageNo) (s : State) : (confined d).To s (s.releaseCut d) :=
  .ite ((confined d).cut s) ((confined d).refl s)

theorem State.releaseCut_feedActive (s : State) (d : CageNo) (g : GroupNo) :
    ((s.releaseCut d).group g).feedActive = (s.group g).feedActive := by
  have ho : s.OnlyCage (s.releaseCut d) d := State.Confined.only (confined_releaseCut d s)
  by_cases h : g = groupOf d
  · rw [h, ho.group]
  · rw [ho.groups g h]

theorem State.releaseCuts_eq (s : State) (g : GroupNo) :
    s.releaseCuts g = s.each (cagesOf g) fun c s => s.releaseCut c := by
  have key : ∀ (l : List CageNo) (s : State), (∀ c ∈ l, groupOf c = g) →
      (s.each l fun c s => s.releaseCut c) =
        if (s.group g).feedActive then s.each l fun c s => if (s.cage c).ciu.lines.rail then s.cut c else s else s := by
    intro l
    induction l with
    | nil => intro s _; simp [State.each]
    | cons d l ih =>
      intro s hl
      have hd : groupOf d = g := hl d (List.mem_cons_self ..)
      rw [State.each_cons, ih _ fun c hc => hl c (List.mem_cons_of_mem _ hc), State.releaseCut_feedActive, State.each_cons]
      cases hg : (s.group g).feedActive <;> simp [State.releaseCut, hd, hg]
  exact (key (cagesOf g) s fun c hc => mem_cagesOf.mp hc).symm

theorem State.foldl_releaseCuts (s : State) (l : List GroupNo) :
    l.foldl State.releaseCuts s = s.each (l.flatMap cagesOf) fun c s => s.releaseCut c := by
  induction l generalizing s with
  | nil => rfl
  | cons g l ih =>
    rw [List.foldl_cons, ih, State.releaseCuts_eq, List.flatMap_cons]
    unfold State.each
    rw [List.foldl_append]

theorem allGroups_cages : allGroups.flatMap cagesOf = allCages := by decide

/-- R131: the groups' cuts are the cuts of all cages, the lowest first. -/
theorem State.releaseReset_eq (s : State) (cause : ResetCause) :
    s.releaseReset cause = (s.releaseHeld cause).each allCages fun c s => s.releaseCut c := by
  have h : s.releaseReset cause = allGroups.foldl State.releaseCuts (s.releaseHeld cause) := rfl
  rw [h, State.foldl_releaseCuts, allGroups_cages]

/-! ### What the cuts keep -/

/-- Every powered cage is ADOPTING. -/
def State.RailsAdopt (s : State) : Prop := ∀ c, (s.cage c).ciu.lines.rail = true → (s.cage c).seq.state = .adopting

/-- What cuts of ADOPTING cages keep of the part. -/
structure State.CutsKeep (s t : State) : Prop where
  device : s.SameDevice t
  adopting : t.RailsAdopt
  group : ∀ g, t.group g = { s.group g with committed := (t.group g).committed, queue := (t.group g).queue }
  queue : ∀ g, (s.group g).queue = [] → (t.group g).queue = []
  sums : s.ChargesSum → t.ChargesSum
  engine : ∀ e, s.engine e = idleEngine → t.engine e = idleEngine
  masks : ∀ p, (t.port p).cageMask = (s.port p).cageMask ∧ (t.port p).deviceMask = (s.port p).deviceMask
  first : ∀ p a, (s.port p).list.head? = some a → a.who = none → (t.port p).list.head? = some a

theorem State.CutsKeep.refl {s : State} (h : s.RailsAdopt) : s.CutsKeep s :=
  ⟨.refl s, h, fun _ => rfl, fun _ h => h, fun h => h, fun _ h => h, fun _ => ⟨rfl, rfl⟩, fun _ _ h _ => h⟩

theorem State.CutsKeep.trans {s t u : State} (a : s.CutsKeep t) (b : t.CutsKeep u) : s.CutsKeep u where
  device := a.device.trans b.device
  adopting := b.adopting
  group := fun g => by rw [b.group, a.group]
  queue := fun g h => b.queue g (a.queue g h)
  sums := fun h => b.sums (a.sums h)
  engine := fun e h => b.engine e (a.engine e h)
  masks := fun p => ⟨(b.masks p).1.trans (a.masks p).1, (b.masks p).2.trans (a.masks p).2⟩
  first := fun p e h hw => b.first p e (a.first p e h hw) hw

/-- R117: a group's sum falls by the charge of a cage that loses it. -/
theorem State.OnlyCage.chargesSum {s t : State} {c : CageNo} (ho : s.OnlyCage t c) (hz : (t.cage c).charge = 0)
    (hm : (t.group (groupOf c)).committed = (s.group (groupOf c)).committed - (s.cage c).charge) (h : s.ChargesSum) :
    t.ChargesSum := by
  intro g
  by_cases hg : g = groupOf c
  · subst hg
    have hmem : c ∈ cagesOf (groupOf c) := mem_cagesOf.mpr rfl
    rw [hm, h]
    have key := List.sum_map_erase (fun d => (s.cage d).charge) hmem
    have key' := List.sum_map_erase (fun d => (t.cage d).charge) hmem
    have same : ((cagesOf (groupOf c)).erase c).map (fun d => (t.cage d).charge) =
        ((cagesOf (groupOf c)).erase c).map fun d => (s.cage d).charge :=
      List.map_congr_left fun d hd => by rw [ho.cages d (List.Nodup.mem_erase_iff (nodup_cagesOf _) |>.mp hd).1]
    rw [same, hz] at key'
    omega
  · rw [ho.groups g hg, h]
    refine congrArg List.sum (List.map_congr_left fun d hd => ?_)
    rw [ho.cages d]
    rintro rfl
    exact hg (mem_cagesOf.mp hd).symm

theorem idleEngine_of {x : Engine} (hc : x.current = none) (hs : x.selected = none) (hw : x.waiting = [])
    (hl : x.lastServed = none) : x = idleEngine := by
  obtain ⟨c, s, w, l⟩ := x
  simp only at hc hs hw hl
  subst hc hs hw hl
  rfl

theorem State.cut_keeps {s : State} {c : CageNo} (hr : (s.cage c).ciu.lines.rail = true)
    (hf : (s.group (groupOf c)).feedActive = true) (hs : s.RailsAdopt) : s.CutsKeep (s.cut c) := by
  have ha := hs c hr
  have hd : (s.cage c).seq.state ≠ .draining := by rw [ha]; decide
  have ho : s.OnlyCage (s.cut c) c := (only c).cut s
  have hcut := s.cut_spec c hr hd hf
  have hdown := State.cut_down hr ha hf
  have hfault := s.cut_fault c hd (by rw [ha]; decide)
  generalize s.cut c = u at *
  refine ⟨ho.device, fun d hdr => ?_, fun g => ?_, fun g hq => ?_, ho.chargesSum hcut.off.charge hdown.committed,
    fun e he => ?_, ho.masks, fun p a hp hw => ?_⟩
  · by_cases h : d = c
    · subst h; rw [hcut.off.lines] at hdr; cases hdr
    · rw [ho.cages d h] at hdr ⊢; exact hs d hdr
  · by_cases h : g = groupOf c
    · rw [h]; exact ho.group
    · rw [ho.groups g h]
  · by_cases h : g = groupOf c
    · subst h
      refine List.eq_nil_iff_forall_not_mem.mpr fun e he => ?_
      have hc := hcut.off.queue (by rw [hcut.state.1]; decide) e he
      have := (mem_iff_of_filter_eq ho.queue (by simpa using hc)).mp he
      rw [hq] at this
      cases this
    · rw [ho.groups g h, hq]
  · by_cases h : e = engineOf c
    · subst h
      have hfree : (s.engine (engineOf c)).Free c := fun k hk => by rw [he] at hk; cases hk
      obtain ⟨hcur, hsel⟩ := ho.carried hfree
      have hw : (u.engine (engineOf c)).waiting = [] := by
        refine List.eq_nil_iff_forall_not_mem.mpr fun i hi => ?_
        have hc := hcut.off.waiting i hi
        have := (mem_iff_of_filter_eq ho.waiting (by simpa using hc)).mp hi
        rw [he] at this
        cases this
      have hl := ho.served
      rw [he] at hcur hsel hl
      exact idleEngine_of hcur hsel hw hl
    · rw [ho.engines e h, he]
  · rw [hfault p]
    cases hl : (s.port p).list with
    | nil => rw [hl] at hp; cases hp
    | cons b l =>
      rw [hl] at hp
      cases hp
      rw [addKind_cons_ne a l (by rw [hw]; nofun)]
      rfl

theorem State.releaseCut_keeps {s : State} (c : CageNo) (hs : s.RailsAdopt) : s.CutsKeep (s.releaseCut c) := by
  unfold State.releaseCut
  split
  · next h => exact State.cut_keeps h.2 h.1 hs
  · exact .refl hs

theorem State.each_id {f : CageNo → State → State} {s : State} (l : List CageNo) (h : ∀ d, f d s = s) : s.each l f = s := by
  induction l with
  | nil => rfl
  | cons d l ih => rw [State.each_cons, h, ih]

/-! ### The release as a whole -/

section
variable {s b : State} {cause : ResetCause}

theorem State.HeldAt.railsAdopt (h : s.HeldAt b cause) : b.RailsAdopt := fun c _ => by rw [h.cage]; rfl

theorem State.HeldAt.chargesSum (h : s.HeldAt b cause) : b.ChargesSum := fun g => by
  rw [h.group]
  refine congrArg List.sum (List.map_congr_left fun c _ => ?_)
  rw [h.cage]
  rfl

/-- The state after the cuts. -/
def State.cutsDone (b : State) : State := b.each allCages fun c s => s.releaseCut c

theorem State.HeldAt.keeps (h : s.HeldAt b cause) : b.CutsKeep b.cutsDone :=
  State.each_keeps (R := fun s t => s.RailsAdopt → s.CutsKeep t) (fun _ h => .refl h)
    (fun x y h => (x h).trans (y (x h).adopting)) allCages (fun d _ _ h => State.releaseCut_keeps d h) b h.railsAdopt

theorem State.StaysHeld.not_cut {c : CageNo} (h : s.StaysHeld c) :
    ¬((s.group (groupOf c)).feedPin = true ∧ (s.cage c).ciu.lines.rail = true) := by
  rintro ⟨hf, hr⟩
  rcases h with h | h
  · rw [hf] at h; cases h
  · rw [hr] at h; cases h

/-- R131: without a powered cage of a group whose feed is in fault there is no cut. -/
theorem State.HeldAt.uncut (h : s.HeldAt b cause) (hs : ∀ c, s.StaysHeld c) : b.cutsDone = b :=
  State.each_id allCages fun c => if_neg (by rw [h.group, h.cage]; exact (hs c).not_cut)

/-- R154: with no items at the engines the cuts answer nobody. -/
theorem State.HeldAt.slots (h : s.HeldAt b cause) (hs : ∀ e, (s.engine e).current = none ∧ (s.engine e).waiting = [])
    (p : Port) :
    (b.cutsDone.port p).reply = (s.port p).reply ∧ (b.cutsDone.port p).request = (s.port p).request := by
  have hn : b.NoPassAny p := fun c => by
    unfold State.NoPassFor
    rw [h.engine, (hs _).1, (hs _).2]
    exact ⟨nofun, fun _ hk => by cases hk⟩
  have hk : (b.cutsDone.port p).reply = (b.port p).reply ∧ (b.cutsDone.port p).request = (b.port p).request :=
    State.each_slots confined_releaseCut allCages hn
  rw [hk.1, hk.2, h.port p]
  exact ⟨rfl, rfl⟩

/-- R186: from an empty list the first entry is DEVICE's, with RESTARTED and its cause, and OVERCOMMIT where a group is
over its budget. -/
theorem State.HeldLists.first (h : s.HeldLists b cause) {p : Port} (hp : (s.port p).list = []) :
    ∃ a, (b.port p).list.head? = some a ∧ a.who = none ∧ a.cause = some cause ∧
      ((∀ g, s.heldCharges g ≤ (s.group g).budget) → a.kinds = DeviceKind.restarted.bit) ∧
      ∀ g, (s.group g).budget < s.heldCharges g →
        a.kinds = DeviceKind.restarted.bit ||| DeviceKind.overcommit.bit := by
  have hfit := fun hall => h.fit hall p
  have hover := fun g hg => h.exceed g hg p
  rw [hp] at hfit hover
  by_cases hall : ∀ g, s.heldCharges g ≤ (s.group g).budget
  · exact ⟨⟨none, DeviceKind.restarted.bit, some cause⟩, by rw [hfit hall]; simp [addKind], rfl, rfl, fun _ => rfl,
      fun g hg => absurd (hall g) (by omega)⟩
  · push Not at hall
    obtain ⟨g, hg⟩ := hall
    exact ⟨⟨none, DeviceKind.restarted.bit ||| DeviceKind.overcommit.bit, some cause⟩, by rw [hover g hg]; simp [addKind],
      rfl, rfl, fun hall => absurd (hall g) (by omega), fun _ _ => rfl⟩

/-- R131: a cage that is not cut is as at the held lines. -/
theorem State.HeldAt.stays (h : s.HeldAt b cause) {c : CageNo} (hc : s.StaysHeld c) :
    b.cutsDone.cage c = (s.cage c).releaseReset s.now := by
  obtain ⟨t, ht, hu⟩ := State.each_beside confined_releaseCut (List.nodup_finRange 32) (List.mem_finRange c) b
  have hid : t.releaseCut c = t := by
    refine if_neg ?_
    rw [ht.group, ht.cage, h.group, h.cage]
    exact hc.not_cut
  rw [hid] at hu
  exact (hu.cage.trans ht.cage).trans (h.cage c)

/-- R131: a powered cage of a group whose feed is in fault is cut among the others. -/
theorem State.HeldAt.isCut (h : s.HeldAt b cause) {c : CageNo} (hf : (s.group (groupOf c)).feedPin = true)
    (hr : (s.cage c).ciu.lines.rail = true) :
    b.FeedCut b.cutsDone c ∧
      (∃ t v : State, t.cage c = b.cage c ∧ t.CutDown v c ∧ b.cutsDone.cage c = v.cage c) ∧
      ∀ p, ∃ a ∈ (b.cutsDone.port p).list, a.who = some c ∧ a.kinds &&& CageKind.fault.bit ≠ 0 := by
  obtain ⟨t, ht, hu⟩ := State.each_beside confined_releaseCut (List.nodup_finRange 32) (List.mem_finRange c) b
  have hfeed : (t.group (groupOf c)).feedActive = true := by rw [ht.group, h.group]; exact hf
  have hrail : (t.cage c).ciu.lines.rail = true := by rw [ht.cage, h.cage]; exact hr
  have ha : (t.cage c).seq.state = .adopting := by rw [ht.cage, h.cage]; rfl
  have hcut : t.releaseCut c = t.cut c := if_pos ⟨hfeed, hrail⟩
  rw [hcut] at hu
  have hd : (t.cage c).seq.state ≠ .draining := by rw [ha]; decide
  refine ⟨(t.cut_spec c hrail hd hfeed).around (ht.sameCage ⟨rfl, rfl, rfl, rfl⟩) hu,
    ⟨t, _, ht.cage, State.cut_down hrail ha hfeed, hu.cage⟩, fun p => exists_entry_congr (hu.entries p) ?_⟩
  rw [t.cut_fault c hd (by rw [ha]; decide) p]
  exact addKind_has _ _ CageKind.fault.bit_ne_zero _

/-- R117, R131: after the cuts a group's charges are those of its held lines, or none where its feed is in fault. -/
theorem State.HeldAt.chargeSum (h : s.HeldAt b cause) (g : GroupNo) :
    (b.cutsDone.group g).committed = if (s.group g).feedPin then 0 else s.heldCharges g := by
  rw [h.keeps.sums h.chargesSum g]
  cases hp : (s.group g).feedPin with
  | false =>
    refine congrArg List.sum (List.map_congr_left fun c hc => ?_)
    rw [h.stays (.inl (by rw [mem_cagesOf.mp hc]; exact hp))]
    rfl
  | true =>
    refine List.sum_eq_zero fun x hx => ?_
    obtain ⟨c, hc, rfl⟩ := List.mem_map.mp hx
    cases hr : (s.cage c).ciu.lines.rail with
    | true => exact (h.isCut (by rw [mem_cagesOf.mp hc]; exact hp) hr).1.off.charge
    | false =>
      rw [h.stays (.inr hr)]
      simp [Cage.releaseReset, releaseCharge, hr]

/-- What the release keeps of every cage, cut or not. -/
theorem State.HeldAt.kept (h : s.HeldAt b cause) (c : CageNo) :
    (b.cutsDone.cage c).profile = (s.cage c).profile ∧ (b.cutsDone.cage c).image = (s.cage c).image ∧
      (b.cutsDone.cage c).nextPoll = none ∧ (b.cutsDone.cage c).ciu.settle = some s.now ∧
      (b.cutsDone.cage c).ciu.presence = (s.cage c).ciu.presence ∧
      (b.cutsDone.cage c).ciu.candidate = (s.cage c).ciu.candidate := by
  by_cases hc : s.StaysHeld c
  · rw [h.stays hc]
    exact ⟨rfl, rfl, rfl, rfl, rfl, rfl⟩
  · unfold State.StaysHeld at hc
    simp only [not_or, Bool.not_eq_false] at hc
    obtain ⟨hcut, ⟨t, v, ht, hd, hv⟩, -⟩ := h.isCut hc.1 hc.2
    have hciu := hd.ciu
    rw [hcut.off.profile, hv, hd.image, hd.polls, hciu.settle, hciu.presence, hciu.candidate, ht, h.cage]
    exact ⟨rfl, rfl, rfl, rfl, rfl, rfl⟩

end

theorem State.releaseReset_cutsDone (s : State) (cause : ResetCause) :
    s.releaseReset cause = (s.releaseHeld cause).cutsDone := s.releaseReset_eq cause

/-- R186: what a release of the reset leaves. -/
theorem State.releaseReset_spec (s : State) (cause : ResetCause) : s.Released (s.releaseReset cause) cause := by
  have h := s.releaseHeld_heldAt cause
  have hl := s.releaseHeld_lists cause
  rw [State.releaseReset_cutsDone]
  generalize s.releaseHeld cause = b at *
  have hk := h.keeps
  have hd := h.device.trans hk.device
  refine ⟨⟨hd.now, hd.elapsed, hd.settings, hd.deviceLast, hd.fieldMaps, hd.cause, hd.releaseTime, hd.scanCage, hd.lsr,
    hd.pending⟩, fun p hp => ?_, fun p => ?_, fun p hp => ?_, fun p hs hb => ?_, fun g hg => ?_, fun e he => ?_, h.kept,
    fun c hc => ?_, fun c hc => ?_, fun c hf hr => ?_⟩
  · exact h.slots hp p
  · rw [(hk.masks p).1, (hk.masks p).2, h.port p]
    exact ⟨rfl, rfl⟩
  · obtain ⟨a, hb, hw, hc, hkinds⟩ := hl.first hp
    exact ⟨a, hk.first p a hb hw, hw, hc, hkinds⟩
  · rw [h.uncut hs, hl.fit hb]
  · rw [hk.group, h.chargeSum, (hk.queue g (by rw [h.group]; exact hg)).trans hg.symm, h.group]
  · exact hk.engine e (by rw [h.engine, he]; rfl)
  · rw [h.stays hc]
    exact ⟨rfl, rfl, rfl, rfl, rfl⟩
  · rw [h.stays hc]
    rfl
  · obtain ⟨hcut, ⟨t, v, ht, hd, hv⟩, hfault⟩ := h.isCut hf hr
    refine ⟨hcut.off.lines, hcut.off.charge, hcut.off.bus, hcut.state.1, hcut.state.2.2, hcut.state.2.1, hcut.timers,
      by rw [hv]; exact hd.monitor.1, by rw [hv]; exact hd.monitor.2, ?_, hfault⟩
    have hnow := h.device.now
    rw [hcut.record, h.cage, hnow]
    rfl

theorem State.releaseReset_inReset (s : State) (cause : ResetCause) : (s.releaseReset cause).inReset = s.inReset := by
  have h := s.releaseHeld_heldAt cause
  rw [State.releaseReset_cutsDone]
  exact (h.device.trans h.keeps.device).inReset

/-- What a release leaves does not regard the pin's level before it. -/
theorem State.Released.withPin {s u : State} {cause : ResetCause} {x : Bool}
    (h : ({ s with inReset := x } : State).Released u cause) : s.Released u cause where
  device := h.device
  slots := fun p hs => by simpa only [State.withPin_port] using h.slots p hs
  masks := fun p => by simpa only [State.withPin_port] using h.masks p
  restarted := fun p hp => h.restarted p (by rw [State.withPin_port]; exact hp)
  noOther := fun p hs hb => by simpa only [State.withPin_port] using h.noOther p hs hb
  groups := h.groups
  engines := h.engines
  kept := h.kept
  adopting := h.adopting
  rails := h.rails
  cut := h.cut

/-- An assertion ends the request that a port has taken. -/
theorem State.take_assertReset (s : State) (p : Port) (code target : Byte) (r : List Byte) :
    (s.take p code target r).assertReset = s.assertReset := by cases p <;> rfl

end Sys2Proof.Machine

namespace Sys2Proof.Proofs

open Sys2Proof.Machine

/-- Settles O5: the release by `releaseReset_spec`; a RESTART asserts first, which leaves no queue, no item and idle ports. -/
theorem resetReleased : Obligations.ResetReleased := by
  refine ⟨fun s hr => ⟨({ s with inReset := false } : State).releaseReset .resetPin, ?_, ?_, ?_⟩, fun s q h hp => ?_⟩
  · simp only [exec, execResetPinRelease, hr, if_true]
  · rw [State.releaseReset_inReset]
  · exact (State.releaseReset_spec _ _).withPin
  · have hx : exec (.restart q) s = .next (s.assertReset.releaseReset .restart).settle := by
      have he : exec (.restart q) s = event s fun s =>
          s.serve q ⟨0x16, [], onlyPort .B, fun n => decide (n = 0)⟩ fun s => s.restarted.settle := rfl
      rw [he, event_awake h.awake, State.serve_takes h (by rw [hp]; rfl) rfl rfl, State.restarted, State.take_assertReset]
    have hs := s.assertReset.releaseReset_spec .restart
    refine ⟨s.assertReset, _, hx, s.assertReset_spec, h.awake, hs, ?_, fun p => ?_, fun g => ?_⟩
    · rw [State.releaseReset_inReset]
      exact h.awake
    · rw [(hs.slots p fun e => by rw [s.assertReset_engine]; exact ⟨rfl, rfl⟩).1, s.assertReset_port]
      rfl
    · rw [hs.groups g (by rw [s.assertReset_group]), s.assertReset_group]

end Sys2Proof.Proofs
end

section
/-! What every operation on a cage keeps of its context's flags (R26, R35, R38, R95, R96) and of its profile (R19 to
R22, R29). The entry of a state clears the flags that the state excludes, whatever stood in the context before, so
that only what follows an entry has to keep them; a profile is changed by a learning, a write and an invalidation
alone. -/

namespace Sys2Proof.Machine

/-- R19 to R22, R29: a profile is in range, and built-in where it is not valid. -/
def Profile.Holds (p : Profile) : Prop :=
  p.InRange ∧ (p.valid = false → p = { builtinProfile with revision := p.revision })

/-- From `k` to `k'` the flags of the context stay clear where its state excludes them, and the profile in range. -/
structure Cage.Keeps (k k' : Cage) : Prop where
  flags : k.seq.FlagsHold → k'.seq.FlagsHold
  profile : k.profile.Holds → k'.profile.Holds

/-- What `Cage.Keeps` says of one cage, as a relation between states. -/
def steady (c : CageNo) : Rel where
  R := fun s t => (s.cage c).Keeps (t.cage c)
  refl' := fun _ => ⟨id, id⟩
  trans' := fun a b => ⟨b.flags ∘ a.flags, b.profile ∘ a.profile⟩

/-! ### The context and the profile by themselves -/

/-- The entry of a state clears what the state excludes, whatever the context held. -/
theorem Ctx.entered_flagsHold (q : Ctx) (st : SeqState) (stage : Stage) : (q.entered st stage).FlagsHold := by
  refine ⟨fun h => ?_, fun h => ?_, fun h => ?_⟩
  · have hq : st.quiets = true := h
    simp [Ctx.entered, hq]
  · have hf : st.frees = true := h
    simp [Ctx.entered, hf]
  · exact (Bool.and_eq_true_iff.mp h).2

theorem Ctx.clear_flagsHold (st : SeqState) : (clearCtx st).FlagsHold :=
  ⟨fun _ => ⟨rfl, rfl⟩, fun _ => ⟨rfl, rfl⟩, fun h => by cases h⟩

/-- In a service state a context excludes no flag. -/
theorem Ctx.flagsHold_of_service {q : Ctx} (h : q.state.service = true) : q.FlagsHold := by
  refine ⟨fun hq => ?_, fun hf => ?_, fun _ => h⟩
  · cases hs : q.state <;> simp [hs, SeqState.service, SeqState.quiets] at h hq
  · cases hs : q.state <;> simp [hs, SeqState.service, SeqState.frees] at h hf

theorem builtinProfile_holds : builtinProfile.Holds := ⟨builtinProfile_inRange, fun _ => rfl⟩

/-- R22: the profile in force is in range where the stored one is. -/
theorem Profile.InRange.inForce {p : Profile} (h : p.InRange) : p.inForce.InRange := by
  unfold Profile.inForce
  split
  · exact h
  · exact builtinProfile_inRange

/-- R37: a tuned list is of eight pairs, each in its range. -/
theorem tunedList_inRange (p : Profile) (l : List LanePair) :
    (tunedList p l).length = 8 ∧ ∀ e ∈ tunedList p l, e.eq ≤ 15 ∧ e.amp ≤ 3 := by
  refine ⟨by simp [tunedList], fun e he => ?_⟩
  obtain ⟨k, -, rfl⟩ := List.mem_map.mp he
  exact ⟨Nat.min_le_left _ _, Nat.min_le_left _ _⟩

/-- R37, R51: what a learning stores is in range, the grade of the last unit among it. -/
theorem Profile.Holds.withLearned {p : Profile} (h : p.Holds) (i : Identity) (l : List LanePair) :
    (p.withLearned i.lastUnit (tunedList p.inForce l)).Holds := by
  obtain ⟨slots, len, breakout, window, priority, grade, init, margin, host, link, retry, overdraw, start, stop, lanes,
    each, -, -⟩ := h.1.inForce
  refine ⟨⟨slots, len, breakout, window, priority, grade, init, margin, host, link, retry, overdraw, start, stop, lanes,
    each, ?_, ?_⟩, fun hv => by cases hv⟩
  · rintro _ ⟨⟩
    exact ⟨by simp [Profile.withLearned], tunedList_inRange _ _⟩
  · rintro _ ⟨⟩
    exact Nat.min_le_left _ _

/-! ### Plain updates -/

section
variable {c : CageNo} {s t u : State}

/-- What leaves a cage's context and profile keeps both. -/
theorem steady_same (h : (t.cage c).seq = (s.cage c).seq ∧ (t.cage c).profile = (s.cage c).profile) :
    (steady c).To s t := by
  obtain ⟨hseq, hprofile⟩ := h
  exact ⟨fun h => hseq ▸ h, fun h => hprofile ▸ h⟩

theorem steady_of_cage (h : t.cage c = s.cage c) : (steady c).To s t := steady_same ⟨by rw [h], by rw [h]⟩

/-- A change of the context that keeps its flags as they stand in a cage. -/
theorem steady_modSeq {f : Ctx → Ctx} (h : (s.cage c).seq.FlagsHold → (f (s.cage c).seq).FlagsHold) :
    (steady c).To s (s.modSeq c f) := by
  refine ⟨fun hs => ?_, fun hp => ?_⟩
  · rw [show ((s.modSeq c f).cage c).seq = f (s.cage c).seq by simp]
    exact h hs
  · rwa [show ((s.modSeq c f).cage c).profile = (s.cage c).profile by simp]

/-- A change of the context that keeps its flags, as one of its other fields does. -/
theorem State.modSeq_steady (s : State) (f : Ctx → Ctx)
    (h : ∀ q, q.FlagsHold → (f q).FlagsHold) : (steady c).To s (s.modSeq c f) :=
  steady_modSeq (h _)

/-- A change of the profile that keeps it in range. -/
theorem steady_modProfile {f : Profile → Profile} (h : (s.cage c).profile.Holds → (f (s.cage c).profile).Holds) :
    (steady c).To s (s.modProfile c f) := by
  refine ⟨fun hs => ?_, fun hp => ?_⟩
  · rwa [show ((s.modProfile c f).cage c).seq = (s.cage c).seq by simp]
  · rw [show ((s.modProfile c f).cage c).profile = f (s.cage c).profile by simp]
    exact h hp

/-- An entry keeps both, whatever has become of the context before it. -/
theorem steady_enter (h : (u.cage c).profile = (s.cage c).profile) (st : SeqState) (stage : Stage) :
    (steady c).To s (u.enter c st stage) := by
  refine ⟨fun _ => ?_, fun hp => ?_⟩
  · rw [show ((u.enter c st stage).cage c).seq = (u.cage c).seq.entered st stage by simp]
    exact Ctx.entered_flagsHold _ st stage
  · rwa [show ((u.enter c st stage).cage c).profile = (s.cage c).profile by simp [h]]

end

variable {c : CageNo} (s : State)

theorem State.enter_steady (st : SeqState) (stage : Stage) : (steady c).To s (s.enter c st stage) :=
  steady_enter rfl st stage

theorem State.post_steady (k : CageKind) : (steady c).To s (s.post c k) := steady_of_cage rfl

theorem State.postTo_steady (p : Port) (k : CageKind) : (steady c).To s (s.postTo p c k) :=
  steady_of_cage (by simp [State.postTo])

theorem State.closeRecord_steady (r : Result) (w : Option Reason) : (steady c).To s (s.closeRecord c r w) :=
  steady_same (by simp)

theorem State.writeOpen_steady (f : Outage → Outage) : (steady c).To s (s.writeOpen c f) := steady_same (by simp)

theorem State.modOutage_steady (f : Outage → Outage) : (steady c).To s (s.modOutage c f) := steady_same (by simp)

theorem State.modImage_steady (f : Image → Image) : (steady c).To s (s.modImage c f) := steady_same (by simp)

theorem State.emptyImage_steady : (steady c).To s (s.emptyImage c) := steady_same (by simp)

theorem State.modCiu_steady (f : Ciu → Ciu) : (steady c).To s (s.modCiu c f) := steady_same (by simp)

theorem State.modBus_steady (f : Bus → Bus) : (steady c).To s (s.modBus c f) := steady_same (by simp)

theorem State.modRlm_steady (f : Rlm → Rlm) : (steady c).To s (s.modRlm c f) := steady_same (by simp)

theorem State.modTimers_steady (f : Timers → Timers) : (steady c).To s (s.modTimers c f) :=
  s.modSeq_steady _ fun _ h => h

theorem State.nextPoll_steady (f : Option Timer → Option Timer) :
    (steady c).To s (s.modCage c fun k => { k with nextPoll := f k.nextPoll }) := steady_same (by simp)

theorem State.setCharge_steady (n : Nat) : (steady c).To s (s.setCharge c n) := steady_same (by simp)

theorem State.railOn_steady : (steady c).To s (s.railOn c) := steady_same (by simp)

theorem State.railOff_steady : (steady c).To s (s.railOff c) := steady_same (by simp)

theorem State.resetAssert_steady : (steady c).To s (s.resetAssert c) := steady_same (by simp)

theorem State.resetRelease_steady : (steady c).To s (s.resetRelease c) := steady_same (by simp)

theorem State.lpRelease_steady : (steady c).To s (s.lpRelease c) := steady_same (by simp)

theorem State.lpAssert_steady : (steady c).To s (s.lpAssert c) := by
  obtain ⟨-, -, hprofile, hseq, -⟩ := s.lpAssert_parts c
  refine ⟨fun h => ?_, fun h => ?_⟩
  · rw [hseq]
    exact h
  · rwa [hprofile]

theorem State.settleBasis_steady : (steady c).To s (s.settleBasis c) := steady_same (by simp)

theorem State.cancel_steady (e : EngineNo) (f : Engine → Engine) : (steady c).To s (s.modEngine e f) :=
  steady_of_cage rfl

theorem State.withdrawEntry_steady : (steady c).To s (s.withdrawEntry c) := steady_of_cage rfl

theorem State.connect_steady : (steady c).To s (s.connect c) := s.modBus_steady _

theorem State.stopWork_steady : (steady c).To s (s.stopWork c) :=
  (s.modSeq_steady _ (by exact fun _ h => h)).trans (State.cancel_steady _ _ _)

theorem State.PassesEnded.steady {s u : State} (h : s.PassesEnded u c) : (steady c).To s u :=
  steady_same ⟨h.cage.seq, h.cage.profile⟩

theorem State.disconnect_steady : (steady c).To s (s.disconnect c) := (s.disconnect_spec c).1.steady

theorem State.endPasses_steady (st : ReplyStatus) : (steady c).To s (s.endPasses c st) :=
  (s.endPasses_spec c st).1.steady

/-! ### Parks, admissions, faults and drains -/

theorem State.parkNow_steady (r : Reason) (stage : Stage) (src : Option Source) :
    (steady c).To s (s.parkNow c r stage src) :=
  (((((s.stopWork_steady.trans (State.enter_steady _ .parked stage)).trans
      (State.modSeq_steady _ _ (by exact fun _ h => h))).trans
    (State.post_steady _ .parked)).trans (State.writeOpen_steady _ _)).trans (State.closeRecord_steady _ _ _))

theorem State.enqueue_steady (k : QueueKind) (n : Nat) (stage : Stage) : (steady c).To s (s.enqueue c k n stage) := by
  unfold State.enqueue
  exact .ite (s.parkNow_steady _ _ _) (steady_of_cage rfl)

theorem State.enterAdmit_steady : (steady c).To s (s.enterAdmit c) :=
  ((s.stopWork_steady.trans (State.enter_steady _ _ _)).trans (State.modSeq_steady _ _ (by exact fun _ h => h))).trans
      (State.enqueue_steady _ _ _ _)

theorem State.readmit_steady : (steady c).To s (s.readmit c) := s.emptyImage_steady.trans (State.enterAdmit_steady _)

theorem State.enterEmpty_steady : (steady c).To s (s.enterEmpty c) :=
  (s.stopWork_steady.trans (State.enter_steady _ _ _)).trans (State.modSeq_steady _ _ (by exact fun _ h => h))

theorem State.moduleFault_steady (r : Reason) : (steady c).To s (s.moduleFault c r) :=
  ((((((s.stopWork_steady.trans (State.resetAssert_steady _)).trans (State.lpAssert_steady _)).trans
    (State.enter_steady _ _ _)).trans (State.modSeq_steady _ _ (by exact fun _ h => h))).trans
        (State.post_steady _ _)).trans
    (State.closeRecord_steady _ _ _))

theorem State.busUndo_steady : (steady c).To s (s.busUndo c) := by
  unfold State.busUndo
  split
  · exact (steady c).refl s
  · exact s.disconnect_steady
  · exact .ite ((s.endPasses_steady _).trans (State.modSeq_steady _ _ (by exact fun _ h => h))) s.disconnect_steady

theorem State.undoSlot_steady (n : Nat) : (steady c).To s (s.undoSlot c n) := by
  unfold State.undoSlot
  exact ((Rel.To.ite s.resetAssert_steady ((steady c).refl s)).trans
      (.ite (State.busUndo_steady _) ((steady c).refl _))).trans
    (.ite (State.railOff_steady _) ((steady c).refl _))

theorem State.startDrainSlot_steady (n : Nat) : (steady c).To s (s.startDrainSlot c n) :=
  (s.modSeq_steady _ (by exact fun _ h => h)).trans (State.undoSlot_steady _ n)

theorem State.startDrain_steady (dest : Dest) (r : Option Reason) : (steady c).To s (s.startDrain c dest r) := by
  unfold State.startDrain
  exact ((((s.stopWork_steady.trans (State.withdrawEntry_steady _)).trans (State.enter_steady _ _ _)).trans
    (State.modSeq_steady _ _ (by exact fun _ h => h))).trans (State.lpAssert_steady _)).trans
        (State.startDrainSlot_steady _ _)

theorem State.enterPowerFault_steady (r : Reason) (stage : Stage) : (steady c).To s (s.enterPowerFault c r stage) :=
  ((s.stopWork_steady.trans (State.enter_steady _ _ _)).trans (State.modSeq_steady _ _ (by exact fun _ h => h))).trans
    (State.closeRecord_steady _ _ _)

theorem State.endDrain_steady : (steady c).To s (s.endDrain c) := by
  unfold State.endDrain
  split
  · exact s.readmit_steady
  · exact s.emptyImage_steady.trans (State.enterPowerFault_steady _ _ _)
  · exact .ite s.readmit_steady (s.emptyImage_steady.trans (State.enterEmpty_steady _))

theorem State.powerFault_steady (r : Reason) : (steady c).To s (s.powerFault c r) := by
  unfold State.powerFault
  refine .ite ?_ ((steady c).refl s)
  split
  · split
    · exact (s.modSeq_steady _ (by exact fun _ h => h)).trans (State.post_steady _ _)
    · exact (steady c).refl s
  · exact (s.post_steady _).trans (State.startDrain_steady _ _ _)

theorem State.enterGroupFeed_steady : (steady c).To s (s.enterGroupFeed c) := by
  unfold State.enterGroupFeed
  exact .ite (s.enterPowerFault_steady _ _)
    ((s.enterPowerFault_steady _ _).trans (State.modSeq_steady _ _ (by exact fun _ h => h)))

theorem State.cutBase_steady : (steady c).To s (s.cutBase c) :=
  (((s.cutBus_ended c).steady.trans (State.withdrawEntry_steady _)).trans (State.railOff_steady _)).trans
    (State.lpAssert_steady _)

theorem State.cut_steady : (steady c).To s (s.cut c) := by
  rw [s.cut_eq c]
  refine s.cutBase_steady.trans ?_
  unfold State.cutGoes
  split
  · split
    · exact (State.emptyImage_steady _).trans (State.enterGroupFeed_steady _)
    · exact State.endDrain_steady _
  · exact State.enterGroupFeed_steady _
  · exact (State.post_steady _ _).trans (State.enterGroupFeed_steady _)

end Sys2Proof.Machine
end

section
/-! What every operation on a cage keeps of its context's flags and of its profile, continued: the link, the
decisions, the outcomes of items, presence, and the timed events. -/

namespace Sys2Proof.Machine

variable {c : CageNo} (s : State)

/-! ### Items and polls -/

theorem State.addItem_steady (i : Item) : (steady c).To s (s.addItem i) := steady_of_cage rfl

theorem State.postSeq_steady (a : Access) : (steady c).To s (s.postSeq c a) := by
  unfold State.postSeq
  split
  · exact (s.modSeq_steady _ (by exact fun _ h => h)).trans (State.addItem_steady _ _)
  · exact s.moduleFault_steady _
  · exact s.modSeq_steady _ fun _ h => h

theorem State.pollFailed_steady : (steady c).To s (s.pollFailed c) := by
  unfold State.pollFailed
  exact .ite ((s.modImage_steady _).trans (State.post_steady _ _)) (s.modImage_steady _)

theorem State.postPoll_steady : (steady c).To s (s.postPoll c) := by
  unfold State.postPoll
  refine .ite ((steady c).refl s) ?_
  split
  · exact s.addItem_steady _
  · exact s.pollFailed_steady
  · exact (steady c).refl s

theorem State.joinPolls_steady : (steady c).To s (s.joinPolls c) :=
  (s.postPoll_steady.trans (State.modCiu_steady _ _)).trans
    (State.nextPoll_steady _ fun _ => some ⟨s.now, s.settings.pollInterval⟩)

theorem State.offerLatch_steady : (steady c).To s (s.offerLatch c) := by
  unfold State.offerLatch
  split
  · exact (s.modCiu_steady _).trans (State.postPoll_steady _)
  · exact (steady c).refl s

theorem State.pollTaken_steady (m : FieldMap) (data : List Byte) : (steady c).To s (s.pollTaken c m data) := by
  unfold State.pollTaken
  exact ((s.modImage_steady _).trans (.ite (State.post_steady _ _) ((steady c).refl _))).trans
    (.ite (State.post_steady _ _) ((steady c).refl _))

/-! ### The link -/

theorem State.noticeRestored_steady : (steady c).To s (s.noticeRestored c) := by
  unfold State.noticeRestored
  exact .ite ((s.post_steady _).trans
    (State.modSeq_steady _ _ fun _ h => ⟨fun hq => ⟨(h.1 hq).1, rfl⟩, h.2⟩)) ((steady c).refl s)

/-- A profile that leaves use and a learning that ends keep the flags. -/
theorem State.abandonLearning_steady : (steady c).To s (s.abandonLearning c) :=
  s.modSeq_steady _ fun _ h => ⟨h.1, fun hf => ⟨rfl, (h.2.1 hf).2⟩, fun hl => by cases hl⟩

theorem State.storeLearned_steady : (steady c).To s (s.storeLearned c) :=
  ((steady_modProfile fun h => h.withLearned _ _).trans (State.post_steady _ _)).trans (State.abandonLearning_steady _)

theorem State.learnLane_steady (k : Nat) : (steady c).To s (s.learnLane c k) := by
  unfold State.learnLane
  exact .ite (s.postSeq_steady _) s.storeLearned_steady

/-- R37: a learning starts in a service state only. -/
theorem State.startLearning_steady (h : (s.cage c).seq.state.service = true) : (steady c).To s (s.startLearning c) :=
  (steady_modSeq fun _ => Ctx.flagsHold_of_service h).trans (State.learnLane_steady _ 0)

theorem State.noticeRestored_state : ((s.noticeRestored c).cage c).seq.state = (s.cage c).seq.state := by
  unfold State.noticeRestored
  split <;> simp

theorem State.restoreUp_steady : (steady c).To s (s.restoreUp c) := by
  unfold State.restoreUp
  refine ((((s.enter_steady _ _).trans (State.modSeq_steady _ _ (by exact fun _ h => h))).trans
      (State.closeRecord_steady _ _ _)).trans
    (State.noticeRestored_steady _)).trans (.ite (State.startLearning_steady _ ?_) (State.modSeq_steady _ _ ?_))
  · simp [State.noticeRestored_state, Ctx.entered, SeqState.service]
  · exact fun _ h => ⟨h.1, fun hf => ⟨rfl, (h.2.1 hf).2⟩, h.2.2⟩

theorem State.restoreDegraded_steady (r : Reason) (k : Option Summary) : (steady c).To s (s.restoreDegraded c r k) := by
  unfold State.restoreDegraded
  refine (((s.enter_steady _ _).trans (State.modSeq_steady _ _ ?_)).trans (State.closeRecord_steady _ _ _)).trans
    (State.post_steady _ _)
  exact fun _ h => ⟨h.1, fun _ => ⟨rfl, rfl⟩, h.2.2⟩

theorem serviceState_service (x : Summary) : (serviceState x).1.service = true := by cases x <;> rfl

theorem State.followLink_steady : (steady c).To s (s.followLink c) := by
  have followed : (steady c).To s (s.modSeq c fun q =>
      { q with
        state := (serviceState (s.summary c)).1
        reason := (serviceState (s.summary c)).2
        lastKnown := some (s.summary c) }) :=
    s.modSeq_steady _ fun _ _ => Ctx.flagsHold_of_service (serviceState_service (s.summary c))
  unfold State.followLink
  exact .ite ((steady c).refl s) (.ite ((steady c).refl s)
    ((followed.trans (.ite (State.post_steady _ _) ((steady c).refl _))).trans
      (.ite (State.noticeRestored_steady _) ((steady c).refl _))))

theorem State.evalLink_steady : (steady c).To s (s.evalLink c) := by
  unfold State.evalLink
  split
  · exact .ite s.restoreUp_steady ((steady c).refl s)
  · exact s.followLink_steady
  · exact s.followLink_steady
  · exact (steady c).refl s

/-- R92: LINK_WAIT is entered, whatever has become of the context before it. -/
theorem steady_enterLinkWait {u : State} (h : (u.cage c).profile = (s.cage c).profile) (n : Option Nat) :
    (steady c).To s (u.enterLinkWait c n) := by
  unfold State.enterLinkWait
  exact ((steady_enter h _ _).trans (State.modSeq_steady _ _ (by exact fun _ h => h))).trans
    ((State.joinPolls_steady _).trans (State.evalLink_steady _))

theorem State.retryLink_steady : (steady c).To s (s.retryLink c) :=
  ((s.enter_steady _ _).trans (State.modSeq_steady _ _ (by exact fun _ h => h))).trans (State.postSeq_steady _ _)

theorem State.linkExpired_steady : (steady c).To s (s.linkExpired c) := by
  unfold State.linkExpired
  split
  · exact s.restoreDegraded_steady _ _
  · exact s.restoreDegraded_steady _ _
  · split
    · exact s.restoreDegraded_steady _ _
    · exact .ite ((s.modSeq_steady _ (by exact fun _ h => h)).trans (State.retryLink_steady _))
        ((s.modSeq_steady _ (by exact fun _ h => h)).trans (State.moduleFault_steady _ _))
  · exact s.restoreUp_steady

/-! ### Decisions -/

theorem State.recordClass_steady (k : MatchClass × Bool) : (steady c).To s (s.recordClass c k) :=
  (s.modSeq_steady _ (by exact fun _ h => h)).trans (State.writeOpen_steady _ _)

theorem State.parkFromDecide_steady (r : Reason) (src : Option Source) :
    (steady c).To s (s.parkFromDecide c r src) := by
  unfold State.parkFromDecide
  exact .ite (((s.stopWork_steady.trans (State.modSeq_steady _ _ (by exact fun _ h => h))).trans
      (State.writeOpen_steady _ _)).trans
    ((State.lpAssert_steady _).trans (State.postSeq_steady _ _))) (s.parkNow_steady _ _ _)

theorem State.commit_profile (d : Decision) (src : Source) :
    ((s.commit c d src).cage c).profile = (s.cage c).profile := by
  simp [State.commit]

/-- R59: whatever the decision sets, the cage then enters a state that excludes no flag of it. -/
theorem State.proceed_steady (d : Decision) (src : Source) : (steady c).To s (s.proceed c d src) := by
  unfold State.proceed
  refine .ite ?_ ?_
  · cases d
    · exact (steady_enter (s.commit_profile _ _) _ _).trans (State.postSeq_steady _ _)
    · exact steady_enterLinkWait s (s.commit_profile _ _) _
  · exact (steady_enter (by simp [State.commit_profile]) _ _).trans (State.enqueue_steady _ _ _ _)

theorem State.waitDecision_steady (w : Bool) : (steady c).To s (s.waitDecision c w) :=
  (s.modSeq_steady _ (by exact fun _ h => h)).trans (State.post_steady _ _)

theorem State.decideEval_steady : (steady c).To s (s.decideEval c) := by
  unfold State.decideEval
  dsimp only
  refine ((s.modTimers_steady fun t => { t with window := none }).trans
    (State.recordClass_steady _ (s.classify c))).trans ?_
  split
  · exact State.parkFromDecide_steady _ _ _
  · exact State.proceed_steady _ _ _
  · exact State.waitDecision_steady _ _
  · exact State.waitDecision_steady _ _

theorem State.enterDecide_steady : (steady c).To s (s.enterDecide c) :=
  ((s.enter_steady _ _).trans (State.modImage_steady _ _)).trans (State.decideEval_steady _)

theorem State.startIdentPoll_steady : (steady c).To s (s.startIdentPoll c) :=
  (s.modImage_steady _).trans (State.postSeq_steady _ _)

theorem State.enterFind_steady : (steady c).To s (s.enterFind c) :=
  ((s.enter_steady _ _).trans (State.modTimers_steady _ _)).trans (State.startIdentPoll_steady _)

theorem State.resume_steady : (steady c).To s (s.resume c) := by
  unfold State.resume
  exact (s.modSeq_steady _ (by exact fun _ h => h)).trans
      (.ite (State.enterAdmit_steady _) (.ite (State.enterFind_steady _)
    ((State.enter_steady _ _ _).trans (State.decideEval_steady _))))

/-! ### Outcomes of the sequencer's items -/

theorem State.pollAgain_steady (a : Access) : (steady c).To s (s.pollAgain c a) := s.modSeq_steady _ fun _ h => h

theorem State.identityDone_steady : (steady c).To s (s.identityDone c) := by
  unfold State.identityDone
  exact (s.modImage_steady _).trans (.ite (State.postSeq_steady _ _) (State.enterDecide_steady _))

theorem State.tookField_steady (f : IdField) (data : List Byte) : (steady c).To s (s.tookField c f data) := by
  unfold State.tookField
  refine (s.modImage_steady fun i => { i with identity := i.identity.store f data (s.mapOf c).laneCount }).trans ?_
  dsimp only
  split
  · exact State.postSeq_steady _ _
  · exact State.identityDone_steady _

theorem State.tookIdent_steady (b : Byte) : (steady c).To s (s.tookIdent c b) := by
  unfold State.tookIdent
  have written : (steady c).To s (s.writeIdent c b) := s.modImage_steady _
  have stopped := written.trans (State.modTimers_steady _ fun t => { t with init := none })
  dsimp only
  split
  · exact stopped.trans (State.postSeq_steady _ _)
  · exact (stopped.trans (State.lpAssert_steady _)).trans (State.parkNow_steady _ _ _ _)
  · exact (written.trans (State.modSeq_steady _ _ (by exact fun _ h => h))).trans (State.postSeq_steady _ _)
  · exact stopped.trans (State.parkNow_steady _ _ _ _)

theorem State.tookReady_steady (b : Byte) : (steady c).To s (s.tookReady c b) := by
  unfold State.tookReady
  exact .ite (((s.modTimers_steady _).trans (State.modSeq_steady _ _ (by exact fun _ h => h))).trans
      (State.postSeq_steady _ _)) (s.pollAgain_steady _)

theorem State.overcommit_steady (g : GroupNo) : (steady c).To s (s.overcommit g) := by
  unfold State.overcommit
  exact .ite (steady_of_cage rfl) ((steady c).refl s)

/-- R190: whatever a match sets, the cage then enters LINK_WAIT, which excludes no flag of it. -/
theorem State.adoptMatched_steady : (steady c).To s (s.adoptMatched c) := steady_enterLinkWait s (by simp) none

theorem State.adoptDone_steady (b : Byte) : (steady c).To s (s.adoptDone c b) := by
  unfold State.adoptDone
  exact ((s.modImage_steady _).trans (.ite ((State.setCharge_steady _ _).trans (State.overcommit_steady _ _))
    (State.lpAssert_steady _))).trans (.ite (State.adoptMatched_steady _) (State.enterDecide_steady _))

theorem State.enterHpSettle_steady : (steady c).To s (s.enterHpSettle c) :=
  (s.modSeq_steady _ (by exact fun _ h => h)).trans (State.postSeq_steady _ _)

theorem State.tookHpDone_steady (b : Byte) : (steady c).To s (s.tookHpDone c b) := by
  unfold State.tookHpDone
  exact .ite ((s.modSeq_steady _ (by exact fun _ h => h)).trans (State.postSeq_steady _ _)) (s.pollAgain_steady _)

theorem State.wroteBreakout_steady : (steady c).To s (s.wroteBreakout c) :=
  ((s.modImage_steady _).trans (State.modSeq_steady _ _ (by exact fun _ h => h))).trans (State.postSeq_steady _ _)

theorem State.enterHostSide_steady : (steady c).To s (s.enterHostSide c) :=
  (s.modSeq_steady _ (by exact fun _ h => h)).trans (State.postTo_steady _ _ _)

theorem State.laneDone_steady (k : Nat) : (steady c).To s (s.laneDone c k) := by
  unfold State.laneDone
  exact .ite ((s.modImage_steady _).trans (State.writeOpen_steady _ _)) (s.modImage_steady _)

theorem State.writeLane_steady (k : Nat) : (steady c).To s (s.writeLane c k) := by
  unfold State.writeLane
  exact .ite (s.postSeq_steady _) s.enterHostSide_steady

theorem State.enterDatapath_steady : (steady c).To s (s.enterDatapath c) := by
  unfold State.enterDatapath
  refine (s.modSeq_steady (fun q =>
    { q with stage := .datapathEnable, timers := { q.timers with hostSide := none } }) fun _ h => h).trans ?_
  dsimp only
  split
  · exact State.postSeq_steady _ _
  · exact State.postSeq_steady _ _

/-- R88, R95: the blanking window opens, and LINK_WAIT, which the cage then enters, keeps it. -/
theorem State.datapathDone_steady : (steady c).To s (s.datapathDone c) := steady_enterLinkWait s (by simp) _

theorem State.learnedLane_steady (k eq : Nat) (b : Byte) : (steady c).To s (s.learnedLane c k eq b) :=
  (s.modSeq_steady _ (by exact fun _ h => h)).trans (State.learnLane_steady _ _)

theorem State.parkAdopted_steady : (steady c).To s (s.parkAdopted c) := by
  unfold State.parkAdopted
  split
  · exact s.parkNow_steady _ _ _
  · exact (steady c).refl s

theorem State.seqOk_steady (a : Access) (data : List Byte) : (steady c).To s (s.seqOk c a data) := by
  cases a with
  | none => exact (steady c).refl s
  | ident => exact s.tookIdent_steady _
  | readyFlag => exact s.tookReady_steady _
  | identity f => exact s.tookField_steady _ _
  | adoptHp => exact (s.modSeq_steady _ (by exact fun _ h => h)).trans (State.postSeq_steady _ _)
  | adoptTx => exact (s.modSeq_steady _ (by exact fun _ h => h)).trans (State.postSeq_steady _ _)
  | adoptBreakout => exact s.adoptDone_steady _
  | txFirst => exact .ite (s.postSeq_steady _) (s.postSeq_steady _)
  | hpWrite => exact s.enterHpSettle_steady
  | hpDone => exact s.tookHpDone_steady _
  | breakout => exact s.wroteBreakout_steady
  | txAll => exact s.writeLane_steady 0
  | laneAmp k => exact (s.laneDone_steady _).trans (State.writeLane_steady _ _)
  | txDisable => exact s.datapathDone_steady
  | learnAmp k eq => exact s.learnedLane_steady _ _ _
  | hpOffWrite => exact s.parkAdopted_steady
  | hpRead | laneEq | squelch | learnEq | hpOffRead => exact s.postSeq_steady _

theorem State.seqNoResponse_steady (a : Access) : (steady c).To s (s.seqNoResponse c a) := by
  cases a with
  | none => exact (steady c).refl s
  | ident | readyFlag | hpDone => exact s.pollAgain_steady _
  | learnEq | learnAmp => exact s.abandonLearning_steady
  | _ => exact s.moduleFault_steady _

theorem State.seqOutcome_steady (o : Ending) : (steady c).To s (s.seqOutcome c o) := by
  unfold State.seqOutcome
  refine (s.modSeq_steady (fun q => { q with access := .none }) fun _ h => h).trans ?_
  cases o with
  | ok data => exact State.seqOk_steady _ _ _
  | noResponse => exact State.seqNoResponse_steady _ _
  | busStuck => exact .ite ((steady c).refl _) (State.moduleFault_steady _ _)
  | absent | state => exact (steady c).refl _

theorem State.pollOutcome_steady (m : FieldMap) (o : Ending) : (steady c).To s (s.pollOutcome c m o) := by
  cases o with
  | ok data => exact s.pollTaken_steady _ _
  | noResponse | busStuck => exact s.pollFailed_steady
  | absent | state => exact (steady c).refl s

/-! ### Items on the bus -/

theorem State.answer_steady (p : Port) (st : ReplyStatus) (data : List Byte) : (steady c).To s (s.answer p st data) :=
  steady_of_cage (s.answer_cage p st data c)

theorem State.handOver_steady (k : Carry) (o : Ending) (h : k.item.cage = c) : (steady c).To s (s.handOver k o) := by
  subst h
  unfold State.handOver
  split
  · exact s.answer_steady _ _ _
  · exact .ite ((steady _).refl s) (s.seqOutcome_steady o)
  · exact .ite ((steady _).refl s) (s.pollOutcome_steady _ o)

theorem State.nextDrainSlot_steady : (steady c).To s (s.nextDrainSlot c) := s.startDrainSlot_steady _

theorem State.drainRelease_steady : (steady c).To s (s.drainRelease c) := by
  unfold State.drainRelease
  exact .ite ((s.disconnect_steady.trans (State.modSeq_steady _ _ (by exact fun _ h => h))).trans
    (.ite (State.nextDrainSlot_steady _) ((steady c).refl _))) ((steady c).refl s)

theorem State.stickPoll_steady : (steady c).To s (s.stickPoll c) := by
  unfold State.stickPoll
  exact .ite ((State.cancel_steady s _ _).trans (State.pollFailed_steady _)) ((steady c).refl s)

theorem State.stickSeq_steady : (steady c).To s (s.stickSeq c) := by
  unfold State.stickSeq
  exact .ite (s.moduleFault_steady _) ((steady c).refl s)

/-! ### Presence -/

theorem State.abortCarried_steady : (steady c).To s (s.abortCarried c) := s.cancel_steady _ _

theorem State.tearDown_steady : (steady c).To s (s.tearDown c) := by
  unfold State.tearDown
  exact (((s.abortCarried_steady.trans (State.endPasses_steady _ _)).trans (State.emptyImage_steady _)).trans
    (State.modSeq_steady _ _ (by exact fun _ h => h))).trans (State.startDrain_steady _ _ _)

theorem State.removedUnpowered_steady : (steady c).To s (s.removedUnpowered c) := by
  unfold State.removedUnpowered
  exact (s.abortCarried_steady.trans (State.emptyImage_steady _)).trans
    (.ite (State.modSeq_steady _ _ (by exact fun _ h => h))
      ((State.withdrawEntry_steady _).trans (State.enterEmpty_steady _)))

theorem State.removed_steady : (steady c).To s (s.removed c) := by
  unfold State.removed
  exact .ite s.tearDown_steady s.removedUnpowered_steady

theorem State.inserted_steady (t : Stamp) : (steady c).To s (s.inserted c t) := by
  unfold State.inserted
  split
  · exact (s.modSeq_steady _ (by exact fun _ h => h)).trans (State.enterAdmit_steady _)
  · exact s.modSeq_steady _ fun _ h => h
  · exact (steady c).refl s

theorem State.accept_steady (k : Candidate) : (steady c).To s (s.accept c k) := by
  unfold State.accept
  exact .ite ((((s.modCiu_steady _).trans (State.modOutage_steady _ _)).trans (State.inserted_steady _ _)).trans
      (State.post_steady _ _))
    ((((s.modCiu_steady _).trans (State.modOutage_steady _ _)).trans (State.removed_steady _)).trans
        (State.post_steady _ _))

theorem State.acceptDue_steady : (steady c).To s (s.acceptDue c) := by
  unfold State.acceptDue
  split
  · exact .ite (s.accept_steady _) ((steady c).refl s)
  · exact (steady c).refl s

theorem State.recordA_steady : (steady c).To s (s.recordA c) := by
  unfold State.recordA
  exact .ite (s.modOutage_steady _) ((steady c).refl s)

theorem State.noticeA_steady (w : Bool) : (steady c).To s (s.noticeA c w) := by
  unfold State.noticeA
  exact .ite (s.post_steady _) ((steady c).refl s)

theorem State.recordB_steady : (steady c).To s (s.recordB c) :=
  (s.modOutage_steady _).trans (State.modSeq_steady _ _ (by exact fun _ h => h))

theorem State.recordC_steady : (steady c).To s (s.recordC c) := by
  unfold State.recordC
  exact .ite (s.modSeq_steady _ (by exact fun _ h => h)) s.recordB_steady

theorem State.drainAdoption_steady (d : Dest) : (steady c).To s (s.drainAdoption c d) := by
  unfold State.drainAdoption
  exact (s.startDrain_steady _ _).trans (State.modTimers_steady _ _)

theorem State.startReading_steady : (steady c).To s (s.startReading c) :=
  (s.modTimers_steady _).trans (State.startIdentPoll_steady _)

theorem State.adopt_steady : (steady c).To s (s.adopt c) := by
  unfold State.adopt
  exact (s.recordC_steady.trans (State.modSeq_steady _ _ (by exact fun _ h => h))).trans
      (.ite (State.startReading_steady _) ((steady c).refl _))

theorem State.adoptionRow_steady (b : Bool) : (steady c).To s (s.adoptionRow c b) := by
  unfold State.adoptionRow
  refine .ite (.ite (s.recordB_steady.trans (State.enterAdmit_steady _))
    (.ite (s.recordB_steady.trans (State.drainAdoption_steady _ _)) s.adopt_steady)) ?_
  exact (s.recordA_steady.trans (.ite (State.drainAdoption_steady _ _) (State.enterEmpty_steady _))).trans
    (State.noticeA_steady _ _)

theorem State.adoptionLate_steady (b : Bool) : (steady c).To s (s.adoptionLate c b) := by
  unfold State.adoptionLate
  exact .ite (s.recordB_steady.trans (.ite (State.closeRecord_steady _ _ _) ((steady c).refl _)))
    ((s.recordA_steady.trans (State.removed_steady _)).trans (State.noticeA_steady _ _))

theorem State.endSettle_steady : (steady c).To s (s.endSettle c) := by
  unfold State.endSettle State.adoptionPresence
  exact (s.modCiu_steady _).trans
    (.ite (State.adoptionRow_steady _ _) ((State.adoptionLate_steady _ _).trans (State.settleBasis_steady _)))

theorem State.latchEdge_steady : (steady c).To s (s.latchEdge c) := by
  unfold State.latchEdge
  refine .ite ?_ ((steady c).refl s)
  split
  · exact (steady c).refl s
  · exact (s.modCiu_steady _).trans (State.offerLatch_steady _)

/-! ### Timed events of the sequencer -/

theorem State.startInit_steady : (steady c).To s (s.startInit c) := s.modTimers_steady _

theorem State.slotSteps_steady (n : Nat) : (steady c).To s (s.slotSteps c n) := by
  unfold State.slotSteps
  exact ((Rel.To.ite s.connect_steady ((steady c).refl s)).trans
      (.ite (State.resetRelease_steady _) ((steady c).refl _))).trans
    (.ite (State.startInit_steady _) ((steady c).refl _))

theorem State.endPowering_steady : (steady c).To s (s.endPowering c) :=
  ((s.enter_steady _ _).trans (State.modTimers_steady _ _)).trans (State.startIdentPoll_steady _)

theorem State.startSlot_steady (n : Nat) : (steady c).To s (s.startSlot c n) := by
  unfold State.startSlot
  exact ((s.modSeq_steady _ (by exact fun _ h => h)).trans (State.slotSteps_steady _ n)).trans
      (.ite (State.endPowering_steady _) ((steady c).refl _))

theorem State.slotOver_steady : (steady c).To s (s.slotOver c) := by
  unfold State.slotOver
  exact .ite (s.modSeq_steady _ (by exact fun _ h => h)) (s.startSlot_steady _)

theorem State.powerGood_steady : (steady c).To s (s.powerGood c) := by
  unfold State.powerGood
  have held :
      (steady c).To s (s.modSeq c fun q => { q with pgHeld := true, timers := { q.timers with pgLimit := none } }) :=
    s.modSeq_steady _ fun _ h => h
  dsimp only
  split
  · exact .ite (held.trans (State.startSlot_steady _ 1)) held
  · exact .ite (held.trans (State.startReading_steady _)) held
  · exact (steady c).refl s

theorem State.adoptionLimit_steady : (steady c).To s (s.adoptionLimit c) :=
  (s.modTimers_steady _).trans (State.powerFault_steady _ _)

theorem State.pollDue_steady : (steady c).To s (s.pollDue c) := (s.modTimers_steady _).trans (State.postSeq_steady _ _)

theorem State.windowOver_steady : (steady c).To s (s.windowOver c) := by
  unfold State.windowOver
  have stopped : (steady c).To s (s.modTimers c fun t => { t with window := none }) := s.modTimers_steady _
  dsimp only
  split
  · exact stopped.trans (State.proceed_steady _ _ _)
  · exact stopped.trans (State.parkFromDecide_steady _ _ _)

theorem State.hostSideOver_steady : (steady c).To s (s.hostSideOver c) :=
  (s.writeOpen_steady _).trans (State.enterDatapath_steady _)

theorem State.pollTimeReached_steady : (steady c).To s (s.pollTimeReached c) := by
  unfold State.pollTimeReached
  exact s.postPoll_steady.trans (State.nextPoll_steady _ fun x => x.map fun t => t.advance s.settings.pollInterval)

/-! ### Feed faults, admissions and requests -/

theorem State.stopFeedClear_steady : (steady c).To s (s.stopFeedClear c) := by
  unfold State.stopFeedClear
  exact .ite (s.modSeq_steady _ (by exact fun _ h => h)) ((steady c).refl s)

theorem State.startFeedClear_steady : (steady c).To s (s.startFeedClear c) := by
  unfold State.startFeedClear
  exact .ite (s.modSeq_steady _ (by exact fun _ h => h)) ((steady c).refl s)

theorem State.feedFault_steady : (steady c).To s (s.feedFault c) := by
  unfold State.feedFault
  exact .ite s.cut_steady s.stopFeedClear_steady

theorem State.neverFit_steady (g : GroupNo) (e : Entry) (h : e.cage = c) : (steady c).To s (s.neverFit g e) := by
  subst h
  unfold State.neverFit
  exact .ite (s.withdrawEntry_steady.trans (State.parkNow_steady _ _ _ _)) ((steady _).refl s)

theorem State.reidentify_steady : (steady c).To s (s.reidentify c) := by
  unfold State.reidentify
  exact (steady_enter (by simp; split <;> simp) _ _).trans
    ((State.modTimers_steady _ _).trans (State.startIdentPoll_steady _))

/-- R113: whatever RESEQUENCE sets, the cage then enters CONFIGURE, which excludes no flag but a learning. -/
theorem State.resequence_steady : (steady c).To s (s.resequence c) :=
  (steady_enter (by simp) _ _).trans (State.postSeq_steady _ _)

theorem State.powerCycle_steady : (steady c).To s (s.powerCycle c) := by
  unfold State.powerCycle
  exact .ite (s.startDrain_steady _ _) (.ite ((steady c).refl s) s.enterAdmit_steady)

theorem State.profileChanged_steady (p : Port) : (steady c).To s (s.profileChanged p c) := by
  unfold State.profileChanged
  exact (s.postTo_steady _ _).trans (.ite (State.decideEval_steady _) ((steady c).refl _))

end Sys2Proof.Machine
end

section
/-! Every command keeps the flags of every context and the range of every profile: what a command does to one cage by
the lemmas on that cage's operations, what it does to the other parts by leaving the cages. -/

namespace Sys2Proof.Machine

/-- `Cage.Keeps` for every cage. -/
def everywhere : Rel where
  R := fun s t => ∀ c, (s.cage c).Keeps (t.cage c)
  refl' := fun s c => (steady c).refl s
  trans' := fun a b c => ((steady c).trans' (a c) (b c) :)

/-- What leaves the cages keeps the contexts and the profiles. -/
theorem everywhere_of_cages {s t : State} (h : ∀ c, t.cage c = s.cage c) : everywhere.To s t := fun c =>
  steady_of_cage (h c)

/-- An operation on one cage keeps every context and profile where it keeps that cage's. -/
theorem State.OnlyCage.everywhere {s t : State} {c : CageNo} (ho : s.OnlyCage t c) (h : (steady c).To s t) :
    everywhere.To s t := by
  intro d
  by_cases hd : d = c
  · subst hd
    exact h
  · exact steady_of_cage (ho.cages d hd)

/-- `everywhere` holds from a state to every next state of an outcome. -/
def EndsSteady (s : State) (o : Out) : Prop := ∀ t, o = .next t → everywhere.To s t

theorem endsSteady_next {s t : State} (h : everywhere.To s t) : EndsSteady s (.next t) := by
  rintro u ⟨⟩
  exact h

section
variable (s : State)

theorem everywhere_each (f : CageNo → State → State) (h : ∀ c s, everywhere.To s (f c s)) (l : List CageNo) :
    everywhere.To s (s.each l f) := by
  induction l generalizing s with
  | nil => exact everywhere.refl s
  | cons c l ih => exact (h c s).trans (ih _)

theorem everywhere_foldl {β : Type} (f : State → β → State) (h : ∀ s b, everywhere.To s (f s b)) (l : List β) :
    everywhere.To s (l.foldl f s) := by
  induction l generalizing s with
  | nil => exact everywhere.refl s
  | cons b l ih => exact (h s b).trans (ih _)

/-! ### Engines -/

theorem State.modBus_everywhere (c : CageNo) (f : Bus → Bus) : everywhere.To s (s.modBus c f) :=
  (s.modBus_only c f).everywhere (s.modBus_steady f)

theorem State.modEngine_everywhere (e : EngineNo) (f : Engine → Engine) : everywhere.To s (s.modEngine e f) :=
  everywhere_of_cages fun _ => rfl

theorem State.startItem_everywhere (e : EngineNo) (i : Item) : everywhere.To s (s.startItem e i) := by
  unfold State.startItem
  exact (s.modEngine_everywhere e _).trans (State.modBus_everywhere _ _ _)

theorem State.chooseNext_everywhere (e : EngineNo) : everywhere.To s (s.chooseNext e) := by
  unfold State.chooseNext
  split
  · exact everywhere.refl s
  · split
    · exact s.startItem_everywhere e _
    · exact everywhere.refl s

theorem State.answer_everywhere (p : Port) (st : ReplyStatus) (data : List Byte) :
    everywhere.To s (s.answer p st data) := everywhere_of_cages (s.answer_cage p st data)

theorem State.modCarry_everywhere (e : EngineNo) (f : Carry → Carry) : everywhere.To s (s.modCarry e f) :=
  s.modEngine_everywhere e _

theorem State.putDown_everywhere (e : EngineNo) (k : Carry) (o : Ending) : everywhere.To s (s.putDown e k o) := by
  unfold State.putDown
  exact (s.modEngine_everywhere e _).trans (State.modBus_everywhere _ _ _)

theorem State.handOver_everywhere (k : Carry) (o : Ending) : everywhere.To s (s.handOver k o) := by
  cases hw : k.item.who with
  | port p =>
    simp only [State.handOver, hw]
    exact s.answer_everywhere p _ _
  | seq => exact ((only k.item.cage).handOver s k o rfl (by simp [hw])).everywhere (s.handOver_steady k o rfl)
  | poll => exact ((only k.item.cage).handOver s k o rfl (by simp [hw])).everywhere (s.handOver_steady k o rfl)

theorem State.drainRelease_everywhere (c : CageNo) : everywhere.To s (s.drainRelease c) :=
  ((only c).drainRelease s).everywhere s.drainRelease_steady

theorem State.endItem_everywhere (e : EngineNo) (o : Ending) : everywhere.To s (s.endItem e o) := by
  unfold State.endItem
  split
  · exact everywhere.refl s
  · exact ((s.putDown_everywhere _ _ _).trans (State.handOver_everywhere _ _ _)).trans
      (State.drainRelease_everywhere _ _)

theorem State.burstsDone_everywhere (e : EngineNo) (k : Carry) : everywhere.To s (s.burstsDone e k) := by
  unfold State.burstsDone
  split
  · exact s.modCarry_everywhere e _
  · exact s.endItem_everywhere e _

theorem State.burstDone_everywhere (e : EngineNo) (k : Carry) (data : List Byte) :
    everywhere.To s (s.burstDone e k data) := by
  unfold State.burstDone
  exact .ite (.ite (s.modCarry_everywhere e _) (s.modCarry_everywhere e _))
    ((s.modCarry_everywhere e _).trans (State.burstsDone_everywhere _ e _))

theorem State.transactionDone_everywhere (e : EngineNo) (data : List Byte) :
    everywhere.To s (s.transactionDone e data) := by
  unfold State.transactionDone
  split
  · exact everywhere.refl s
  · refine .ite (.ite (s.endItem_everywhere e _) ?_) (everywhere.refl s)
    split
    · exact (s.modBus_everywhere _ _).trans (State.modCarry_everywhere _ e _)
    · exact .ite (s.burstDone_everywhere e _ data) (everywhere.refl s)
    · exact s.endItem_everywhere e _

theorem State.transactionFailed_everywhere (e : EngineNo) (k : Carry) : everywhere.To s (s.transactionFailed e k) := by
  unfold State.transactionFailed
  split
  · exact (s.endItem_everywhere e _).trans (State.modBus_everywhere _ _ _)
  · exact s.endItem_everywhere e _
  · exact s.endItem_everywhere e _

theorem State.addressNacked_everywhere (e : EngineNo) : everywhere.To s (s.addressNacked e) := by
  unfold State.addressNacked
  split
  · exact everywhere.refl s
  · exact .ite (.ite (s.endItem_everywhere e _) (.ite (s.transactionFailed_everywhere e _) (s.modCarry_everywhere e _)))
      (everywhere.refl s)

theorem State.retryBurst_everywhere (e : EngineNo) : everywhere.To s (s.retryBurst e) := by
  unfold State.retryBurst
  split
  · exact everywhere.refl s
  · split
    · exact everywhere.refl s
    · exact .ite (.ite (s.endItem_everywhere e _) (s.modCarry_everywhere e _)) (everywhere.refl s)

theorem State.dataNacked_everywhere (e : EngineNo) : everywhere.To s (s.dataNacked e) := by
  unfold State.dataNacked
  split
  · exact everywhere.refl s
  · exact .ite (.ite (s.endItem_everywhere e _) (s.transactionFailed_everywhere e _)) (everywhere.refl s)

theorem State.stick_everywhere (e : EngineNo) : everywhere.To s (s.stick e) := by
  unfold State.stick
  split
  · exact everywhere.refl s
  · next k _ =>
    split
    · exact everywhere.refl s
    · refine .ite ?_ (everywhere.refl s)
      refine (((s.putDown_everywhere e k .busStuck).trans (State.modBus_everywhere _ k.item.cage fun b =>
        { b with seg := .stuck, recovery := true })).trans (State.handOver_everywhere _ k .busStuck)).trans ?_
      exact State.OnlyCage.everywhere (c := k.item.cage)
        (((((only _).endPasses _ _).trans ((only _).stickPoll _)).trans ((only _).stickSeq _)).trans
          ((only _).drainRelease _))
        ((((State.endPasses_steady _ _).trans (State.stickPoll_steady _)).trans (State.stickSeq_steady _)).trans
          (State.drainRelease_steady _))

theorem State.endAtBoundary_everywhere (e : EngineNo) : everywhere.To s (s.endAtBoundary e) := by
  unfold State.endAtBoundary
  split
  · exact everywhere.refl s
  · exact .ite (s.endItem_everywhere e _) (everywhere.refl s)

theorem State.holdOver_everywhere (c : CageNo) : everywhere.To s (s.holdOver c) := by
  unfold State.holdOver State.resumeWrite
  refine (s.modBus_everywhere c fun b => { b with hold := if dueTimer b.hold s.now then none else b.hold }).trans ?_
  dsimp only
  split
  · exact everywhere.refl _
  · exact .ite (.ite (State.endItem_everywhere _ _ _) (State.modCarry_everywhere _ _ _)) (everywhere.refl _)

/-! ### The end of a step -/

theorem State.takeHead_everywhere (g : GroupNo) : everywhere.To s (s.takeHead g) := everywhere_of_cages fun _ => rfl

theorem State.grantLow_everywhere (g : GroupNo) (c : CageNo) : everywhere.To s (s.grantLow g c) := by
  unfold State.grantLow
  refine (s.takeHead_everywhere g).trans (State.OnlyCage.everywhere (c := c) ?_ ?_)
  · exact (((((only c).setCharge _ _).trans ((only c).modSeq _ _)).trans ((only c).enter _ _ _)).trans
      ((only c).railOn _)).trans ((only c).lpAssert _)
  · exact ((((State.setCharge_steady _ _).trans (State.modSeq_steady _ _ (by exact fun _ h => h))).trans
      (State.enter_steady _ _ _)).trans
      (State.railOn_steady _)).trans (State.lpAssert_steady _)

theorem State.grantHigh_everywhere (g : GroupNo) (c : CageNo) (n : Nat) : everywhere.To s (s.grantHigh g c n) := by
  unfold State.grantHigh
  refine (s.takeHead_everywhere g).trans (State.OnlyCage.everywhere (c := c) ?_ ?_)
  · exact ((((only c).setCharge _ _).trans ((only c).lpRelease _)).trans ((only c).enter _ _ _)).trans
      ((only c).postSeq _ _)
  · exact (((State.setCharge_steady _ _).trans (State.lpRelease_steady _)).trans (State.enter_steady _ _ _)).trans
      (State.postSeq_steady _ _)

theorem State.settle_everywhere : everywhere.To s s.settle := by
  refine Rel.To.trans (t := s.pauTest) ?_ (everywhere_foldl _ _ State.chooseNext_everywhere _)
  unfold State.pauTest State.grant
  split
  · split
    · exact s.grantLow_everywhere _ _
    · exact s.grantHigh_everywhere _ _ _
  · exact everywhere.refl s

/-! ### Outcomes -/

variable {s}

theorem endsSteady_event {f : State → State} (h : everywhere.To s (f s)) : EndsSteady s (event s f) :=
  endsSteady_next (.ite (everywhere.refl s) h)

theorem endsSteady_act {f : State → State} (h : everywhere.To s (f s)) : EndsSteady s (act s f) :=
  endsSteady_event (h.trans (State.settle_everywhere _))

theorem endsSteady_expiry {g : Bool} {f : State → State} (h : everywhere.To s (f s)) : EndsSteady s (expiry s g f) := by
  unfold Machine.expiry
  split
  · exact endsSteady_act h
  · exact endsSteady_next (everywhere.refl s)

/-- An expiry that is an operation on one cage. -/
theorem endsSteady_expiryAt {g : Bool} {f : State → State} {c : CageNo} (ho : s.OnlyCage (f s) c)
    (h : (steady c).To s (f s)) : EndsSteady s (expiry s g f) := endsSteady_expiry (ho.everywhere h)

/-! ### Requests -/

theorem State.overrun_everywhere (s : State) (p : Port) : everywhere.To s (s.overrun p) :=
  everywhere_of_cages fun c => by simp [State.overrun, State.postDeviceTo]

theorem State.take_everywhere (s : State) (p : Port) (a b : Byte) (raw : List Byte) :
    everywhere.To s (s.take p a b raw) := everywhere_of_cages (s.take_cage p a b raw)

theorem State.serve_everywhere {q : Req} {sh : Shape} {f : State → State} (h : ∀ s, everywhere.To s (f s)) :
    everywhere.To s (s.serve q sh f) := by
  unfold State.serve
  exact .ite (s.overrun_everywhere _) ((s.take_everywhere _ _ _ _).trans
    (.ite (State.answer_everywhere _ _ _ _) (.ite (State.answer_everywhere _ _ _ _) (h _))))

theorem endsSteady_serve {q : Req} {sh : Shape} {f : State → State} (h : ∀ s, everywhere.To s (f s)) :
    EndsSteady s (event s fun s => s.serve q sh f) := endsSteady_event (State.serve_everywhere h)

theorem endsSteady_serveCage {q : Req} {sh : Shape} {f : CageNo → State → State} (h : ∀ c s, everywhere.To s (f c s)) :
    EndsSteady s (event s fun s => s.serveCage q sh f) :=
  endsSteady_serve fun s => by
    split
    · exact h _ s
    · exact s.answer_everywhere _ _ _

theorem endsSteady_serveGroup {q : Req} {sh : Shape} {f : GroupNo → State → State}
    (h : ∀ g s, everywhere.To s (f g s)) :
    EndsSteady s (event s fun s => s.serveGroup q sh f) :=
  endsSteady_serve fun s => by
    split
    · exact h _ s
    · exact s.answer_everywhere _ _ _

theorem endsSteady_serveEntry {q : Req} {sh : Shape} {f : Fin 8 → State → State} (h : ∀ i s, everywhere.To s (f i s)) :
    EndsSteady s (event s fun s => s.serveEntry q sh f) :=
  endsSteady_serve fun s => by
    split
    · exact h _ s
    · exact s.answer_everywhere _ _ _

/-- A request that only reads. -/
theorem endsSteady_reads {q : Req} {sh : Shape} {st : ReplyStatus} {data : CageNo → State → List Byte} :
    EndsSteady s (event s fun s => s.serveCage q sh fun c s => s.answer q.port st (data c s)) :=
  endsSteady_serveCage fun _ s => s.answer_everywhere _ _ _

variable (s)

theorem State.done_everywhere (p : Port) (st : ReplyStatus) (data : List Byte) : everywhere.To s (s.done p st data) :=
  (s.answer_everywhere p st data).trans (State.settle_everywhere _)

/-- An operation on a cage and its answer. -/
theorem everywhere_doneAt {s t : State} {c : CageNo} (ho : s.OnlyCage t c) (h : (steady c).To s t) (p : Port)
    (st : ReplyStatus) (data : List Byte) : everywhere.To s (t.done p st data) :=
  (ho.everywhere h).trans (t.done_everywhere p st data)

theorem State.clearFault_everywhere (p : Port) (c : CageNo) : everywhere.To s (s.clearFault p c) := by
  unfold State.clearFault
  exact .ite (.ite (s.answer_everywhere _ _ _) (everywhere_doneAt ((only c).readmit s) s.readmit_steady _ _ _))
    (.ite (everywhere_doneAt ((only c).startDrain s _ _) (s.startDrain_steady _ _) _ _ _) (s.answer_everywhere _ _ _))

theorem State.postPass_everywhere (i : Item) : everywhere.To s (s.postPass i) :=
  Rel.To.trans (t := s.addItem i) (everywhere_of_cages fun _ => rfl) (State.settle_everywhere _)

theorem State.moduleRead_everywhere (p : Port) (body : List Byte) (c : CageNo) :
    everywhere.To s (s.moduleRead p body c) := by
  unfold State.moduleRead
  exact .ite (s.answer_everywhere _ _ _) (.ite (s.answer_everywhere _ _ _) (.ite (s.answer_everywhere _ _ _)
    (.ite (s.answer_everywhere _ _ _) (.ite (s.answer_everywhere _ _ _) (s.postPass_everywhere _)))))

theorem State.moduleWrite_everywhere (p : Port) (body : List Byte) (c : CageNo) :
    everywhere.To s (s.moduleWrite p body c) := by
  unfold State.moduleWrite
  exact .ite (s.answer_everywhere _ _ _) (.ite (s.answer_everywhere _ _ _) (.ite (s.answer_everywhere _ _ _)
    (.ite (s.answer_everywhere _ _ _) (s.postPass_everywhere _))))

theorem State.resume_everywhere (c : CageNo) : everywhere.To s (s.resume c) :=
  ((only c).resume s).everywhere s.resume_steady

theorem State.loadMap_everywhere (p : Port) (body : List Byte) (i : Fin 8) : everywhere.To s (s.loadMap p body i) := by
  unfold State.loadMap
  split
  · exact s.answer_everywhere _ _ _
  · refine .ite (s.answer_everywhere _ _ _) (.ite (s.answer_everywhere _ _ _) (.ite (s.answer_everywhere _ _ _) ?_))
    refine Rel.To.trans ?_ (State.done_everywhere _ _ _ _)
    unfold State.storeMap
    refine Rel.To.trans ?_ (everywhere_each _ _ (fun c s => s.resume_everywhere c) _)
    exact everywhere_of_cages fun _ => rfl

theorem State.overcommit_everywhere (g : GroupNo) : everywhere.To s (s.overcommit g) := fun _ => s.overcommit_steady g

theorem State.setBudget_everywhere (p : Port) (body : List Byte) (g : GroupNo) :
    everywhere.To s (s.setBudget p body g) := by
  unfold State.setBudget State.changeBudget
  refine Rel.To.trans ?_ (State.done_everywhere _ _ _ _)
  refine Rel.To.trans (t := s.modGroup g fun x => { x with budget := (storeBudget (num16 body 0)).1 })
    (everywhere_of_cages fun _ => rfl) ?_
  refine Rel.To.trans ?_ ((everywhere_each _ _ (fun c s => s.resume_everywhere c) _).trans
    (State.overcommit_everywhere _ g))
  exact everywhere_foldl _ _ (fun s e => ((only e.cage).neverFit s g e rfl).everywhere (s.neverFit_steady g e rfl)) _

theorem State.fetch_everywhere (p : Port) : everywhere.To s (s.fetch p) := by
  unfold State.fetch
  split
  · exact s.answer_everywhere _ _ _
  · exact Rel.To.trans (everywhere_of_cages fun c => by simp) (State.answer_everywhere _ _ _ _)

end

end Sys2Proof.Machine
end

section
/-! The step of the part keeps the flags of every context and the range of every profile: resets, the rail monitor,
the link stream and the requests that write profiles, and with them every command. -/

namespace Sys2Proof.Machine

/-! ### Profiles written and invalidated (R28 to R31) -/

theorem num16_le (b : List Byte) (n : Nat) : num16 b n ≤ 65535 := by
  have h : ∀ k, num8 b k < 256 := fun k => (byteAt b k).isLt
  have h0 := h n
  have h1 := h (n + 1)
  unfold num16
  omega

theorem length_of_mapM {α β : Type} {f : α → Option β} {l : List α} {r : List β} (h : l.mapM f = some r) :
    r.length = l.length := by
  induction l generalizing r with
  | nil => simp_all
  | cons a l ih =>
    simp only [List.mapM_cons, Option.bind_eq_bind, Option.bind_eq_some_iff, Option.pure_def, Option.some.injEq] at h
    obtain ⟨x, -, xs, hxs, rfl⟩ := h
    simp [ih hxs]

/-- R28 check 1: what a profile record as written meets before its numbers are held to their ranges. -/
structure Profile.Written (p : Profile) : Prop where
  slots : p.slots.legal = true
  breakout : p.breakout = 1 ∨ p.breakout = 2 ∨ p.breakout = 4 ∨ p.breakout = 8
  blank : p.blankStart ≤ 65535 ∧ p.blankStop ≤ 65535
  lanes : p.lanes.length = 8
  tuned : ∀ l, p.tuned = some l → p.lastUnit ≠ none ∧ l.length = 8

theorem Profile.Written.of_profileOf {b : List Byte} {p : Profile} (h : profileOf b = some p) : p.Written := by
  simp only [profileOf, Option.bind_eq_bind, Option.bind_eq_some_iff] at h
  obtain ⟨policy, -, fallback, -, learn, -, breakout, hbreakout, lanes, hlanes, unit, -, tuned, -, h⟩ := h
  split at h
  · next hc =>
    obtain ⟨hlegal, hunit⟩ := Bool.and_eq_true_iff.mp hc
    cases h
    refine ⟨hlegal, ?_, ⟨num16_le _ _, num16_le _ _⟩, by simpa using length_of_mapM hlanes, fun l hl => ?_⟩
    · unfold breakoutField at hbreakout
      split at hbreakout
      · next hb => cases hbreakout; exact hb
      · cases hbreakout
    · cases tuned <;> simp [tunedOf] at hl
      cases unit <;> simp at hunit
      exact ⟨by simp, by simp [← hl]⟩
  · cases h

theorem clampNat_mem {lo hi : Nat} (h : lo ≤ hi) (n : Nat) : lo ≤ clampNat lo hi n ∧ clampNat lo hi n ≤ hi := by
  unfold clampNat
  omega

/-- R29: a record as written is in range once its numbers are clamped. -/
theorem Profile.Written.clamp_inRange {p : Profile} (h : p.Written) : p.clamp.InRange := by
  refine ⟨h.slots, clampNat_mem (by decide) _, h.breakout, clampNat_mem (by decide) _, Nat.min_le_left _ _,
    Nat.min_le_left _ _, clampNat_mem (by decide) _, Nat.min_le_left _ _, clampNat_mem (by decide) _,
    clampNat_mem (by decide) _, Nat.min_le_left _ _, Nat.min_le_left _ _, h.blank.1, h.blank.2,
    by simpa [Profile.clamp] using h.lanes, fun e he => ?_, fun l hl => ?_, fun u hu => ?_⟩
  · obtain ⟨x, -, rfl⟩ := List.mem_map.mp he
    simp only [LaneEntry.InRange, LaneEntry.clamp]
    omega
  · obtain ⟨x, hx, rfl⟩ := Option.map_eq_some_iff.mp hl
    obtain ⟨hunit, hlen⟩ := h.tuned x hx
    refine ⟨by simpa [Profile.clamp] using hunit, by simpa using hlen, fun e he => ?_⟩
    obtain ⟨y, -, rfl⟩ := List.mem_map.mp he
    exact ⟨Nat.min_le_left _ _, Nat.min_le_left _ _⟩
  · obtain ⟨x, -, rfl⟩ := Option.map_eq_some_iff.mp hu
    exact Nat.min_le_left _ _

/-- R30: the profile that a write stores. -/
theorem Profile.Written.replace_holds {p : Profile} (h : p.Written) (old : Profile) : (old.replace p.clamp).Holds :=
  ⟨h.clamp_inRange, fun hv => by cases hv⟩

/-- R31: the profile that an invalidation leaves. -/
theorem Profile.invalidate_holds (old : Profile) : old.invalidate.Holds := ⟨builtinProfile_inRange, fun _ => rfl⟩

section
variable (s : State)

theorem State.writeProfile_everywhere (p : Port) (body : List Byte) (c : CageNo) :
    everywhere.To s (s.writeProfile p body c) := by
  unfold State.writeProfile
  split
  · exact s.answer_everywhere _ _ _
  · next new hnew =>
    have stored : everywhere.To s (s.modProfile c fun old => old.replace new.clamp) := by
      refine (s.modCage_only c _).everywhere (steady_modProfile (f := fun old => old.replace new.clamp) fun _ => ?_)
      exact (Profile.Written.of_profileOf hnew).replace_holds _
    exact .ite (s.answer_everywhere _ _ _) (.ite (s.answer_everywhere _ _ _)
      (stored.trans (everywhere_doneAt ((only c).profileChanged _ p) (State.profileChanged_steady _ p) _ _ _)))

theorem State.invalidate_everywhere (p : Port) (body : List Byte) (c : CageNo) :
    everywhere.To s (s.invalidate p body c) := by
  unfold State.invalidate
  have stored : everywhere.To s (s.modProfile c Profile.invalidate) :=
    (s.modCage_only c _).everywhere (steady_modProfile (f := Profile.invalidate) fun _ => Profile.invalidate_holds _)
  exact .ite (s.answer_everywhere _ _ _) (.ite (s.answer_everywhere _ _ _)
    (stored.trans (everywhere_doneAt ((only c).profileChanged _ p) (State.profileChanged_steady _ p) _ _ _)))

/-! ### Resets (R186) -/

theorem State.poweredOn_everywhere : everywhere.To s s.poweredOn := fun c => by
  rw [s.poweredOn_cage]
  exact ⟨fun _ => Ctx.clear_flagsHold _, fun _ => builtinProfile_holds⟩

theorem State.assertReset_everywhere : everywhere.To s s.assertReset := fun c => by
  rw [s.assertReset_cage]
  exact ⟨fun _ => Ctx.clear_flagsHold _, id⟩

theorem State.releaseReset_everywhere (cause : ResetCause) : everywhere.To s (s.releaseReset cause) := by
  rw [s.releaseReset_eq cause]
  have based : everywhere.To s (s.releaseBase cause) := fun c => by
    rw [s.releaseBase_cage]
    exact ⟨fun _ => Ctx.clear_flagsHold _, id⟩
  have held : everywhere.To s (s.releaseHeld cause) :=
    based.trans (everywhere_foldl _ _ State.overcommit_everywhere _)
  refine held.trans (everywhere_each _ _ (fun c s => ?_) _)
  unfold State.releaseCut
  exact .ite (((only c).cut s).everywhere s.cut_steady) (everywhere.refl s)

/-! ### The rail monitor and the link stream -/

theorem State.modRlm_everywhere (c : CageNo) (f : Rlm → Rlm) : everywhere.To s (s.modRlm c f) :=
  (s.modRlm_only c f).everywhere (s.modRlm_steady f)

theorem State.evaluatePair_everywhere (c : CageNo) (vc ic : BitVec 10) : everywhere.To s (s.evaluatePair c vc ic) := by
  unfold State.evaluatePair
  dsimp only
  generalize (s.cage c).rlm.judge vc (pairPower vc ic) (s.profile c).overdraw = j
  refine (s.modRlm_everywhere c fun _ => j.rlm).trans ?_
  generalize (s.modRlm c fun _ => j.rlm) = s1
  have taken : everywhere.To s1 (if j.good then s1.powerGood c else s1) :=
    .ite (((only c).powerGood _).everywhere (State.powerGood_steady _)) (everywhere.refl _)
  refine taken.trans ?_
  generalize (if j.good then s1.powerGood c else s1) = s2
  split
  · exact ((only c).powerFault _ _).everywhere (State.powerFault_steady _ _)
  · exact everywhere.refl _

theorem State.advanceScan_everywhere : everywhere.To s s.advanceScan :=
  Rel.To.trans (t := { s with scanCage := nextCage s.scanCage }) (everywhere_of_cages fun _ => rfl)
    ((State.modCage_only _ _ _).everywhere (steady_same (by simp)))

theorem State.pairDone_everywhere (vc ic : BitVec 10) : everywhere.To s (s.pairDone vc ic) := by
  unfold State.pairDone
  refine ((s.modRlm_everywhere s.scanCage fun r => r.latest vc ic).trans ?_).trans (State.advanceScan_everywhere _)
  exact .ite (State.evaluatePair_everywhere _ _ _ _) (everywhere.refl _)

theorem State.evalLinks_everywhere (l : List CageNo) : everywhere.To s (s.each l fun c s => s.evalLink c) :=
  everywhere_each _ _ (fun c s => ((only c).evalLink s).everywhere s.evalLink_steady) _

theorem State.lsr_everywhere (l : Lsr) : everywhere.To s { s with lsr := l } := everywhere_of_cages fun _ => rfl

theorem State.postDevice_everywhere (k : DeviceKind) : everywhere.To s (s.postDevice k) :=
  everywhere_of_cages fun _ => rfl

theorem State.frameClosed_everywhere (run : List Bool) : everywhere.To s (s.frameClosed run) := by
  unfold State.frameClosed
  refine .ite (.ite ?_ ?_) (everywhere.refl _)
  · exact (s.lsr_everywhere _).trans (State.evalLinks_everywhere _ _)
  · exact ((s.lsr_everywhere _).trans (State.postDevice_everywhere _ _)).trans (State.evalLinks_everywhere _ _)

theorem State.marker_everywhere (bits : List Bool) : everywhere.To s (s.marker bits) := by
  unfold State.marker
  refine (s.lsr_everywhere { s.lsr with reception := some [] }).trans ?_
  dsimp only
  split
  · exact everywhere.refl _
  · exact State.frameClosed_everywhere _ _

theorem State.streamLost_everywhere : everywhere.To s s.streamLost :=
  ((s.lsr_everywhere _).trans (State.postDevice_everywhere _ _)).trans (State.evalLinks_everywhere _ _)

/-! ### Feeds and settings -/

theorem endsSteady_feedChange {g : GroupNo} {b : Bool} {f : State → State} (h : ∀ s, everywhere.To s (f s)) :
    EndsSteady s (feedChange g b f s) := by
  have moved : everywhere.To s (s.modGroup g fun x => { x with feedPin := b }) := everywhere_of_cages fun _ => rfl
  unfold Machine.feedChange
  dsimp only
  split
  · exact endsSteady_next (everywhere.refl s)
  · split
    · exact endsSteady_next moved
    · exact endsSteady_next ((moved.trans (h _)).trans (State.settle_everywhere _))

theorem State.setTiming_everywhere (q : Req) (sel lo hi step : Nat) {f : Nat → State → State}
    (h : ∀ v s, everywhere.To s (f v s)) : everywhere.To s (s.setTiming q sel lo hi step f) :=
  (h _ s).trans (State.done_everywhere _ _ _ _)

theorem endsSteady_setTiming {q : Req} {sh : Shape} {sel lo hi step : Nat} {f : Nat → State → State}
    (h : ∀ v s, everywhere.To s (f v s)) :
    EndsSteady s (event s fun s => s.serve q sh fun s => s.setTiming q sel lo hi step f) :=
  endsSteady_serve fun s => s.setTiming_everywhere q sel lo hi step h

/-! ### Every command -/

/-- Every command keeps the flags of every context and the range of every profile. -/
theorem exec_endsSteady (i : Instr) : EndsSteady s (exec i s) := by
  cases i <;> unfold exec <;> dsimp only
  case powerOn => exact endsSteady_next s.poweredOn_everywhere
  case resetPinAssert =>
    exact endsSteady_next (.ite (everywhere.refl s)
      (s.assertReset_everywhere.trans (everywhere_of_cages fun _ => rfl)))
  case resetPinRelease =>
    refine endsSteady_next (.ite ?_ (everywhere.refl s))
    refine Rel.To.trans (t := { s with inReset := false }) (everywhere_of_cages fun _ => rfl) ?_
    exact (State.releaseReset_everywhere _ _).trans (State.settle_everywhere _)
  case restart q =>
    exact endsSteady_serve fun s =>
      (s.assertReset_everywhere.trans (State.releaseReset_everywhere _ _)).trans (State.settle_everywhere _)
  case presentLineChange c l =>
    have moved : ∀ f, everywhere.To s (s.modCiu c f) := fun f => (s.modCiu_only c f).everywhere (s.modCiu_steady f)
    exact endsSteady_next (.ite (everywhere.refl s) (.ite (moved _) (moved _)))
  case candidateAccepted c =>
    unfold execCandidateAccepted
    split
    · exact endsSteady_act (((only c).acceptDue s).everywhere s.acceptDue_steady)
    · exact endsSteady_next (everywhere.refl s)
  case settleIntervalEnd c =>
    unfold execSettleIntervalEnd
    split
    · exact endsSteady_act (((only c).endSettle s).everywhere s.endSettle_steady)
    · exact endsSteady_next (everywhere.refl s)
  case attentionEdge c l =>
    have moved : everywhere.To s (s.modCiu c fun k => { k with attentionPin := l }) :=
      (s.modCiu_only c _).everywhere (s.modCiu_steady _)
    unfold execAttentionEdge
    dsimp only
    split
    · exact endsSteady_next moved
    · split
      · exact endsSteady_next ((moved.trans (((only c).latchEdge _).everywhere (State.latchEdge_steady _))).trans
          (State.settle_everywhere _))
      · exact endsSteady_next moved
  case lowPowerGrant g =>
    unfold execLowPowerGrant
    split
    · exact endsSteady_act (s.grantLow_everywhere _ _)
    · exact endsSteady_next (everywhere.refl s)
  case highPowerGrant g =>
    unfold execHighPowerGrant
    split
    · exact endsSteady_act (s.grantHigh_everywhere _ _ _)
    · exact endsSteady_next (everywhere.refl s)
  case spacingBoundReached => exact endsSteady_event s.settle_everywhere
  case inrushRecordLapse r =>
    cases r with
    | none => exact endsSteady_next (everywhere_of_cages fun _ => rfl)
    | some g => exact endsSteady_next (everywhere_of_cages fun _ => rfl)
  case groupFeedFaultActive g =>
    exact endsSteady_feedChange s fun s => Rel.To.trans (everywhere_of_cages fun _ => rfl)
      (everywhere_each (s.modGroup g fun x => { x with feedActive := true }) _
        (fun c s => ((only c).feedFault s).everywhere s.feedFault_steady) _)
  case groupFeedFaultInactive g =>
    exact endsSteady_feedChange s fun s => Rel.To.trans (everywhere_of_cages fun _ => rfl)
      (everywhere_each (s.modGroup g fun x => { x with feedActive := false }) _
        (fun c s => ((only c).startFeedClear s).everywhere s.startFeedClear_steady) _)
  case bringUpSlotStart c => exact endsSteady_expiryAt ((only c).slotOver s) s.slotOver_steady
  case powerGoodLimitExpiry c => exact endsSteady_expiryAt ((only c).powerFault s _) (s.powerFault_steady _)
  case adoptionPgLimitExpiry c => exact endsSteady_expiryAt ((only c).adoptionLimit s) s.adoptionLimit_steady
  case seqPollTimerExpiry c => exact endsSteady_expiryAt ((only c).pollDue s) s.pollDue_steady
  case initTimerExpiry c => exact endsSteady_expiryAt ((only c).moduleFault s _) (s.moduleFault_steady _)
  case adoptionInitTimeout c => exact endsSteady_expiryAt ((only c).moduleFault s _) (s.moduleFault_steady _)
  case decisionWindowExpiry c => exact endsSteady_expiryAt ((only c).windowOver s) s.windowOver_steady
  case hpSettleTimeout c => exact endsSteady_expiryAt ((only c).moduleFault s _) (s.moduleFault_steady _)
  case hostSideWindowExpiry c => exact endsSteady_expiryAt ((only c).hostSideOver s) s.hostSideOver_steady
  case linkTimerExpiry c => exact endsSteady_expiryAt ((only c).linkExpired s) s.linkExpired_steady
  case blankingWindowEnd c =>
    refine endsSteady_event ?_
    split
    · exact .ite ((s.modSeq_only c _).everywhere
        (s.modSeq_steady _ fun _ h => ⟨fun hq => ⟨rfl, (h.1 hq).2⟩, h.2⟩)) (everywhere.refl s)
    · exact everywhere.refl s
  case drainSlotStart c => exact endsSteady_expiryAt ((only c).nextDrainSlot s) s.nextDrainSlot_steady
  case drainEnd c => exact endsSteady_expiryAt ((only c).endDrain s) s.endDrain_steady
  case feedClearTimerExpiry c => exact endsSteady_expiryAt ((only c).readmit s) s.readmit_steady
  case readProfile | readStatus | readImageIdentity | readImageApplied | readImageStatus | readOutage
    | decideBadDecision | resetCageBadScope | readImageBadSection => exact endsSteady_reads
  case writeProfile q => exact endsSteady_serveCage fun c s => s.writeProfile_everywhere _ _ c
  case invalidateProfile q => exact endsSteady_serveCage fun c s => s.invalidate_everywhere _ _ c
  case decideRestore q =>
    exact endsSteady_serveCage fun c s => .ite (.ite (everywhere_doneAt ((only c).proceed s _ _)
        (s.proceed_steady _ _) _ _ _)
      (s.answer_everywhere _ _ _)) (s.answer_everywhere _ _ _)
  case decideAdoptNew q =>
    exact endsSteady_serveCage fun c s => .ite (everywhere_doneAt ((only c).proceed s _ _) (s.proceed_steady _ _) _ _ _)
      (s.answer_everywhere _ _ _)
  case decidePark q =>
    exact endsSteady_serveCage fun c s =>
      .ite (everywhere_doneAt ((only c).parkFromDecide s _ _) (s.parkFromDecide_steady _ _) _ _ _)
        (s.answer_everywhere _ _ _)
  case release q =>
    exact endsSteady_serveCage fun c s => .ite (everywhere_doneAt ((only c).resume s) s.resume_steady _ _ _)
      (s.answer_everywhere _ _ _)
  case hostSideDone q =>
    exact endsSteady_serveCage fun c s =>
      .ite (everywhere_doneAt ((only c).enterDatapath s) s.enterDatapath_steady _ _ _) (s.answer_everywhere _ _ _)
  case clearFault q => exact endsSteady_serveCage fun c s => s.clearFault_everywhere _ c
  case resetCageResequence q =>
    exact endsSteady_serveCage fun c s => .ite (everywhere_doneAt ((only c).resequence s) s.resequence_steady _ _ _)
      (s.answer_everywhere _ _ _)
  case resetCageReidentify q =>
    exact endsSteady_serveCage fun c s => .ite (everywhere_doneAt ((only c).reidentify s) s.reidentify_steady _ _ _)
      (s.answer_everywhere _ _ _)
  case resetCagePowerCycle q =>
    exact endsSteady_serveCage fun c s => .ite (everywhere_doneAt ((only c).powerCycle s) s.powerCycle_steady _ _ _)
      (s.answer_everywhere _ _ _)
  case readGroup q => exact endsSteady_serveGroup fun _ s => s.answer_everywhere _ _ _
  case moduleRead q => exact endsSteady_serveCage fun c s => s.moduleRead_everywhere _ _ c
  case moduleWrite q => exact endsSteady_serveCage fun c s => s.moduleWrite_everywhere _ _ c
  case loadFieldMap q => exact endsSteady_serveEntry fun i s => s.loadMap_everywhere _ _ i
  case readFieldMap q => exact endsSteady_serveEntry fun _ s => s.answer_everywhere _ _ _
  case fetchAttention q => exact endsSteady_serve fun s => s.fetch_everywhere _
  case setMask q =>
    exact endsSteady_serve fun s => Rel.To.trans (everywhere_of_cages fun c => by simp)
        (State.answer_everywhere _ _ _ _)
  case setBudget q => exact endsSteady_serveGroup fun g s => s.setBudget_everywhere _ _ g
  case setTimingDeviceSpacing | setTimingGroupSpacing | setTimingPollInterval | setTimingReseatWindow =>
    exact endsSteady_setTiming s fun _ _ => everywhere_of_cages fun _ => rfl
  case setTimingDebounceTime q =>
    exact endsSteady_setTiming s fun v s => Rel.To.trans (everywhere_of_cages fun _ => rfl)
      (everywhere_each (s.modSettings fun x => { x with debounce := v }) _
        (fun c s => ((only c).acceptDue s).everywhere s.acceptDue_steady) _)
  case readDevice | setTimingBadSelector => exact endsSteady_serve fun s => s.answer_everywhere _ _ _
  case unknownRequest p raw =>
    exact endsSteady_event (.ite (everywhere.refl s) (.ite (s.overrun_everywhere p)
      ((s.take_everywhere _ _ _ _).trans (State.answer_everywhere _ _ _ _))))
  case portOverrun p => exact endsSteady_event (.ite (s.overrun_everywhere p) (everywhere.refl s))
  case busTransactionComplete e data => exact endsSteady_act (s.transactionDone_everywhere e data)
  case addressNack e => exact endsSteady_act (s.addressNacked_everywhere e)
  case nackRetryExpiry e => exact endsSteady_act (s.retryBurst_everywhere e)
  case dataNack e => exact endsSteady_act (s.dataNacked_everywhere e)
  case clockHeldLow e => exact endsSteady_event (s.modCarry_everywhere e _)
  case clockReleased e => exact endsSteady_event (s.modCarry_everywhere e _)
  case stuckLimitExpiry e => exact endsSteady_act (s.stick_everywhere e)
  case holdOffExpiry c => exact endsSteady_act (s.holdOver_everywhere c)
  case pairComplete vc ic => exact endsSteady_act (s.pairDone_everywhere vc ic)
  case pendingBasisDue c => exact endsSteady_event (s.modRlm_everywhere c _)
  case linkStreamFrame bits => exact endsSteady_act (s.marker_everywhere bits)
  case streamStaleTimeout => exact endsSteady_expiry s.streamLost_everywhere
  case nextPollTimeReached c => exact endsSteady_expiryAt ((only c).pollTimeReached s) s.pollTimeReached_steady
  case itemEndAtByteBoundary e => exact endsSteady_act (s.endAtBoundary_everywhere e)
  case linkStreamRunDiscard => exact endsSteady_event (s.lsr_everywhere _)

/-- Every step keeps the flags of every context and the range of every profile. -/
theorem step_everywhere {s t : State} (h : step s = .next t) : everywhere.To s t := by
  unfold step at h
  split at h
  · cases h
    exact everywhere_of_cages fun _ => rfl
  · next i rest _ =>
    exact Rel.To.trans (t := { s with pending := rest }) (everywhere_of_cages fun _ => rfl) (exec_endsSteady _ i t h)

end

end Sys2Proof.Machine

namespace Sys2Proof.Proofs

open Sys2Proof.Machine

/-- Settles O14: every step keeps the flags of each cage's context. -/
theorem flagsFollowState : Obligations.FlagsFollowState :=
  fun _ _ hs h c => (step_everywhere h c).flags (hs c)

/-- Settles O16: every step keeps each cage's profile in range, and built-in where it is not valid. -/
theorem profilesStayInRange : Obligations.ProfilesStayInRange :=
  fun _ _ hs h c => (step_everywhere h c).profile (hs c)

end Sys2Proof.Proofs
end

section
/-! What answers no port (R174): an operation of the sequencer or the poller leaves the reply slots and the requests
being served as they are; only the end of a passthrough and a request answer a port. -/

namespace Sys2Proof.Machine

/-- `State.SameReplies`, as a relation that is followed through the operations. -/
def mute : Rel where
  R := State.SameReplies
  refl' := fun _ => ⟨fun _ => rfl, fun _ => rfl⟩
  trans' := fun a b => ⟨fun p => (b.request p).trans (a.request p), fun p => (b.reply p).trans (a.reply p)⟩

theorem mute_of_ports {s t : State} (h : t.portA = s.portA ∧ t.portB = s.portB) : mute.To s t := by
  obtain ⟨ha, hb⟩ := h
  constructor <;> intro p <;> cases p <;> simp [State.port, ha, hb]

/-- A post moves the lists alone. -/
theorem mute_list (s : State) (p : Port) (f : List AttEntry → List AttEntry) :
    mute.To s (s.modPort p fun x => { x with list := f x.list }) := by
  constructor <;> intro q <;> cases p <;> cases q <;> rfl

variable (s : State) (c : CageNo)

theorem State.modCage_mute (f : Cage → Cage) : mute.To s (s.modCage c f) := mute_of_ports ⟨rfl, rfl⟩

theorem State.modSeq_mute (f : Ctx → Ctx) : mute.To s (s.modSeq c f) := s.modCage_mute c _

theorem State.modEngine_mute (e : EngineNo) (f : Engine → Engine) : mute.To s (s.modEngine e f) :=
  mute_of_ports ⟨rfl, rfl⟩

theorem State.modGroup_mute (g : GroupNo) (f : Group → Group) : mute.To s (s.modGroup g f) := mute_of_ports ⟨rfl, rfl⟩

theorem State.postTo_mute (p : Port) (k : CageKind) : mute.To s (s.postTo p c k) :=
  mute_list s p fun l => addKind l (some c) k.bit none

theorem State.post_mute (k : CageKind) : mute.To s (s.post c k) :=
  (s.postTo_mute c .A k).trans (State.postTo_mute _ c .B k)

theorem State.postDeviceTo_mute (p : Port) (k : DeviceKind) : mute.To s (s.postDeviceTo p k) :=
  mute_list s p fun l => addKind l none k.bit (if k = .restarted then some s.cause else none)

theorem State.postDevice_mute (k : DeviceKind) : mute.To s (s.postDevice k) :=
  (s.postDeviceTo_mute .A k).trans (State.postDeviceTo_mute _ .B k)

theorem State.stopWork_mute : mute.To s (s.stopWork c) := mute_of_ports ⟨rfl, rfl⟩

theorem State.enter_mute (st : SeqState) (stage : Stage) : mute.To s (s.enter c st stage) := mute_of_ports (by simp)

theorem State.writeOpen_mute (f : Outage → Outage) : mute.To s (s.writeOpen c f) := mute_of_ports ⟨rfl, rfl⟩

theorem State.closeRecord_mute (r : Result) (w : Option Reason) : mute.To s (s.closeRecord c r w) :=
  s.writeOpen_mute c _

theorem State.lpAssert_mute : mute.To s (s.lpAssert c) := mute_of_ports (by simp)

theorem State.enqueue_mute (k : QueueKind) (n : Nat) (stage : Stage) : mute.To s (s.enqueue c k n stage) := by
  unfold State.enqueue
  exact .ite (s.parkNow_replies c _ _ _) (s.modGroup_mute _ _)

theorem State.postSeq_mute (a : Access) : mute.To s (s.postSeq c a) := by
  unfold State.postSeq
  split
  · exact (s.modSeq_mute c _).trans (State.modEngine_mute _ _ _)
  · exact s.moduleFault_replies c _
  · exact s.modSeq_mute c _

/-! ### The evaluation at DECIDE -/

theorem State.parkFromDecide_mute (r : Reason) (src : Option Source) : mute.To s (s.parkFromDecide c r src) := by
  unfold State.parkFromDecide
  exact .ite ((((s.stopWork_mute c).trans (State.modSeq_mute _ c _)).trans (State.writeOpen_mute _ c _)).trans
    ((State.lpAssert_mute _ c).trans (State.postSeq_mute _ c _))) (s.parkNow_replies c _ _ _)

theorem State.commit_mute (d : Decision) (src : Source) : mute.To s (s.commit c d src) :=
  (s.modSeq_mute c _).trans (State.writeOpen_mute _ c _)

theorem State.proceedRestore_mute (src : Source) : mute.To s (s.proceed c .restore src) := by
  unfold State.proceed
  exact .ite (((s.commit_mute c _ _).trans (State.enter_mute _ c _ _)).trans (State.postSeq_mute _ c _))
    ((((s.commit_mute c _ _).trans (State.stopWork_mute _ c)).trans (State.enter_mute _ c _ _)).trans
      (State.enqueue_mute _ c _ _ _))

theorem State.waitDecision_mute (w : Bool) : mute.To s (s.waitDecision c w) :=
  (s.modSeq_mute c _).trans (State.post_mute _ c _)

theorem State.decideEval_mute : mute.To s (s.decideEval c) := by
  unfold State.decideEval
  dsimp only
  refine Rel.To.trans (t := (s.modTimers c fun t => { t with window := none }).recordClass c (s.classify c))
    (mute_of_ports ⟨rfl, rfl⟩) ?_
  split
  · exact State.parkFromDecide_mute _ c _ _
  · exact State.proceedRestore_mute _ c _
  · exact State.waitDecision_mute _ c _
  · exact State.waitDecision_mute _ c _

/-! ### The link -/

theorem State.noticeRestored_mute : mute.To s (s.noticeRestored c) := by
  unfold State.noticeRestored
  exact .ite ((s.post_mute c _).trans (State.modSeq_mute _ c _)) (mute.refl s)

theorem State.storeLearned_mute : mute.To s (s.storeLearned c) :=
  ((mute_of_ports (s := s) ⟨rfl, rfl⟩).trans (State.post_mute _ c .profileChanged)).trans (mute_of_ports ⟨rfl, rfl⟩)

theorem State.learnLane_mute (k : Nat) : mute.To s (s.learnLane c k) := by
  unfold State.learnLane
  exact .ite (s.postSeq_mute c _) (s.storeLearned_mute c)

theorem State.restoreUp_mute : mute.To s (s.restoreUp c) := by
  unfold State.restoreUp
  exact ((((s.enter_mute c _ _).trans (State.modSeq_mute _ c _)).trans (State.closeRecord_mute _ c _ _)).trans
    (State.noticeRestored_mute _ c)).trans
    (.ite ((State.modSeq_mute _ c _).trans (State.learnLane_mute _ c 0)) (State.modSeq_mute _ c _))

theorem State.followLink_mute : mute.To s (s.followLink c) := by
  unfold State.followLink
  exact .ite (mute.refl s) (.ite (mute.refl s)
    (((s.modSeq_mute c _).trans (.ite (State.post_mute _ c _) (mute.refl _))).trans
      (.ite (State.noticeRestored_mute _ c) (mute.refl _))))

theorem State.evalLink_mute : mute.To s (s.evalLink c) := by
  unfold State.evalLink
  split
  · exact .ite (s.restoreUp_mute c) (mute.refl s)
  · exact s.followLink_mute c
  · exact s.followLink_mute c
  · exact mute.refl s

end Sys2Proof.Machine
end

section
/-! What an evaluation at DECIDE leaves (R54, R55, R67): the class it has written, the profile, and, whatever the
ports have been answered, what it does. -/

namespace Sys2Proof.Machine

/-! ### The class and the profile -/

/-- The class in the context and the profile of a cage stay, as a relation that is followed through the operations. -/
def classKept (c : CageNo) : Rel where
  R := fun s t => (t.cage c).seq.cls = (s.cage c).seq.cls ∧ (t.cage c).profile = (s.cage c).profile
  refl' := fun _ => ⟨rfl, rfl⟩
  trans' := fun a b => ⟨b.1.trans a.1, b.2.trans a.2⟩

section
variable (s : State) (c : CageNo)

theorem State.modSeq_classKept {f : Ctx → Ctx} (h : ∀ q, (f q).cls = q.cls) : (classKept c).To s (s.modSeq c f) :=
  ⟨by simp [h], by simp⟩

theorem State.post_classKept (k : CageKind) : (classKept c).To s (s.post c k) := ⟨by simp, by simp⟩

theorem State.enter_classKept (st : SeqState) (stage : Stage) : (classKept c).To s (s.enter c st stage) :=
  ⟨by simp [Ctx.entered], by simp⟩

theorem State.stopWork_classKept : (classKept c).To s (s.stopWork c) := ⟨by simp, by simp⟩

theorem State.writeOpen_classKept (f : Outage → Outage) : (classKept c).To s (s.writeOpen c f) := ⟨by simp, by simp⟩

theorem State.lpAssert_classKept : (classKept c).To s (s.lpAssert c) := ⟨by simp, by simp⟩

theorem State.parkNow_classKept (r : Reason) (stage : Stage) (src : Option Source) :
    (classKept c).To s (s.parkNow c r stage src) :=
  ⟨by simp [State.parkNow, Ctx.entered], by simp [State.parkNow]⟩

theorem State.moduleFault_classKept (r : Reason) : (classKept c).To s (s.moduleFault c r) :=
  ⟨by simp [State.moduleFault, Ctx.entered], by simp [State.moduleFault]⟩

theorem State.enqueue_classKept (k : QueueKind) (n : Nat) (stage : Stage) :
    (classKept c).To s (s.enqueue c k n stage) := by
  unfold State.enqueue
  exact .ite (s.parkNow_classKept c _ _ _) ⟨rfl, rfl⟩

theorem State.postSeq_classKept (a : Access) : (classKept c).To s (s.postSeq c a) := by
  unfold State.postSeq
  split
  · exact ⟨by simp [State.addItem], by simp [State.addItem]⟩
  · exact s.moduleFault_classKept c _
  · exact ⟨by simp, by simp⟩

theorem State.parkFromDecide_classKept (r : Reason) (src : Option Source) :
    (classKept c).To s (s.parkFromDecide c r src) := by
  unfold State.parkFromDecide
  exact .ite ((((s.stopWork_classKept c).trans (State.modSeq_classKept _ c (by exact fun _ => rfl))).trans
    (State.writeOpen_classKept _ c _)).trans ((State.lpAssert_classKept _ c).trans (State.postSeq_classKept _ c _)))
    (s.parkNow_classKept c _ _ _)

theorem State.commit_classKept (d : Decision) (src : Source) : (classKept c).To s (s.commit c d src) :=
  ⟨by simp [State.commit], by simp [State.commit]⟩

theorem State.proceedRestore_classKept (src : Source) : (classKept c).To s (s.proceed c .restore src) := by
  unfold State.proceed
  exact .ite (((s.commit_classKept c _ _).trans (State.enter_classKept _ c _ _)).trans (State.postSeq_classKept _ c _))
    ((((s.commit_classKept c _ _).trans (State.stopWork_classKept _ c)).trans (State.enter_classKept _ c _ _)).trans
      (State.enqueue_classKept _ c _ _ _))

theorem State.waitDecision_classKept (w : Bool) : (classKept c).To s (s.waitDecision c w) :=
  (s.modSeq_classKept c (by exact fun _ => rfl)).trans (State.post_classKept _ c _)

/-- R67: an evaluation writes the class, and leaves the profile. -/
theorem State.decideEval_class :
    ((s.decideEval c).cage c).seq.cls = some (s.classify c).1 ∧
      ((s.decideEval c).cage c).profile = (s.cage c).profile := by
  have kept : (classKept c).To (s.classed c) (s.decideEval c) := by
    unfold State.decideEval
    dsimp only
    rw [State.classed_eq]
    split
    · exact State.parkFromDecide_classKept _ c _ _
    · exact State.proceedRestore_classKept _ c _
    · exact State.waitDecision_classKept _ c _
    · exact State.waitDecision_classKept _ c _
  obtain ⟨hcls, hprofile⟩ := kept
  exact ⟨hcls.trans (by simp [State.classed]), hprofile.trans (by simp [State.classed])⟩

end

/-! ### What was answered before and after it -/

/-- The state with other reply slots and requests being served. -/
def State.slots (s : State) (f : Port → Option (List Byte) × ReplySlot) : State :=
  { s with
    portA := { s.portA with request := (f .A).1, reply := (f .A).2 }
    portB := { s.portB with request := (f .B).1, reply := (f .B).2 } }

section
variable (s : State) (f : Port → Option (List Byte) × ReplySlot)

theorem State.slots_list (p : Port) : ((s.slots f).port p).list = (s.port p).list := by cases p <;> rfl

theorem State.slots_masks (p : Port) :
    ((s.slots f).port p).cageMask = (s.port p).cageMask ∧ ((s.slots f).port p).deviceMask = (s.port p).deviceMask := by
  cases p <;> exact ⟨rfl, rfl⟩

/-- The slots as they were. -/
theorem State.slots_back : (s.slots f).slots (fun p => ((s.port p).request, (s.port p).reply)) = s := rfl

theorem State.slots_classify (c : CageNo) : (s.slots f).classify c = s.classify c := rfl

theorem State.take_slots (p : Port) (code target : Byte) (r : List Byte) : ∃ f, s.take p code target r = s.slots f :=
  ⟨fun x => (((s.take p code target r).port x).request, ((s.take p code target r).port x).reply), by cases p <;> rfl⟩

theorem State.answer_slots (p : Port) (st : ReplyStatus) (d : List Byte) : ∃ f, s.answer p st d = s.slots f := by
  refine ⟨fun x => (((s.answer p st d).port x).request, ((s.answer p st d).port x).reply), ?_⟩
  cases p <;> simp only [State.answer, State.modPort, State.slots, State.port] <;> split <;> rfl

end

section
variable {s u : State} {c : CageNo} {f g : Port → Option (List Byte) × ReplySlot}

theorem State.OnlyCage.slots (h : s.OnlyCage u c) : (s.slots f).OnlyCage (u.slots g) c :=
  { h with
    device := { h.device with }
    masks := fun p => by simpa only [State.slots_masks] using h.masks p
    entries := fun p => by simpa only [State.slots_list] using h.entries p }

theorem State.SameLists.slots (h : s.SameLists u) : (s.slots f).SameLists (u.slots g) := fun p => by
  simpa only [State.slots_list] using h p

theorem State.Posted.slots {k : CageKind} (h : s.Posted u c k) : (s.slots f).Posted (u.slots g) c k := fun p => by
  simpa only [State.slots_list] using h p

theorem State.Parked.slots {r : Reason} {stage : Stage} {src : Option Source} (h : s.Parked u c r stage src) :
    (s.slots f).Parked (u.slots g) c r stage src :=
  { h with only := h.only.slots, posted := h.posted.slots }

theorem State.HpDisabling.slots {r : Reason} {src : Option Source} (h : s.HpDisabling u c r src) :
    (s.slots f).HpDisabling (u.slots g) c r src :=
  { h with only := h.only.slots, lists := h.lists.slots }

theorem State.ParksInDecide.slots {r : Reason} {src : Option Source} (h : s.ParksInDecide u c r src) :
    (s.slots f).ParksInDecide (u.slots g) c r src :=
  ⟨fun hp => (h.1 hp).slots, fun hp => (h.2 hp).slots⟩

theorem State.Proceeding.slots {d : Decision} {src : Source} (h : s.Proceeding u c d src) :
    (s.slots f).Proceeding (u.slots g) c d src :=
  { h with only := h.only.slots }

theorem State.AdoptedRestores.slots {src : Source} (h : s.AdoptedRestores u c src) :
    (s.slots f).AdoptedRestores (u.slots g) c src :=
  { h with decided := { h.decided with only := h.decided.only.slots, lists := h.decided.lists.slots } }

theorem State.Restores.slots {src : Source} (h : s.Restores u c src) : (s.slots f).Restores (u.slots g) c src :=
  ⟨fun hp => ⟨(h.1 hp).1.slots, (h.1 hp).2.slots⟩, fun hp => (h.2 hp).slots⟩

theorem State.AwaitsDecision.slots {w : Bool} (h : s.AwaitsDecision u c w) :
    (s.slots f).AwaitsDecision (u.slots g) c w :=
  { h with only := h.only.slots, posted := h.posted.slots }

/-- Each branch of a choice gives way to what follows from it. -/
theorem ite_prop_imp {p a b a' b' : Prop} [Decidable p] (ha : a → a') (hb : b → b') (h : if p then a else b) :
    if p then a' else b' := by
  split at h
  · exact (if_pos ‹_›).mpr (ha h)
  · exact (if_neg ‹_›).mpr (hb h)

/-- R54, R55: what an evaluation does does not regard what the ports have been answered. -/
theorem State.Evaluated.slots (h : s.Evaluated u c) : (s.slots f).Evaluated (u.slots g) c := by
  unfold State.Evaluated at h ⊢
  dsimp only at h ⊢
  refine ite_prop_imp (fun h => h.slots) (ite_prop_imp (fun h => h.slots) (ite_prop_imp (fun h => h.slots)
    (ite_prop_imp (fun h => h.slots) (ite_prop_imp (fun h => h.slots) (fun h => h.slots))))) h

end

end Sys2Proof.Machine
end

section
/-! WRITE_PROFILE and INVALIDATE_PROFILE (R28 to R31, R33): the clamp, the revision check, and what a profile that has
been set leaves. -/

namespace Sys2Proof.Machine

/-! ### Numbers held to a range (R29) -/

theorem clampNat_eq {lo hi : Nat} (h : lo ≤ hi) (n : Nat) : clampNat lo hi n = heldTo lo hi n := by
  unfold clampNat heldTo
  split
  · omega
  · split <;> omega

theorem min_eq_heldTo (hi n : Nat) : min hi n = heldTo 0 hi n := by
  unfold heldTo
  split
  · omega
  · split <;> omega

theorem LanePair.clamp_eq : LanePair.clamp = fun e => ⟨heldTo 0 15 e.eq, heldTo 0 3 e.amp⟩ := by
  funext e
  simp [LanePair.clamp, min_eq_heldTo]

theorem LaneEntry.clamp_eq (e : LaneEntry) :
    e.clamp =
      { e with
        trim := if e.trim < -8 then -8 else if 7 < e.trim then 7 else e.trim
        eq := heldTo 0 15 e.eq
        amp := heldTo 0 3 e.amp } := by
  have ht : max (-8) (min 7 e.trim) = if e.trim < -8 then -8 else if 7 < e.trim then 7 else e.trim := by
    split
    · omega
    · split <;> omega
  simp [LaneEntry.clamp, min_eq_heldTo, ht]

/-! ### The revision of a request (R23, R28, R31) -/

/-- R185: the two bytes of a number are those that make it. -/
theorem bytes_eq_iff (hi lo : Byte) (r : BitVec 16) : [hi, lo] = bytesOf16 r ↔ word16 hi lo = r := by
  have hhi := hi.isLt
  have hlo := lo.isLt
  simp only [bytesOf16, word16, List.cons.injEq, and_true, ← BitVec.toNat_inj, toNat_append_bytes,
    BitVec.toNat_setWidth,
    BitVec.toNat_ushiftRight, Nat.shiftRight_eq_div_pow]
  omega

theorem take_two_eq_iff {b : List Byte} (h : 2 ≤ b.length) (r : BitVec 16) :
    b.take 2 = bytesOf16 r ↔ word16 (byteAt b 0) (byteAt b 1) = r := by
  obtain ⟨hi, lo, rest, rfl⟩ : ∃ hi lo rest, b = hi :: lo :: rest := by
    match b, h with
    | hi :: lo :: rest, _ => exact ⟨hi, lo, rest, rfl⟩
  exact bytes_eq_iff hi lo r

/-! ### A profile set by a request -/

/-- R30, R31, R33: from `s` to `u` a request has set the profile of a cage, and has been answered with its revision: a
cage that does not wait in DECIDE is as it was, and PROFILE_CHANGED is posted to the other port; one that waits is
evaluated. -/
structure State.ProfileStored (s u : State) (q : Req) (c : CageNo) (code : Byte) (st : ReplyStatus) (new : Profile) :
    Prop where
  only : s.OnlyCage u c
  profile : (u.cage c).profile = new
  answered : s.Answered u q code st (bytesOf16 new.revision)
  quiet : (s.cage c).seq.waiting = false →
    u.cage c = { s.cage c with profile := (u.cage c).profile } ∧ (u.port q.port).list = (s.port q.port).list ∧
      (u.port q.port.other).list = addKind (s.port q.port.other).list (some c) CageKind.profileChanged.bit none
  cls : (s.cage c).seq.waiting = true →
    (u.cage c).seq.cls = some ((s.profileSet q.port c new).classify c).1
  evaluated : (s.cage c).seq.waiting = true → (s.profileSet q.port c new).Evaluated u c

section
variable (s : State) (q : Req) (c : CageNo) (code : Byte) (r : List Byte) (st : ReplyStatus) (new : Profile)

theorem State.profileSet_only (p : Port) : s.OnlyCage (s.profileSet p c new) c :=
  (s.modCage_only c _).trans (State.postTo_only _ c p.other .profileChanged)

theorem State.profileSet_cage (p : Port) : (s.profileSet p c new).cage c = { s.cage c with profile := new } := by
  simp [State.profileSet]

theorem State.profileSet_list (p : Port) :
    ((s.profileSet p c new).port p).list = (s.port p).list ∧
      ((s.profileSet p c new).port p.other).list =
        addKind (s.port p.other).list (some c) CageKind.profileChanged.bit none := by
  cases p <;> exact ⟨rfl, rfl⟩

/-- The profile set between the taking of a request and its answer, with the post to the other port. -/
theorem State.take_profileSet :
    ∃ f, ((s.take q.port code q.target r).modProfile c fun _ => new).postTo q.port.other c .profileChanged =
        (s.profileSet q.port c new).slots f ∧
      mute.To (s.take q.port code q.target r) ((s.profileSet q.port c new).slots f) := by
  obtain ⟨f, hf⟩ := s.take_slots q.port code q.target r
  have heq : ((s.take q.port code q.target r).modProfile c fun _ => new).postTo q.port.other c .profileChanged =
      (s.profileSet q.port c new).slots f := by
    rw [hf]
    cases q.port <;> rfl
  exact ⟨f, heq, heq ▸ (State.modCage_mute _ c _).trans (State.postTo_mute _ c _ _)⟩

/-- What the answer leaves of a state that the set profile has led to without an answer. -/
theorem State.answer_stored {v : State} (ho : s.OnlyCage v c) (hm : mute.To (s.take q.port code q.target r) v)
    (hp : (v.cage c).profile = new) :
    s.OnlyCage (v.answer q.port st (bytesOf16 new.revision)) c ∧
      ((v.answer q.port st (bytesOf16 new.revision)).cage c).profile = new ∧
      s.Answered (v.answer q.port st (bytesOf16 new.revision)) q code st (bytesOf16 new.revision) := by
  obtain ⟨g, hg⟩ := v.answer_slots q.port st (bytesOf16 new.revision)
  refine ⟨hg ▸ ho.slots (f := fun p => ((s.port p).request, (s.port p).reply)), by rwa [State.answer_cage], ?_, ?_⟩
  · exact State.answer_answers ((hm.reply q.port).trans (s.take_reply ..)) _ _
  · rw [State.answer_port_ne _ (port_other_ne q.port), hm.reply, hm.request,
      State.take_port_ne _ _ _ (port_other_ne q.port)]
    exact ⟨rfl, rfl⟩

/-- R30, R31, R33: what a request that sets a profile leaves, by whether the cage waits in DECIDE. -/
theorem State.profileStored :
    s.ProfileStored
      ((((s.take q.port code q.target r).modProfile c fun _ => new).profileChanged q.port c).answer q.port st
        (bytesOf16 new.revision)) q c code st new := by
  obtain ⟨f, hb, hm⟩ := s.take_profileSet q c code r new
  have hseq : (((s.take q.port code q.target r).modProfile c fun _ => new).cage c).seq = (s.cage c).seq := by
    simp [State.take_cage]
  have ho : s.OnlyCage ((s.profileSet q.port c new).slots f) c :=
    (s.profileSet_only c new q.port).slots (f := fun p => ((s.port p).request, (s.port p).reply))
  have hc : ((s.profileSet q.port c new).slots f).cage c = { s.cage c with profile := new } :=
    s.profileSet_cage c new q.port
  unfold State.profileChanged
  rw [hseq, hb]
  cases hw : (s.cage c).seq.waiting with
  | false =>
    obtain ⟨honly, hprofile, hans⟩ := s.answer_stored q c code r st new ho hm (by rw [hc])
    refine ⟨honly, hprofile, hans, fun _ => ?_, fun h => ?_, fun h => ?_⟩
    · obtain ⟨hown, hother⟩ := s.profileSet_list c new q.port
      simp only [Bool.false_eq_true, if_false, State.answer_cage, State.answer_list, State.slots_list]
      exact ⟨by rw [hc], hown, hother⟩
    · rw [hw] at h
      cases h
    · rw [hw] at h
      cases h
  | true =>
    obtain ⟨hcls, hkept⟩ := ((s.profileSet q.port c new).slots f).decideEval_class c
    obtain ⟨honly, hprofile, hans⟩ := s.answer_stored q c code r st new (ho.trans ((only c).decideEval _))
      (hm.trans (State.decideEval_mute _ c)) (by rw [hkept, hc])
    refine ⟨honly, hprofile, hans, fun h => ?_, fun _ => ?_, fun _ => ?_⟩
    · rw [hw] at h
      cases h
    · rw [if_pos rfl, State.answer_cage, hcls, State.slots_classify]
    · obtain ⟨g, hg⟩ :=
        (((s.profileSet q.port c new).slots f).decideEval c).answer_slots q.port st (bytesOf16 new.revision)
      rw [if_pos rfl, hg]
      have he := (((s.profileSet q.port c new).slots f).decideEval_spec c).slots (g := g)
        (f := fun p => (((s.profileSet q.port c new).port p).request, ((s.profileSet q.port c new).port p).reply))
      rwa [State.slots_back] at he

/-- A change of a profile sets it to what it makes of the one there. -/
theorem State.modProfile_take (g : Profile → Profile) :
    (s.take q.port code q.target r).modProfile c g =
      (s.take q.port code q.target r).modProfile c fun _ => g (s.cage c).profile := by
  have hc := s.take_cage q.port code q.target r c
  generalize s.take q.port code q.target r = t at hc ⊢
  rw [← hc]
  rfl

end

section
variable {s : State} {q : Req} {c : CageNo}

theorem exec_writeProfile (h : s.TakesFor q 0 130 c) :
    exec (.writeProfile q) s =
      .next ((s.take q.port 0x02 q.target (recordOf q (plain 0x02 130))).writeProfile q.port q.body c) := by
  have hx : exec (.writeProfile q) s =
    event s fun s => s.serveCage q (plain 0x02 130) fun c s => s.writeProfile q.port q.body c := rfl
  rw [hx, event_awake h.takes.awake, State.serveCage_takes h rfl rfl rfl]
  rfl

theorem exec_invalidateProfile (h : s.TakesFor q 0 2 c) :
    exec (.invalidateProfile q) s =
      .next ((s.take q.port 0x03 q.target (recordOf q (plain 0x03 2))).invalidate q.port q.body c) := by
  have hx : exec (.invalidateProfile q) s =
    event s fun s => s.serveCage q (plain 0x03 2) fun c s => s.invalidate q.port q.body c := rfl
  rw [hx, event_awake h.takes.awake, State.serveCage_takes h rfl rfl rfl]
  rfl

end

/-- R29, R30: what a profile record that has passed the checks leaves. -/
theorem State.storeProfile_stored (s : State) (q : Req) (c : CageNo) (code : Byte) (r : List Byte) (new : Profile) :
    ∃ u, (s.take q.port code q.target r).storeProfile q.port c new = u.settle ∧
      s.ProfileStored u q c code (if new.clamp = new then .ok else .clamped) 
        ((s.cage c).profile.replace new.clamp) := by
  refine ⟨_, ?_, s.profileStored q c code r (if new.clamp = new then .ok else .clamped)
    ((s.cage c).profile.replace new.clamp)⟩
  simp only [State.storeProfile, State.done, State.revisionData]
  rw [State.modProfile_take]
  simp

/-- R31: what an invalidation that has passed the checks leaves. -/
theorem State.invalidate_stored (s : State) (q : Req) (c : CageNo) (code : Byte) (r : List Byte) (body : List Byte)
    (hrev : word16 (byteAt body 0) (byteAt body 1) = (s.cage c).profile.revision) (hu : (s.cage c).seq.inUse = false) :
    ∃ u, (s.take q.port code q.target r).invalidate q.port body c = u.settle ∧
      s.ProfileStored u q c code .ok (s.cage c).profile.invalidate := by
  refine ⟨_, ?_, s.profileStored q c code r .ok (s.cage c).profile.invalidate⟩
  simp only [State.invalidate, State.take_cage, hrev, hu, State.done, State.revisionData, ne_eq, not_true, if_false,
    Bool.false_eq_true]
  rw [State.modProfile_take]
  simp

end Sys2Proof.Machine

namespace Sys2Proof.Proofs

open Sys2Proof.Machine

/-- Settles O43: the refusals in their order, and a profile that is set by `profileStored`. -/
theorem profilesAreChanged : Obligations.ProfilesAreChanged := by
  refine ⟨fun p => ?_, fun s q c => ⟨fun h => ?_, fun h => ?_⟩⟩
  · simp [Profile.clamp, clampNat_eq, min_eq_heldTo, LaneEntry.clamp_eq, LanePair.clamp_eq]
  · have hlen := h.takes.body
    rw [exec_writeProfile h]
    simp only [take_two_eq_iff (b := q.body) (by omega), ne_eq]
    refine ⟨fun hn => ?_, fun new hn => ⟨fun hne => ?_, fun hrev hu => ?_, fun hrev hu => ?_⟩⟩
    · simp [State.writeProfile, hn, State.revisionData, State.take_answer, State.take_cage]
    · simp [State.writeProfile, hn, State.revisionData, State.take_answer, State.take_cage, hne]
    · simp [State.writeProfile, hn, State.revisionData, State.take_answer, State.take_cage, hrev, hu]
    · obtain ⟨u, hs, hst⟩ := s.storeProfile_stored q c 0x02 (recordOf q (plain 0x02 130)) new
      refine ⟨u, ?_, hst.only, hst.profile, hst.answered, hst.quiet, hst.evaluated⟩
      rw [← hs]
      simp [State.writeProfile, hn, State.take_cage, hrev, hu]
  · have hlen := h.takes.body
    have htake : q.body.take 2 = q.body := List.take_of_length_le (by omega)
    have hbytes := take_two_eq_iff (b := q.body) (by omega) (s.cage c).profile.revision
    rw [htake] at hbytes
    rw [exec_invalidateProfile h]
    simp only [hbytes, ne_eq]
    refine ⟨fun hne => ?_, fun hrev hu => ?_, fun hrev hu => ?_⟩
    · simp [State.invalidate, State.revisionData, State.take_answer, State.take_cage, hne]
    · simp [State.invalidate, State.revisionData, State.take_answer, State.take_cage, hrev, hu]
    · have hbuiltin : ∀ i met, classOf (s.cage c).profile.invalidate i met = (.noProfile, false) := fun _ _ => rfl
      obtain ⟨u, hs, hst⟩ := s.invalidate_stored q c 0x03 (recordOf q (plain 0x03 2)) q.body hrev hu
      exact ⟨u, congrArg _ hs, hst.only, hst.profile, hst.answered, hst.quiet,
        fun hw => ⟨(hst.cls hw).trans (by simp [State.classify, State.profileSet_cage, hbuiltin]), hst.evaluated hw⟩⟩

end Sys2Proof.Proofs
end

section
/-! The drain that waits for a carried item (R101, R146). When the item ends the segment is disconnected, and the next
slot starts if its time has come. `State.DrainGoesOn` says of that slot what `Cage.Undone` says of every slot from the
state before, and so, where the slot undoes neither BUS_CONNECT nor RAIL_ON, that the segment is as it was: it cannot
be both, unless it was DISCONNECTED before. -/

namespace Sys2Proof.Machine

/-- R101: where the slot that follows undoes neither BUS_CONNECT nor RAIL_ON, `State.DrainGoesOn` holds only of a
segment that was DISCONNECTED while the drain waited for it. -/
theorem State.DrainGoesOn.disconnected_before {s u : State} {c : CageNo} {n : Nat} (h : s.DrainGoesOn u c)
    (hd : (s.cage c).seq.state = .draining) (hw : (s.cage c).seq.busRelease = true) (hn : (s.cage c).seq.slot = n + 1)
    (ht : Reached (s.cage c).seq.timers.slot s.now) (hb : (s.cage c).seq.drainTable.bus ≠ n)
    (hr : (s.cage c).seq.drainTable.rail ≠ n) : (s.cage c).bus.seg = .disconnected := by
  obtain ⟨-, hgoes⟩ := h
  obtain ⟨-, hseg, -, -, -, hslot⟩ := hgoes hd hw
  obtain ⟨hundone, -⟩ := hslot n hn ht
  exact (hundone.link hb hr).symm.trans hseg

/-- A read of one byte of cage 0 for port B, as engine 0 carries it with its address refused twice. -/
def lastTry : Carry :=
  ⟨⟨0, 0, 9, 1, false, [], .port .B, 900, false, 900⟩, none, builtinMap61, .burst, [], 0, 2, none, none, none,
    false, false⟩

/-- Cage 0 drains by a legal table that has BUS_CONNECT in slot 2. Slot 2 is over, and the segment is still CONNECTED
for the read that engine 0 carries. -/
def drainWaits : State :=
  (({ State.reset with inReset := false, now := 1000 }.modPort .B fun x =>
    { x with reply := .pending 0x0D 0 }).modEngine 0 fun g =>
    { g with current := some lastTry, selected := some 0 }).modCage 0 fun k =>
      { k with
        ciu := { k.ciu with presence := .present, presentPin := true, lines := ⟨true, true, true⟩ }
        charge := 1500
        bus := { k.bus with seg := .connected }
        seq :=
          { k.seq with
            state := .draining
            stage := .busRelease
            dest := some .admitWait
            table := some ⟨0, 2, 3, 4, 4⟩
            slot := 2
            topSlot := 4
            busRelease := true
            timers := { slot := some ⟨990, 10⟩ } } }

/-- The segment and the drain slot of cage 0 after a command. -/
def segmentAndSlot : Out → Option (Segment × Nat)
  | .next t => some ((t.cage 0).bus.seg, (t.cage 0).seq.slot)
  | _ => none

/-- In the model both ends of the read, OK and NO_RESPONSE, disconnect the segment and start slot 1, which undoes
nothing. -/
theorem drainWaits_goesOn :
    segmentAndSlot (exec (.busTransactionComplete 0 [7]) drainWaits) = some (.disconnected, 1) ∧
      segmentAndSlot (exec (.addressNack 0) drainWaits) = some (.disconnected, 1) ∧
      (drainWaits.cage 0).bus.seg = .connected := by decide

end Sys2Proof.Machine

namespace Sys2Proof.Proofs

open Sys2Proof.Machine

/-- Refutes O54: the read of `drainWaits` ends OK, the drain goes on to slot 1, which undoes neither BUS_CONNECT nor
RAIL_ON (`drainWaits_goesOn` runs it), and the segment would have to be DISCONNECTED and as it was, CONNECTED. -/
theorem not_busTransactionsAdvance : ¬Obligations.BusTransactionsAdvance := by
  intro h
  obtain ⟨-, -, -, hends⟩ := h drainWaits 0 lastTry [7] (by decide) (by decide) rfl rfl rfl rfl (by decide)
  have hend : lastTry.EndsWith [7] [7] :=
    .inl ⟨rfl, fun hp => absurd hp.1 (by decide), by decide, fun _ => by decide, by decide⟩
  obtain ⟨hport, -⟩ := hends [7] hend
  obtain ⟨u, -, hgoes, -⟩ := hport .B 0x0D 0 rfl (by decide)
  have hseg := hgoes.disconnected_before (n := 1) (by decide) (by decide) (by decide) ⟨⟨990, 10⟩, by decide, by decide⟩
    (by decide) (by decide)
  exact absurd hseg (by decide)

/-- Refutes O55: the address of the read of `drainWaits` is refused for the third time, the read ends NO_RESPONSE, and
the drain goes on to slot 1 as in `not_busTransactionsAdvance`. -/
theorem not_nacksRetryAndEnd : ¬Obligations.NacksRetryAndEnd := by
  intro h
  obtain ⟨-, -, hends⟩ := h drainWaits 0 lastTry (by decide) (by decide) rfl rfl rfl (by decide)
  obtain ⟨hport, -⟩ := hends (.addressNack 0) rfl (.inl ⟨rfl, by decide⟩)
  obtain ⟨hanswered, -⟩ := hport .B 0x0D 0 rfl (by decide)
  obtain ⟨u, -, hgoes, -⟩ := hanswered (by decide)
  have hseg := hgoes.disconnected_before (n := 1) (by decide) (by decide) (by decide) ⟨⟨990, 10⟩, by decide, by decide⟩
    (by decide) (by decide)
  exact absurd hseg (by decide)

end Sys2Proof.Proofs
end

section
/-! What an evaluation of the link summary does (R91, R92, R94 to R96), and which of it touches an engine or a group. -/

namespace Sys2Proof.Machine

/-! ### The end of a restore with every link up (R92, R96) -/

/-- R92, R96: the cage in IN_SERVICE, its record closed and RESTORED posted where it is due, before a learning. -/
def State.servedBase (s : State) (c : CageNo) : State :=
  ((((s.enter c .inService .none).modSeq c fun q =>
    { q with
      timers := { q.timers with link := none }
      reason := none
      lastKnown := some .allUp
      adopted := false }).closeRecord c .inService none).noticeRestored c)

theorem State.restoreUp_eq (s : State) (c : CageNo) :
    s.restoreUp c =
      if ((s.servedBase c).cage c).seq.learnPending then (s.servedBase c).startLearning c
      else (s.servedBase c).modSeq c fun q => { q with inUse := false } := rfl

/-- R92, R94, R96: what `State.servedBase` leaves. -/
structure State.Served (s b : State) (c : CageNo) : Prop where
  seq : (b.cage c).seq =
    { (s.cage c).seq with
      state := .inService
      stage := .none
      reason := none
      timers := { (s.cage c).seq.timers with link := none }
      lastKnown := some .allUp
      adopted := false
      restoreNotice := false }
  outage : (b.cage c).outage = closedRecord (s.cage c).outage s.now (s.cage c).seq.retry .inService none
  image : (b.cage c).image = (s.cage c).image
  bus : (b.cage c).bus = (s.cage c).bus
  time : b.now = s.now ∧ b.elapsed = s.elapsed
  maps : b.fieldMaps = s.fieldMaps
  group : ∀ g, b.group g = s.group g
  engine : ∀ e, b.engine e = s.engine e
  list : ∀ p, (b.port p).list =
    if (s.cage c).seq.restoreNotice then addKind (s.port p).list (some c) CageKind.restored.bit none
    else (s.port p).list

theorem State.settleBasis_rest (s : State) (c : CageNo) :
    (∀ g, (s.settleBasis c).group g = s.group g) ∧ ∀ e, (s.settleBasis c).engine e = s.engine e := by
  unfold State.settleBasis
  split <;> exact ⟨fun _ => rfl, fun _ => rfl⟩

/-- R168: an entry to IN_SERVICE, which is polled, leaves the groups and the engines. -/
theorem State.enter_inService_rest (s : State) (c : CageNo) (stage : Stage) :
    (∀ g, (s.enter c .inService stage).group g = s.group g) ∧ ∀ e, (s.enter c .inService stage).engine e = s.engine e :=
  (s.modSeq c fun q => q.entered .inService stage).settleBasis_rest c

/-- R96: a notice that is due is posted and cleared. -/
theorem State.noticeRestored_spec (s : State) (c : CageNo) :
    (s.noticeRestored c).cage c = { s.cage c with seq := { (s.cage c).seq with restoreNotice := false } } ∧
      (∀ g, (s.noticeRestored c).group g = s.group g) ∧ (∀ e, (s.noticeRestored c).engine e = s.engine e) ∧
      ((s.noticeRestored c).now = s.now ∧ (s.noticeRestored c).elapsed = s.elapsed) ∧
      (s.noticeRestored c).fieldMaps = s.fieldMaps ∧
      ∀ p, ((s.noticeRestored c).port p).list =
        if (s.cage c).seq.restoreNotice then addKind (s.port p).list (some c) CageKind.restored.bit none
        else (s.port p).list := by
  unfold State.noticeRestored
  split
  · refine ⟨?_, fun _ => rfl, fun _ => rfl, ⟨rfl, rfl⟩, rfl, fun p => ?_⟩
    · simp [State.modSeq, State.post, State.postTo]
    · cases p <;> simp [State.port]
  · next h =>
    refine ⟨?_, fun _ => rfl, fun _ => rfl, ⟨rfl, rfl⟩, rfl, fun p => rfl⟩
    simp only [Bool.not_eq_true] at h
    rw [← h]

theorem State.servedBase_spec (s : State) (c : CageNo) : s.Served (s.servedBase c) c := by
  obtain ⟨hg, he⟩ := s.enter_inService_rest c .none
  unfold State.servedBase
  generalize hb : ((s.enter c .inService .none).modSeq c fun q =>
    { q with
      timers := { q.timers with link := none }
      reason := none
      lastKnown := some .allUp
      adopted := false }).closeRecord c .inService none = b
  obtain ⟨n1, n2, n3, n4, n5, n6⟩ := b.noticeRestored_spec c
  refine ⟨?_, ?_, ?_, ?_, ?_, ?_, fun g => ?_, fun e => ?_, fun p => ?_⟩
  · rw [n1, ← hb]
    simp [Ctx.entered, SeqState.quiets, SeqState.frees, SeqState.service]
  · rw [n1, ← hb]
    simp [Ctx.entered]
  · rw [n1, ← hb]
    simp
  · rw [n1, ← hb]
    simp
  · rw [n4.1, n4.2, ← hb]
    simp
  · rw [n5, ← hb]
    simp
  · rw [n2, ← hg, ← hb]
    rfl
  · rw [n3, ← he, ← hb]
    rfl
  · have hl : (b.port p).list = (s.port p).list := by rw [← hb]; cases p <;> simp [State.port]
    have hn : (b.cage c).seq.restoreNotice = (s.cage c).seq.restoreNotice := by
      rw [← hb]; simp [Ctx.entered, SeqState.quiets]
    rw [n6, hl, hn]

end Sys2Proof.Machine
end

section
/-! What an evaluation of the link summary does, continued: the start of a learning (R37), the follow of the link in
service (R94, R95), and the evaluation as a whole. -/

namespace Sys2Proof.Machine

/-! ### The start of a learning (R37) -/

theorem closedRecord_closed {o : Outage} (h : o.result ≠ some .inProgress) (now : Stamp) (n : Nat) (r : Result)
    (w : Option Reason) : closedRecord o now n r w = o := if_neg h

theorem closedRecord_result {o : Outage} {now : Stamp} {n : Nat} {w : Option Reason} :
    (closedRecord o now n .inService w).result ≠ some .inProgress := by
  unfold closedRecord
  split
  · simp
  · assumption

/-- A record that is not OPEN stays when a learning starts, on a STUCK segment too. -/
theorem State.startLearning_outage {s : State} {c : CageNo} (h : (s.cage c).outage.result ≠ some .inProgress) :
    ((s.startLearning c).cage c).outage = (s.cage c).outage := by
  unfold State.startLearning State.learnLane
  split
  · unfold State.postSeq
    split
    · simp [State.addItem]
    · rw [(State.moduleFault_spec _ c _).record]
      simp [closedRecord_closed h]
    · simp
  · simp [State.storeLearned, State.abandonLearning]

/-- R37: on a segment that takes items, a learning starts with the read of the first lane's eq. -/
theorem State.startLearning_reads {s : State} {c : CageNo} (hb : (s.cage c).bus.seg = .connected)
    (hl : 0 < s.laneCount c) :
    ((s.startLearning c).cage c).seq =
        { (s.cage c).seq with
          learnPending := false, learning := true, learned := [], stage := .learning, access := .learnEq 0 } ∧
      ∃ i, s.NewestSeq (s.startLearning c) c i ∧ i.write = false ∧ i.len = 1 ∧
        (⟨i.page, i.offset⟩ : Loc) = (s.mapOf c).eqControl := by
  generalize ht : (s.modSeq c fun q =>
    { q with learnPending := false, learning := true, learned := [], stage := .learning }) = t
  have hu : s.startLearning c = t.postSeq c (.learnEq 0) := by
    have hlane : t.laneCount c = s.laneCount c := by rw [← ht]; simp [State.laneCount]
    unfold State.startLearning State.learnLane
    rw [ht, hlane, if_pos hl]
  have htb : (t.cage c).bus.seg = .connected := by rw [← ht]; simpa using hb
  have hm : t.mapOf c = s.mapOf c := State.mapOf_congr (by rw [← ht]; simp) (by rw [← ht]; simp)
  rw [hu, (t.postSeq_parts c _ htb).1]
  refine ⟨by rw [← ht]; simp, _,
    State.postSeq_newest s t c (.learnEq 0) htb (by rw [← ht]; simp) (by rw [← ht]; simp), ?_⟩
  rw [← hm]
  exact ⟨rfl, rfl, by simp [State.accessItem, readItem, Loc.lane]⟩

/-! ### The restore ends (R92, R96) -/

theorem State.restoreUp_outage (s : State) (c : CageNo) :
    ((s.restoreUp c).cage c).outage = closedRecord (s.cage c).outage s.now (s.cage c).seq.retry .inService none := by
  have hb := s.servedBase_spec c
  rw [s.restoreUp_eq c, ← hb.outage]
  split
  · exact State.startLearning_outage (by rw [hb.outage]; exact closedRecord_result)
  · simp

theorem State.restoreUp_serves_only {s : State} {c : CageNo} (h : (s.cage c).seq.learnPending = false) :
    s.restoreUp c = (s.servedBase c).modSeq c fun q => { q with inUse := false } := by
  rw [s.restoreUp_eq c, (s.servedBase_spec c).seq]
  simp [h]

theorem State.restoreUp_learns {s : State} {c : CageNo} (h : (s.cage c).seq.learnPending = true) :
    s.restoreUp c = (s.servedBase c).startLearning c := by
  rw [s.restoreUp_eq c, (s.servedBase_spec c).seq]
  simp [h]

/-! ### The link followed in service (R94, R95) -/

theorem Blank.inForce_iff (b : Blank) (now : Stamp) : b.inForce now = true ↔ Blanked (some b) now := by
  unfold Blank.inForce Blanked
  rw [Bool.and_eq_true, decide_eq_true_eq, decide_eq_true_eq]
  exact ⟨fun h => ⟨b, rfl, h⟩, fun ⟨_, rfl, h⟩ => h⟩

theorem not_blanked_none (now : Stamp) : ¬Blanked none now := fun ⟨_, h, _⟩ => by cases h

/-- R94: the state that a known summary gives a cage in service, and the reason. -/
theorem serviceState_eq {x : Summary} (h : x ≠ .unknown) :
    serviceState x =
      (if x = .allUp then .inService else .degraded,
        if x = .allUp then none else if x = .someUp then some .partialLink else some .linkDown) := by
  cases x with
  | unknown => exact absurd rfl h
  | allUp | someUp | noneUp => rfl

/-- What is left of a kind that is posted on a condition. -/
theorem State.post_if {P Q : Prop} [Decidable P] (h : P ↔ Q) (s : State) (c : CageNo) (k : CageKind) :
    (if P then s.post c k else s).cage c = s.cage c ∧ (∀ g, (if P then s.post c k else s).group g = s.group g) ∧
      (∀ e, (if P then s.post c k else s).engine e = s.engine e) ∧
      ∀ p,
        (Q → ((if P then s.post c k else s).port p).list = addKind (s.port p).list (some c) k.bit none) ∧
          (¬Q → ((if P then s.post c k else s).port p).list = (s.port p).list) := by
  rw [← h]
  split
  · next hp => exact ⟨rfl, fun _ => rfl, fun _ => rfl, fun p => ⟨fun _ => s.post_posted c k p, absurd hp⟩⟩
  · next hp => exact ⟨rfl, fun _ => rfl, fun _ => rfl, fun _ => ⟨(absurd · hp), fun _ => rfl⟩⟩

/-- R94, R95: a summary that is news: the state and the reason are those it gives, and LINK_CHANGE is posted where the
summary differs and no blanking window is in force, before RESTORED. -/
theorem State.followLink_moves {s : State} {c : CageNo} (hk : s.summary c ≠ .unknown)
    (hn : (s.cage c).seq.lastKnown ≠ some (s.summary c) ∨ (s.cage c).seq.reason = some .streamLost) :
    ∃ t : State, s.followLink c = (if s.summary c = .allUp then t.noticeRestored c else t) ∧
      t.cage c =
        { s.cage c with
          seq :=
            { (s.cage c).seq with
              state := if s.summary c = .allUp then .inService else .degraded
              reason :=
                if s.summary c = .allUp then none
                else if s.summary c = .someUp then some .partialLink else some .linkDown
              lastKnown := some (s.summary c) } } ∧
      (∀ g, t.group g = s.group g) ∧ (∀ e, t.engine e = s.engine e) ∧
      ∀ p,
        ((s.cage c).seq.lastKnown ≠ some (s.summary c) ∧ ¬Blanked (s.cage c).seq.blank s.now →
          (t.port p).list = addKind (s.port p).list (some c) CageKind.linkChange.bit none) ∧
        (¬((s.cage c).seq.lastKnown ≠ some (s.summary c) ∧ ¬Blanked (s.cage c).seq.blank s.now) →
          (t.port p).list = (s.port p).list) := by
  have hsame : ¬((s.cage c).seq.lastKnown = some (s.summary c) ∧ (s.cage c).seq.reason ≠ some .streamLost) :=
    fun ⟨h1, h2⟩ => hn.elim (absurd h1) (absurd · h2)
  have hserve :
      (if s.summary c = .allUp then SeqState.inService else .degraded) = .inService ↔ s.summary c = .allUp := by
    split <;> simp [*]
  unfold State.followLink
  simp only [hk, hsame, if_false, serviceState_eq hk, hserve]
  generalize hs1 : (s.modSeq c fun q =>
    { q with
      state := if s.summary c = .allUp then .inService else .degraded
      reason :=
        if s.summary c = .allUp then none
        else if s.summary c = .someUp then some .partialLink else some .linkDown
      lastKnown := some (s.summary c) }) = s1
  have hcage : s1.cage c =
      { s.cage c with
        seq :=
          { (s.cage c).seq with
            state := if s.summary c = .allUp then .inService else .degraded
            reason :=
              if s.summary c = .allUp then none
              else if s.summary c = .someUp then some .partialLink else some .linkDown
            lastKnown := some (s.summary c) } } := by
    rw [← hs1]
    simp [State.modSeq]
  have hrest : (∀ g, s1.group g = s.group g) ∧ (∀ e, s1.engine e = s.engine e) ∧ ∀ p, s1.port p = s.port p := by
    rw [← hs1]
    exact ⟨fun _ => rfl, fun _ => rfl, fun p => by cases p <;> rfl⟩
  obtain ⟨hg, he, hp⟩ := hrest
  simp only [← hcage, ← hg, ← he, ← hp]
  cases hblank : (s.cage c).seq.blank with
  | none => exact ⟨_, rfl, State.post_if (by simp [not_blanked_none]) s1 c .linkChange⟩
  | some b => exact ⟨_, rfl, State.post_if (by simp [← Blank.inForce_iff]) s1 c .linkChange⟩

end Sys2Proof.Machine
end

section
/-! The evaluation of the link summary of a cage as a whole (R91, R92, R94 to R96), and what it touches besides the
cage. -/

namespace Sys2Proof.Machine

section
variable {s : State} {c : CageNo}

/-- R94: a summary that is no news changes nothing. -/
theorem State.followLink_same (h : s.summary c = .unknown ∨
    (s.cage c).seq.lastKnown = some (s.summary c) ∧ (s.cage c).seq.reason ≠ some .streamLost) : s.followLink c = s := by
  unfold State.followLink
  dsimp only
  rcases h with h | h
  · rw [if_pos h]
  · rw [if_pos h, ite_self]

theorem State.evalLink_linkWait (h : (s.cage c).seq.state = .linkWait) :
    s.evalLink c = if s.summary c = .allUp then s.restoreUp c else s := by
  simp [State.evalLink, h]

theorem State.evalLink_service (h : (s.cage c).seq.state = .inService ∨ (s.cage c).seq.state = .degraded) :
    s.evalLink c = s.followLink c := by
  rcases h with h | h <;> simp [State.evalLink, h]

theorem State.evalLink_other (h1 : (s.cage c).seq.state ≠ .linkWait) (h2 : (s.cage c).seq.state ≠ .inService)
    (h3 : (s.cage c).seq.state ≠ .degraded) : s.evalLink c = s := by
  unfold State.evalLink
  split
  · exact absurd ‹_› h1
  · exact absurd ‹_› h2
  · exact absurd ‹_› h3
  · rfl

end

/-- R92, R94 to R96: what an evaluation of the link summary does. -/
theorem State.evalLink_spec (s : State) (c : CageNo) : s.LinkEvaluated (s.evalLink c) c where
  only := (only c).evalLink s
  waits := fun h hs => by rw [State.evalLink_linkWait h, if_neg hs]
  other := State.evalLink_other
  restored := fun h hs => by
    have hb := s.servedBase_spec c
    rw [State.evalLink_linkWait h, if_pos hs]
    refine ⟨s.restoreUp_outage c, fun hl => ?_, fun hl hseg hlane => ?_⟩
    · rw [State.restoreUp_serves_only hl]
      refine ⟨by simp [hb.seq], fun p => ?_⟩
      rw [← hb.list]
      cases p <;> rfl
    · have hlanes : (s.servedBase c).laneCount c = s.laneCount c := by simp [State.laneCount, hb.image]
      have hm : (s.servedBase c).mapOf c = s.mapOf c := State.mapOf_congr (by rw [hb.image]) hb.maps
      obtain ⟨hseq, i, hnew, hwrite, hlen, hloc⟩ :=
        State.startLearning_reads (s := s.servedBase c) (by rw [hb.bus]; exact hseg) (by rw [hlanes]; exact hlane)
      unfold State.NewestSeq at hnew
      rw [hb.time.1, hb.time.2] at hnew
      rw [hm] at hloc
      rw [State.restoreUp_learns hl, hseq, hb.seq]
      exact ⟨rfl, rfl, rfl, rfl, rfl, i, hnew, hwrite, hlen, hloc⟩
  same := fun h hs => by rw [State.evalLink_service h, State.followLink_same hs]
  moved := fun h hk hn => by
    obtain ⟨t, ht, hcage, -, -, hlist⟩ := State.followLink_moves hk hn
    obtain ⟨hnotice, -, -, -, -, hnlist⟩ := t.noticeRestored_spec c
    rw [State.evalLink_service h, ht]
    by_cases hup : s.summary c = .allUp
    · refine ⟨?_, fun p => ⟨(t.port p).list, (hlist p).1, (hlist p).2, ?_⟩⟩
      · rw [if_pos hup, hnotice, hcage]
        simp [hup]
      · rw [if_pos hup, hnlist, hcage]
        simp [hup]
    · refine ⟨?_, fun p => ⟨(t.port p).list, (hlist p).1, (hlist p).2, ?_⟩⟩
      · rw [if_neg hup, hcage]
        simp [hup]
      · rw [if_neg hup]
        simp [hup]

/-! ### What else it touches (R38, R107, R117, R145) -/

/-- A kind of a cage leaves the DEVICE entry. -/
theorem entriesOfDevice_addKind (l : List AttEntry) (c : CageNo) (k : BitVec 16) (r : Option ResetCause) :
    entriesOfDevice (addKind l (some c) k r) = entriesOfDevice l := by
  unfold entriesOfDevice
  induction l with
  | nil => simp [addKind]
  | cons a l ih =>
    by_cases h : a.who = some c
    · simp [addKind, h]
    · simp [addKind, h, List.filter_cons, ih]

/-- From `s` to `t` only cages, their items, their attention entries and the committed charges have changed. -/
structure State.CagesOnly (s t : State) : Prop where
  device : s.SameDevice t
  replies : s.SameReplies t
  group : ∀ g, t.group g = { s.group g with committed := (t.group g).committed }
  list : ∀ p, entriesOfDevice (t.port p).list = entriesOfDevice (s.port p).list

theorem State.CagesOnly.refl (s : State) : s.CagesOnly s := ⟨.refl s, mute.refl s, fun _ => rfl, fun _ => rfl⟩

theorem State.CagesOnly.trans {s t u : State} (a : s.CagesOnly t) (b : t.CagesOnly u) : s.CagesOnly u :=
  ⟨a.device.trans b.device, Rel.To.trans (K := mute) a.replies b.replies, fun g => by rw [b.group g, a.group g],
    fun p => (b.list p).trans (a.list p)⟩

section
variable {s : State} {c : CageNo}

/-- A post of a kind of the cage leaves the DEVICE entry, and so does nothing posted. -/
theorem State.post_device (s : State) (c : CageNo) (k : CageKind) (p : Port) :
    entriesOfDevice ((s.post c k).port p).list = entriesOfDevice (s.port p).list := by
  rw [s.post_posted c k p, entriesOfDevice_addKind]

/-- R37, R107: the start of a learning leaves the groups' queues and the DEVICE entry, on a STUCK segment too. -/
theorem State.startLearning_rest (s : State) (c : CageNo) :
    (∀ g, (s.startLearning c).group g = { s.group g with committed := ((s.startLearning c).group g).committed }) ∧
      ((s.cage c).bus.seg ≠ .stuck → ∀ g, (s.startLearning c).group g = s.group g) ∧
      ∀ p, entriesOfDevice ((s.startLearning c).port p).list = entriesOfDevice (s.port p).list := by
  unfold State.startLearning State.learnLane
  generalize ht : (s.modSeq c fun q =>
    { q with learnPending := false, learning := true, learned := [], stage := .learning }) = t
  have hg : ∀ g, t.group g = s.group g := fun g => by rw [← ht]; rfl
  have hp : ∀ p, t.port p = s.port p := fun p => by rw [← ht]; cases p <;> rfl
  have hseg : (t.cage c).bus.seg = (s.cage c).bus.seg := by rw [← ht]; simp
  simp only [← hg, ← hp, ← hseg]
  split
  · unfold State.postSeq
    split
    · exact ⟨fun _ => rfl, fun _ _ => rfl, fun p => by cases p <;> rfl⟩
    · next h =>
      have hf := t.moduleFault_spec c .busStuck
      refine ⟨fun g => ?_, fun hn => absurd h hn, fun p => by rw [hf.posted p, entriesOfDevice_addKind]⟩
      by_cases he : g = groupOf c
      · rw [he, hf.group]
      · rw [hf.only.groups g he]
    · exact ⟨fun _ => rfl, fun _ _ => rfl, fun p => by cases p <;> rfl⟩
  · exact ⟨fun _ => rfl, fun _ _ => rfl, fun p => State.post_device _ c .profileChanged p⟩

/-- What is not posted, or posted for a cage, leaves the DEVICE entry. -/
theorem entriesOfDevice_ite (P : Prop) [Decidable P] (l : List AttEntry) (k : BitVec 16) :
    entriesOfDevice (if P then addKind l (some c) k none else l) = entriesOfDevice l := by
  split
  · exact entriesOfDevice_addKind ..
  · rfl

/-- R92, R96: what the end of a restore with every link up leaves besides the cage. -/
theorem State.restoreUp_rest (s : State) (c : CageNo) :
    (∀ g, (s.restoreUp c).group g = { s.group g with committed := ((s.restoreUp c).group g).committed }) ∧
      (((s.cage c).seq.learnPending = true → (s.cage c).bus.seg ≠ .stuck) → ∀ g, (s.restoreUp c).group g = s.group g) ∧
      ((s.cage c).seq.learnPending = false → ∀ e, (s.restoreUp c).engine e = s.engine e) ∧
      ∀ p, entriesOfDevice ((s.restoreUp c).port p).list = entriesOfDevice (s.port p).list := by
  have hb := s.servedBase_spec c
  have hdevice : ∀ p, entriesOfDevice ((s.servedBase c).port p).list = entriesOfDevice (s.port p).list := fun p => by
    rw [hb.list, entriesOfDevice_ite]
  have hgroup := hb.group
  have hengine := hb.engine
  have hbus := hb.bus
  cases hl : (s.cage c).seq.learnPending with
  | false =>
    rw [State.restoreUp_serves_only hl]
    clear hb
    generalize s.servedBase c = b at *
    refine ⟨fun g => ?_, fun _ g => ?_, fun _ e => ?_, fun p => ?_⟩
    · rw [State.modSeq, State.modCage_group, hgroup g]
    · rw [State.modSeq, State.modCage_group, hgroup g]
    · rw [State.modSeq, State.modCage_engine, hengine e]
    · rw [State.modSeq, State.modCage_port, hdevice p]
  | true =>
    rw [State.restoreUp_learns hl]
    clear hb
    generalize s.servedBase c = b at *
    obtain ⟨lgroup, lsame, ldevice⟩ := b.startLearning_rest c
    refine ⟨fun g => ?_, fun hseg g => ?_, nofun, fun p => (ldevice p).trans (hdevice p)⟩
    · rw [lgroup g, hgroup g]
    · rw [lsame (by rw [hbus]; exact hseg rfl), hgroup g]

/-- R94, R95: what the follow of the link in service leaves besides the cage. -/
theorem State.followLink_rest (s : State) (c : CageNo) :
    (∀ g, (s.followLink c).group g = s.group g) ∧ (∀ e, (s.followLink c).engine e = s.engine e) ∧
      ∀ p, entriesOfDevice ((s.followLink c).port p).list = entriesOfDevice (s.port p).list := by
  by_cases h : s.summary c = .unknown ∨
      (s.cage c).seq.lastKnown = some (s.summary c) ∧ (s.cage c).seq.reason ≠ some .streamLost
  · rw [State.followLink_same h]
    exact ⟨fun _ => rfl, fun _ => rfl, fun _ => rfl⟩
  · have hk : s.summary c ≠ .unknown := fun hk => h (.inl hk)
    have hn : (s.cage c).seq.lastKnown ≠ some (s.summary c) ∨ (s.cage c).seq.reason = some .streamLost := by
      by_contra hn
      push Not at hn
      exact h (.inr hn)
    obtain ⟨t, ht, -, hgroup, hengine, hlist⟩ := State.followLink_moves hk hn
    obtain ⟨-, ngroup, nengine, -, -, nlist⟩ := t.noticeRestored_spec c
    have hdevice : ∀ p, entriesOfDevice (t.port p).list = entriesOfDevice (s.port p).list := fun p => by
      by_cases hq : (s.cage c).seq.lastKnown ≠ some (s.summary c) ∧ ¬Blanked (s.cage c).seq.blank s.now
      · rw [(hlist p).1 hq, entriesOfDevice_addKind]
      · rw [(hlist p).2 hq]
    rw [ht]
    split
    · exact ⟨fun g => (ngroup g).trans (hgroup g), fun e => (nengine e).trans (hengine e),
        fun p => by rw [nlist, entriesOfDevice_ite, hdevice]⟩
    · exact ⟨hgroup, hengine, hdevice⟩

/-- R37, R92, R94: an evaluation leaves the groups but for the charge of a cage whose learning finds its segment
STUCK, and the engines where no learning is due. -/
theorem State.evalLink_rest (s : State) (c : CageNo) :
    s.CagesOnly (s.evalLink c) ∧
      ((s.LearningDue c → (s.cage c).bus.seg ≠ .stuck) → ∀ g, (s.evalLink c).group g = s.group g) ∧
      (¬s.LearningDue c → ∀ e, (s.evalLink c).engine e = s.engine e) := by
  have hd : s.SameDevice (s.evalLink c) := ((only c).evalLink s).device
  have hm : s.SameReplies (s.evalLink c) := s.evalLink_mute c
  have same : s.CagesOnly s ∧ ((s.LearningDue c → (s.cage c).bus.seg ≠ .stuck) → ∀ g, s.group g = s.group g) ∧
      (¬s.LearningDue c → ∀ e, s.engine e = s.engine e) := ⟨.refl s, fun _ _ => rfl, fun _ _ => rfl⟩
  by_cases hw : (s.cage c).seq.state = .linkWait
  · rw [State.evalLink_linkWait hw] at hd hm ⊢
    split at hd
    · next hs =>
      rw [if_pos hs] at hm ⊢
      obtain ⟨hgroup, hsame, hengine, hlist⟩ := s.restoreUp_rest c
      refine ⟨⟨hd, hm, hgroup, hlist⟩, fun h => hsame fun hl => h ⟨hw, hl⟩, fun h => hengine ?_⟩
      cases hl : (s.cage c).seq.learnPending with
      | false => rfl
      | true => exact absurd ⟨hw, hl⟩ h
    · next hs => rwa [if_neg hs]
  by_cases hserve : (s.cage c).seq.state = .inService ∨ (s.cage c).seq.state = .degraded
  · rw [State.evalLink_service hserve] at hd hm ⊢
    obtain ⟨hgroup, hengine, hlist⟩ := s.followLink_rest c
    exact ⟨⟨hd, hm, fun g => by rw [hgroup g], hlist⟩, fun _ => hgroup, fun _ => hengine⟩
  · rw [State.evalLink_other hw (fun h => hserve (.inl h)) (fun h => hserve (.inr h))]
    exact same

end

end Sys2Proof.Machine
end

section
/-! The link stream (R89 to R91): the bits of a frame, the used slots and the summary, and the cages that are told. -/

namespace Sys2Proof.Machine

/-! ### The bits of a frame (R89, R90) -/

theorem testBit_bits (bits : List Bool) (n : Nat) :
    (bits.foldr (fun (b : Bool) n => (if b then 1 else 0) + 2 * n) 0).testBit n = bits.getD n false := by
  induction bits generalizing n with
  | nil => simp
  | cons b bits ih =>
    rw [List.foldr_cons]
    generalize bits.foldr (fun (b : Bool) n => (if b then 1 else 0) + 2 * n) 0 = m at ih
    cases n with
    | zero => cases b <;> simp [Nat.testBit_zero]
    | succ n =>
      have hdiv : ((if b then 1 else 0) + 2 * m) / 2 = m := by cases b <;> simp; omega
      rw [Nat.testBit_succ, hdiv, ih]
      rfl

theorem frameBits_getLsbD (bits : List Bool) {n : Nat} (h : n < 256) :
    (frameBits bits).getLsbD n = bits.getD n false := by
  rw [frameBits, BitVec.getLsbD_ofNat, decide_eq_true h, Bool.true_and, testBit_bits]

/-- R90: a slot takes the bit on which the new and the previous frame agree, and keeps its own where they differ. -/
theorem debounceSlots_getLsbD (old prev new : BitVec 256) (n : Nat) :
    (debounceSlots old prev new).getLsbD n = if new.getLsbD n = prev.getLsbD n then new.getLsbD n else old.getLsbD n := by
  simp only [debounceSlots, BitVec.getLsbD_or, BitVec.getLsbD_and, BitVec.getLsbD_xor]
  cases new.getLsbD n <;> cases prev.getLsbD n <;> simp

/-! ### The used slots and the summary (R91) -/

theorem State.usesSlot_iff (s : State) (c : CageNo) (n : Nat) :
    s.UsesSlot c n ↔
      ∃ k ∈ usedSlots (s.laneCount c) ((s.cage c).image.breakout.getD 1), n = streamIndex c k := by
  simp [State.UsesSlot, usedSlots, streamIndex]

/-- R91: the cages told of a change are those with a used slot that changed. -/
theorem State.slotsChanged_iff (s : State) (old acc : BitVec 256) (c : CageNo) :
    s.slotsChanged old acc c = true ↔ ∃ n, s.UsesSlot c n ∧ acc.getLsbD n ≠ old.getLsbD n := by
  simp only [State.slotsChanged, List.any_eq_true, bne_iff_ne, State.usesSlot_iff]
  constructor
  · rintro ⟨k, hk, hne⟩
    exact ⟨_, ⟨k, hk, rfl⟩, hne.symm⟩
  · rintro ⟨_, ⟨k, hk, rfl⟩, hne⟩
    exact ⟨k, hk, hne.symm⟩

/-- R91: without a stream, or before its first frame, the summary is UNKNOWN. -/
theorem State.summary_unknown {s : State} (h : s.lsr.live = false ∨ s.lsr.accepted = none) (c : CageNo) :
    s.summary c = .unknown := by
  unfold State.summary linkSummary
  rcases h with h | h
  · rw [h]
  · rw [h]
    cases s.lsr.live <;> rfl

/-- R91: with a stream the summary is that of the used slots. -/
theorem State.summary_live {s : State} {acc : BitVec 256} (hl : s.lsr.live = true) (ha : s.lsr.accepted = some acc)
    (c : CageNo) :
    (s.summary c = .allUp ↔ ∀ n, s.UsesSlot c n → acc.getLsbD n = true) ∧
      (s.summary c = .noneUp ↔ (∃ n, s.UsesSlot c n) ∧ ∀ n, s.UsesSlot c n → acc.getLsbD n = false) ∧
      (s.summary c = .someUp ↔
        (∃ n, s.UsesSlot c n ∧ acc.getLsbD n = true) ∧ ∃ n, s.UsesSlot c n ∧ acc.getLsbD n = false) := by
  generalize hu : (usedSlots (s.laneCount c) ((s.cage c).image.breakout.getD 1)).map
    (fun k => acc.getLsbD (streamIndex c k)) = used
  have hsum : s.summary c = if used.all id then .allUp else if used.any id then .someUp else .noneUp := by
    simp only [State.summary, linkSummary, hl, ha, hu]
  have hmem : ∀ b, b ∈ used ↔ ∃ n, s.UsesSlot c n ∧ acc.getLsbD n = b := fun b => by
    simp only [← hu, List.mem_map, State.usesSlot_iff]
    constructor
    · rintro ⟨k, hk, rfl⟩
      exact ⟨_, ⟨k, hk, rfl⟩, rfl⟩
    · rintro ⟨_, ⟨k, hk, rfl⟩, rfl⟩
      exact ⟨k, hk, rfl⟩
  have hall : used.all id = true ↔ ∀ n, s.UsesSlot c n → acc.getLsbD n = true := by
    simp [List.all_eq_true, hmem]
  have hany : used.any id = true ↔ ∃ n, s.UsesSlot c n ∧ acc.getLsbD n = true := by
    simp [List.any_eq_true, hmem]
  have hdown : (∃ n, s.UsesSlot c n ∧ acc.getLsbD n = false) ↔ ¬used.all id = true := by
    rw [hall]
    push Not
    simp
  have hnone : ((∃ n, s.UsesSlot c n) ∧ ∀ n, s.UsesSlot c n → acc.getLsbD n = false) ↔
      ¬used.all id = true ∧ ¬used.any id = true := by
    rw [← hdown, hany]
    constructor
    · rintro ⟨⟨n, hn⟩, hoff⟩
      exact ⟨⟨n, hn, hoff n hn⟩, fun ⟨m, hm, hon⟩ => by simp [hoff m hm] at hon⟩
    · rintro ⟨⟨n, hn, -⟩, hno⟩
      exact ⟨⟨n, hn⟩, fun m hm => by simpa using fun hon => hno ⟨m, hm, hon⟩⟩
  rw [hsum, ← hall, ← hany, hnone, hdown]
  cases used.all id <;> cases used.any id <;> simp

end Sys2Proof.Machine
end

section
/-! The cages told of the link stream (R90, R91), and the commands of the stream. -/

namespace Sys2Proof.Machine

/-- What each operation keeps while its own cage is as it was, the whole keeps: each cage is operated on once. -/
theorem State.each_keeps_of_cage {f : CageNo → State → State} (hf : ∀ d (s : State), s.OnlyCage (f d s) d)
    {R : State → State → Prop}
    (refl : ∀ s, R s s) (trans : ∀ {s t u}, R s t → R t u → R s u) {l : List CageNo} (hn : l.Nodup) (s : State)
    (hR : ∀ d ∈ l, ∀ t, t.cage d = s.cage d → R t (f d t)) : R s (s.each l f) := by
  suffices h : ∀ l : List CageNo, l.Nodup → ∀ t, (∀ d ∈ l, t.cage d = s.cage d) →
      (∀ d ∈ l, ∀ t, t.cage d = s.cage d → R t (f d t)) → R t (t.each l f) from h l hn s (fun _ _ => rfl) hR
  intro l hn
  induction l with
  | nil => exact fun t _ _ => refl t
  | cons d l ih =>
    obtain ⟨hd, hn⟩ := List.nodup_cons.mp hn
    intro t hc hR
    refine trans (hR d (List.mem_cons_self ..) t (hc d (List.mem_cons_self ..))) (ih hn _ (fun e he => ?_)
      fun e he => hR e (List.mem_cons_of_mem _ he))
    rw [(hf d t).cages e (by rintro rfl; exact hd he)]
    exact hc e (List.mem_cons_of_mem _ he)

/-- From `s` to `t` only the link stream and the DEVICE entries have changed. -/
structure State.StreamOnly (s t : State) : Prop where
  device : ({ s with lsr := t.lsr } : State).SameDevice t
  replies : s.SameReplies t
  cage : ∀ c, t.cage c = s.cage c
  group : ∀ g, t.group g = s.group g
  engine : ∀ e, t.engine e = s.engine e
  entries : ∀ p c, entriesOf (t.port p).list c = entriesOf (s.port p).list c

theorem State.StreamOnly.lsr (s : State) (l : Lsr) : s.StreamOnly { s with lsr := l } where
  device := .refl _
  replies := mute_of_ports ⟨rfl, rfl⟩
  cage := fun _ => rfl
  group := fun _ => rfl
  engine := fun _ => rfl
  entries := fun p _ => by cases p <;> rfl

theorem State.StreamOnly.postDevice {s t : State} (h : s.StreamOnly t) (k : DeviceKind) :
    s.StreamOnly (t.postDevice k) where
  device := { h.device with }
  replies := Rel.To.trans (K := mute) h.replies (t.postDevice_mute k)
  cage := h.cage
  group := h.group
  engine := h.engine
  entries := fun p c => by
    rw [State.postDevice_port, ← h.entries p c]
    exact entriesOf_addKind _ _ _ _ c (by simp)

section
variable {s t : State} {l : List CageNo}

/-- R91: each cage of a list evaluates its link summary. -/
def State.tell (s : State) (l : List CageNo) : State := s.each l fun c s => s.evalLink c

theorem State.tell_rest (s : State) (l : List CageNo) : s.CagesOnly (s.tell l) :=
  State.each_keeps (R := State.CagesOnly) .refl .trans l (fun d _ s => (s.evalLink_rest d).1) s

/-- R107, R117: a group stays in which no learning starts on a STUCK segment. -/
theorem State.tell_group (hn : l.Nodup) {g : GroupNo}
    (h : ∀ c, groupOf c = g → s.LearningDue c → (s.cage c).bus.seg ≠ .stuck) : (s.tell l).group g = s.group g := by
  refine State.each_keeps_of_cage (R := fun s t => t.group g = s.group g) (fun d s => (only d).evalLink s)
    (fun _ => rfl)
    (fun a b => b.trans a) hn s fun d _ t hd => ?_
  by_cases hg : g = groupOf d
  · refine (t.evalLink_rest d).2.1 (fun hdue => ?_) g
    rw [State.LearningDue, hd] at hdue
    rw [hd]
    exact h d hg.symm hdue
  · exact ((only d).evalLink t).groups g hg

/-- R37: an engine stays none of whose cages starts a learning. -/
theorem State.tell_engine (hn : l.Nodup) {e : EngineNo} (h : ∀ c, engineOf c = e → ¬s.LearningDue c) :
    (s.tell l).engine e = s.engine e := by
  refine State.each_keeps_of_cage (R := fun s t => t.engine e = s.engine e) (fun d s => (only d).evalLink s)
    (fun _ => rfl)
    (fun a b => b.trans a) hn s fun d _ t hd => ?_
  by_cases he : e = engineOf d
  · refine (t.evalLink_rest d).2.2 (fun hdue => ?_) e
    rw [State.LearningDue, hd] at hdue
    exact h d he.symm hdue
  · exact ((only d).evalLink t).engines e he

theorem confined_evalLink (d : CageNo) (s : State) : (confined d).To s (s.evalLink d) := (confined d).evalLink s

/-- R91: a cage of the list has been told, whatever the other cages have done before and after it. -/
theorem State.StreamOnly.told (h : s.StreamOnly t) (hn : l.Nodup) {c : CageNo} (hc : c ∈ l) : s.Told (t.tell l) c := by
  obtain ⟨a, ha, hb⟩ := State.each_beside confined_evalLink hn hc t
  have hlsr : (t.tell l).lsr = t.lsr := (t.tell_rest l).device.lsr
  refine ⟨a, a.evalLink c, ?_, ha.cage.trans (h.cage c),
    fun p => (ha.entries p).trans (h.entries p c), a.evalLink_spec c,
    hb.cage.symm, hb.entries⟩
  rw [hlsr]
  exact h.device.trans ha.device

/-- A cage that is not in the list has not been told. -/
theorem State.StreamOnly.untold (h : s.StreamOnly t) {c : CageNo} (hc : c ∉ l) : s.Untold (t.tell l) c := by
  have hb : t.Beside (t.tell l) c := State.each_beside_of_notMem confined_evalLink hc t
  exact ⟨hb.cage.trans (h.cage c), fun p => (hb.entries p).trans (h.entries p c)⟩

end

/-- What a stream leaves of the part when cages have been told of it. -/
structure State.StreamTold (s u : State) : Prop where
  device : ({ s with lsr := u.lsr } : State).SameDevice u
  replies : s.SameReplies u
  group : ∀ g, u.group g = { s.group g with committed := (u.group g).committed }
  kept : ∀ g, (∀ c, groupOf c = g → s.LearningDue c → (s.cage c).bus.seg ≠ .stuck) → u.group g = s.group g
  engine : ∀ e, (∀ c, engineOf c = e → ¬s.LearningDue c) → u.engine e = s.engine e

theorem State.StreamOnly.tell {s t : State} (h : s.StreamOnly t) {l : List CageNo} (hn : l.Nodup) :
    s.StreamTold (t.tell l) where
  device := by
    have hr := t.tell_rest l
    rw [hr.device.lsr]
    exact h.device.trans hr.device
  replies := Rel.To.trans (K := mute) h.replies (t.tell_rest l).replies
  group := fun g => by rw [(t.tell_rest l).group g, h.group g]
  kept := fun g hg => (State.tell_group hn fun c hc hdue => by
    rw [State.LearningDue, h.cage] at hdue
    rw [h.cage]
    exact hg c hc hdue).trans (h.group g)
  engine := fun e he => (State.tell_engine hn fun c hc hdue => by
    rw [State.LearningDue, h.cage] at hdue
    exact he c hc hdue).trans (h.engine e)

/-- R92, R94: an UNKNOWN summary changes nothing. -/
theorem State.evalLink_unknown {s : State} {c : CageNo} (h : s.summary c = .unknown) : s.evalLink c = s := by
  unfold State.evalLink
  split
  · rw [if_neg (by rw [h]; decide)]
  · exact State.followLink_same (.inl h)
  · exact State.followLink_same (.inl h)
  · rfl

/-- R91: without a stream the cages that are told change nothing. -/
theorem State.tell_stale {s : State} (h : s.lsr.live = false) (l : List CageNo) : s.tell l = s := by
  unfold State.tell
  induction l with
  | nil => rfl
  | cons c l ih => rw [State.each_cons, State.evalLink_unknown (State.summary_unknown (.inl h) c), ih]

/-! ### The commands of the stream (R89, R90) -/

section
variable {s : State}

theorem exec_linkStreamFrame (h : s.inReset = false) (bits : List Bool) :
    exec (.linkStreamFrame bits) s = .next (s.marker bits).settle := by
  have hx : exec (.linkStreamFrame bits) s = act s fun s => s.marker bits := rfl
  rw [hx, act_awake h]

/-- The state with a stream, told to the cages of a list. -/
def State.streamTold (s : State) (x : Lsr) (l : List CageNo) : State := ({ s with lsr := x } : State).tell l

/-- The state with a stream, a DEVICE kind of it posted, told to every cage. -/
def State.streamPosted (s : State) (x : Lsr) (k : DeviceKind) : State :=
  (({ s with lsr := x } : State).postDevice k).tell allCages

theorem nodup_allCages : allCages.Nodup := List.nodup_finRange 32

theorem State.streamPosted_spec (s : State) (x : Lsr) {k : DeviceKind} (hk : k ≠ .restarted) :
    s.StreamTold (s.streamPosted x k) ∧ (s.streamPosted x k).lsr = x ∧ (∀ c, s.Told (s.streamPosted x k) c) ∧
      ∀ p, entriesOfDevice ((s.streamPosted x k).port p).list =
        entriesOfDevice (addKind (s.port p).list none k.bit none) := by
  have hbase := (State.StreamOnly.lsr s x).postDevice k
  have hlsr : (({ s with lsr := x } : State).postDevice k).lsr = x := rfl
  have hlist : ∀ p,
      ((({ s with lsr := x } : State).postDevice k).port p).list = addKind (s.port p).list none k.bit none :=
    fun p => by
      rw [State.postDevice_port, if_neg hk]
      cases p <;> rfl
  unfold State.streamPosted
  generalize ({ s with lsr := x } : State).postDevice k = t at *
  have hrest := t.tell_rest allCages
  exact ⟨hbase.tell nodup_allCages, hrest.device.lsr.trans hlsr,
    fun c => hbase.told nodup_allCages (List.mem_finRange c), fun p => by rw [hrest.list p, hlist p]⟩

theorem State.streamTold_spec (s : State) (x : Lsr) {l : List CageNo} (hn : l.Nodup) :
    s.StreamTold (s.streamTold x l) ∧ (s.streamTold x l).lsr = x ∧ (∀ c ∈ l, s.Told (s.streamTold x l) c) ∧
      (∀ c, c ∉ l → s.Untold (s.streamTold x l) c) ∧
      ∀ p, entriesOfDevice ((s.streamTold x l).port p).list = entriesOfDevice (s.port p).list := by
  have hbase := State.StreamOnly.lsr s x
  have hlsr : ({ s with lsr := x } : State).lsr = x := rfl
  have hlist : ∀ p, (({ s with lsr := x } : State).port p).list = (s.port p).list := fun p => by cases p <;> rfl
  unfold State.streamTold
  generalize ({ s with lsr := x } : State) = t at *
  have hrest := t.tell_rest l
  exact ⟨hbase.tell hn, hrest.device.lsr.trans hlsr, fun c hc => hbase.told hn hc, fun c hc => hbase.untold hc,
    fun p => by rw [hrest.list p, hlist p]⟩

/-- R90: a valid frame in STALE. -/
theorem State.marker_stale {run bits : List Bool} (hr : s.lsr.reception = some run)
    (hlen : run.length + bits.length = 256)
    (hl : s.lsr.live = false) :
    s.marker bits =
      s.streamPosted ⟨true, some (frameBits (run ++ bits)), some (frameBits (run ++ bits)), some s.now, some []⟩
        .streamBack := by
  simp only [State.marker, hr, State.frameClosed, List.length_append, hlen, if_pos, hl, Bool.false_eq_true, if_false]
  rfl

/-- R90: a valid frame in LIVE. -/
theorem State.marker_live {run bits : List Bool} (hr : s.lsr.reception = some run)
    (hlen : run.length + bits.length = 256)
    (hl : s.lsr.live = true) {acc : BitVec 256}
    (ha : acc = debounceSlots (s.lsr.accepted.getD 0) (s.lsr.previous.getD (frameBits (run ++ bits)))
      (frameBits (run ++ bits))) :
    s.marker bits =
      s.streamTold ⟨true, some acc, some (frameBits (run ++ bits)), some s.now, some []⟩
        (allCages.filter fun c => s.slotsChanged (s.lsr.accepted.getD 0) acc c) := by
  simp only [State.marker, hr, State.frameClosed, List.length_append, hlen, if_pos, hl, State.frameLive, ← ha]
  rfl

/-- R89: a marker that closes no valid frame opens the next run. -/
theorem State.marker_opens {bits : List Bool}
    (h : ∀ run, s.lsr.reception = some run → run.length + bits.length ≠ 256) :
    s.marker bits = { s with lsr := { s.lsr with reception := some [] } } := by
  unfold State.marker
  cases hr : s.lsr.reception with
  | none => rfl
  | some run => simp [State.frameClosed, h run hr]

/-- R90: the stale limit is reached in LIVE at 50 ms without a valid frame. -/
theorem Lsr.staleDue_iff {x : Lsr} {t : Stamp} (hl : x.live = true) (ht : x.lastValid = some t) (now : Stamp) :
    x.staleDue now = true ↔ 50 ≤ (now - t).toNat := by
  simp only [Lsr.staleDue, hl, ht, Bool.true_and, decide_eq_true_eq]
  rfl

theorem exec_streamStaleTimeout_early (h : s.lsr.staleDue s.now = false) : exec .streamStaleTimeout s = .next s := by
  have hx : exec .streamStaleTimeout s = expiry s (s.lsr.staleDue s.now) State.streamLost := rfl
  rw [hx, h]
  rfl

/-- R90: the stream goes STALE. -/
theorem exec_streamStaleTimeout_due (hr : s.inReset = false) (h : s.lsr.staleDue s.now = true) :
    exec .streamStaleTimeout s =
      .next (s.streamPosted { s.lsr with live := false, accepted := none, previous := none } .streamLost).settle := by
  have hx : exec .streamStaleTimeout s = expiry s (s.lsr.staleDue s.now) State.streamLost := rfl
  rw [hx, expiry_due hr h]
  rfl

/-- R90, R91: the loss of the stream leaves every group and engine. -/
theorem State.streamPosted_stale {x : Lsr} (hl : x.live = false) (k : DeviceKind) :
    (∀ g, (s.streamPosted x k).group g = s.group g) ∧ ∀ e, (s.streamPosted x k).engine e = s.engine e := by
  have hbase := (State.StreamOnly.lsr s x).postDevice k
  unfold State.streamPosted
  rw [State.tell_stale (s := ({ s with lsr := x } : State).postDevice k) hl]
  exact ⟨hbase.group, hbase.engine⟩

end

end Sys2Proof.Machine

namespace Sys2Proof.Proofs

open Sys2Proof.Machine

/-- Settles O58: a valid frame by `streamPosted_spec` in STALE and by `streamTold_spec` in LIVE, the loss of the
stream by `streamPosted_spec`, and the summary by the used slots. -/
theorem linkStreamIsFollowed : Obligations.LinkStreamIsFollowed := by
  intro s hr
  refine ⟨fun run bits hrec => ⟨fun hlen => ?_, fun hlen => ?_⟩, fun hrec bits => ?_,
    fun t hl ht => ⟨fun hn => ?_, fun hn => ?_⟩, fun hl => ?_,
    fun c => ⟨fun h => State.summary_unknown h c, fun acc hl ha => State.summary_live hl ha c⟩⟩
  · rw [exec_linkStreamFrame hr, State.marker_opens fun x hx => by rw [hrec] at hx; cases hx; exact hlen]
  · generalize hnew : frameBits (run ++ bits) = new
    have hbits : ∀ n, n < 256 → new.getLsbD n = (run ++ bits).getD n false := fun n hn => by
      rw [← hnew, frameBits_getLsbD _ hn]
    cases hl : s.lsr.live with
    | false =>
      obtain ⟨htold, hlsr, heach, hlist⟩ :=
        s.streamPosted_spec ⟨true, some new, some new, some s.now, some []⟩ (k := .streamBack) (by decide)
      refine ⟨_, new, ?_, hbits, htold.device, htold.replies, htold.group, htold.kept, htold.engine,
        fun _ => ⟨hlsr, heach, hlist⟩, nofun⟩
      rw [exec_linkStreamFrame hr, State.marker_stale hrec hlen hl, hnew]
    | true =>
      obtain ⟨acc, hacc⟩ : ∃ acc, acc = debounceSlots (s.lsr.accepted.getD 0) (s.lsr.previous.getD new) new := ⟨_, rfl⟩
      obtain ⟨htold, hlsr, heach, hrest, hlist⟩ :=
        s.streamTold_spec ⟨true, some acc, some new, some s.now, some []⟩
          (nodup_allCages.filter fun c => s.slotsChanged (s.lsr.accepted.getD 0) acc c)
      have htells : ∀ c, c ∈ allCages.filter (fun c => s.slotsChanged (s.lsr.accepted.getD 0) acc c) ↔
          ∃ n, s.UsesSlot c n ∧ acc.getLsbD n ≠ (s.lsr.accepted.getD 0).getLsbD n := fun c => by
        rw [List.mem_filter, State.slotsChanged_iff]
        exact and_iff_right (List.mem_finRange c)
      refine ⟨_, new, ?_, hbits, htold.device, htold.replies, htold.group, htold.kept, htold.engine, nofun,
        fun old prev _ ho hp => ?_⟩
      · rw [exec_linkStreamFrame hr, State.marker_live hrec hlen hl (hnew ▸ hacc), hnew]
      · have hold : s.lsr.accepted.getD 0 = old := by rw [ho]; rfl
        simp only [hold] at htells
        refine ⟨acc, hlsr, fun n _ => ?_, fun c hc => heach c ?_, fun c hc => hrest c ?_, hlist⟩
        · rw [hacc, ho, hp]
          exact debounceSlots_getLsbD old prev new n
        · rw [hold]
          exact (htells c).mpr hc
        · rw [hold, htells]
          rintro ⟨n, hn, hne⟩
          exact hne (hc n hn)
  · rw [exec_linkStreamFrame hr, State.marker_opens fun x hx => by rw [hrec] at hx; cases hx]
  · refine exec_streamStaleTimeout_early ?_
    rw [Bool.eq_false_iff, ne_eq, Lsr.staleDue_iff hl ht]
    omega
  · obtain ⟨htold, hlsr, heach, hlist⟩ :=
      s.streamPosted_spec { s.lsr with live := false, accepted := none, previous := none } (k := .streamLost)
        (by decide)
    obtain ⟨hgroup, hengine⟩ :=
      State.streamPosted_stale (s := s) (x := { s.lsr with live := false, accepted := none, previous := none })
        rfl .streamLost
    exact ⟨_, exec_streamStaleTimeout_due hr ((Lsr.staleDue_iff hl ht _).mpr hn), hlsr, htold.device, htold.replies,
      hgroup, hengine, heach, hlist⟩
  · exact exec_streamStaleTimeout_early (by simp [Lsr.staleDue, hl])

end Sys2Proof.Proofs
end

section
/-! The sequencer's timers that end in a module fault or a power fault (R45, R50, R83, R187, R189), the reads that a poll
timer repeats (R47, R49, R83, R189), and the poll schedule (R168). -/

namespace Sys2Proof.Machine

/-! ### Power faults (R104, R105) -/

/-- Only the timers of a cage's context have changed. -/
theorem State.modTimers_cage (s : State) (c : CageNo) (f : Timers → Timers) :
    (s.modTimers c f).cage c = { s.cage c with seq := { (s.cage c).seq with timers := f (s.cage c).seq.timers } } := by
  simp [State.modTimers, State.modSeq]

theorem State.modTimers_port (s : State) (c : CageNo) (f : Timers → Timers) (p : Port) :
    (s.modTimers c f).port p = s.port p := by
  cases p <;> rfl

/-- What a drain's start is told from: the time, the cage but for its timers, and the group. -/
theorem State.Draining.congr {s b u : State} {c : CageNo} {dest : Dest} {r : Option Reason} (h : b.Draining u c dest r)
    (ho : s.OnlyCage b c) (hs : ∃ t, (b.cage c).seq = { (s.cage c).seq with timers := t })
    (hc : (b.cage c).ciu = (s.cage c).ciu) (hb : (b.cage c).bus = (s.cage c).bus)
    (hk : (b.cage c).image = (s.cage c).image ∧ (b.cage c).profile = (s.cage c).profile ∧
      (b.cage c).outage = (s.cage c).outage)
    (hg : b.group (groupOf c) = s.group (groupOf c)) : s.Draining u c dest r := by
  obtain ⟨t, hs⟩ := hs
  obtain ⟨hi, hp, hr⟩ := hk
  have htable : (b.cage c).seq.drainTable = (s.cage c).seq.drainTable := by rw [hs]; rfl
  have hfirst : (b.cage c).seq.firstDrainSlot = (s.cage c).seq.firstDrainSlot := by rw [hs]; rfl
  exact
    { only := ho.trans h.only
      state := h.state
      slot := by rw [h.slot, hfirst]
      timers := by rw [h.timers, ho.device.now, htable]
      flags := h.flags
      low := h.low
      undone := by
        have hu := h.undone
        rw [htable, hfirst] at hu
        exact hu.congr hc hb
      queue := by rw [h.queue, hg]
      kept := by rw [h.kept.1, h.kept.2.1, h.kept.2.2]; exact ⟨hi, hp, hr⟩
      polls := h.polls }

/-- R104, R105: a powered cage that does not drain takes a power fault. -/
theorem State.powerFault_drains {s : State} {c : CageNo} (hr : (s.cage c).ciu.lines.rail = true)
    (hd : (s.cage c).seq.state ≠ .draining) (r : Reason) :
    s.Draining (s.powerFault c r) c .faulted (some r) ∧ s.Posted (s.powerFault c r) c .fault := by
  have he : s.powerFault c r = (s.post c .fault).startDrain c .faulted (some r) := by
    unfold State.powerFault
    rw [if_pos hr]
    split
    · next h => exact absurd h hd
    · rfl
  rw [he]
  refine ⟨((s.post c .fault).startDrain_spec c .faulted (some r)).congr ((only c).post s _) ⟨_, rfl⟩ rfl rfl
    ⟨rfl, rfl, rfl⟩ (by simp), fun p => ?_⟩
  rw [((s.post c .fault).startDrain_keeps c .faulted (some r)).2.2 p, s.post_posted c .fault p]

/-- R104: a power fault of a cage that drains to ADMIT_WAIT sends the drain to FAULTED. -/
theorem State.powerFault_redirects {s : State} {c : CageNo} (hr : (s.cage c).ciu.lines.rail = true)
    (hd : (s.cage c).seq.state = .draining) (ha : (s.cage c).seq.dest = some .admitWait) (r : Reason) :
    s.powerFault c r = (s.modSeq c fun q => { q with dest := some .faulted, reason := some r }).post c .fault := by
  simp [State.powerFault, hr, hd, ha]

theorem State.powerFault_redirected {s : State} {c : CageNo} (hr : (s.cage c).ciu.lines.rail = true)
    (hd : (s.cage c).seq.state = .draining) (ha : (s.cage c).seq.dest = some .admitWait) (r : Reason) :
    ((s.powerFault c r).cage c).seq = { (s.cage c).seq with dest := some .faulted, reason := some r } ∧
      ((s.powerFault c r).cage c).rlm = (s.cage c).rlm ∧ s.Posted (s.powerFault c r) c .fault := by
  rw [State.powerFault_redirects hr hd ha]
  refine ⟨by simp, by simp, fun p => ?_⟩
  rw [State.post_posted _ c .fault p]
  cases p <;> rfl

/-- R104: a drain to EMPTY or FAULTED goes on. -/
theorem State.powerFault_ignored {s : State} {c : CageNo} (hd : (s.cage c).seq.state = .draining)
    (ha : (s.cage c).seq.dest ≠ some .admitWait) (r : Reason) : s.powerFault c r = s := by
  unfold State.powerFault
  split
  · rw [hd]
    dsimp only
    split
    · next h => exact absurd h ha
    · rfl
  · rfl

/-- R45, R187: the expiry of an adopted cage's power-good limit, told from the state before it. -/
theorem State.adoptionLimit_drains {s : State} {c : CageNo} (hr : (s.cage c).ciu.lines.rail = true)
    (hd : (s.cage c).seq.state ≠ .draining) :
    s.Draining (s.adoptionLimit c) c .faulted (some .railFail) ∧ s.Posted (s.adoptionLimit c) c .fault := by
  obtain ⟨h1, h2⟩ := State.powerFault_drains (s := s.modTimers c fun t => { t with pgLimit := none }) (c := c)
    (by simpa using hr) (by simpa using hd) .railFail
  refine ⟨h1.congr ((only c).modTimers s _) ⟨_, by rw [State.modTimers_cage]⟩ (by simp) (by simp) (by simp) (by simp),
    fun p => ?_⟩
  rw [State.adoptionLimit, h2 p, State.modTimers_port]

/-! ### Reads made again -/

/-- R145: the item of an access does not regard the timers of the context. -/
theorem State.accessItem_modTimers (s : State) (c : CageNo) (f : Timers → Timers) (a : Access) :
    (s.modTimers c f).accessItem c a = s.accessItem c a := by
  have hm : (s.modTimers c f).mapOf c = s.mapOf c := State.mapOf_congr (by simp) (by simp)
  have hp : (s.modTimers c f).profile c = s.profile c := by simp [State.profile]
  have hl : (s.modTimers c f).laneCount c = s.laneCount c := by simp [State.laneCount]
  have ht : ∀ k, (s.modTimers c f).laneTx c k = s.laneTx c k := fun k => by simp [State.laneTx, hm, hp]
  have hq : ∀ k, (s.modTimers c f).lanePlan c k = s.lanePlan c k := fun k => by
    simp [State.lanePlan, hp, rawEq, requestedAmp, Ctx.tunedPair]
  cases a <;>
    simp [State.accessItem, hm, hl, hp, hq, ht, State.breakoutToWrite, State.squelchByte, State.txDisableByte]

/-- R47, R49, R83, R189: on a segment that takes items, the read that the poll timer stood for is posted again. -/
theorem State.pollDue_spec {s : State} {c : CageNo} (hb : (s.cage c).bus.seg = .connected) :
    s.SameReplies (s.pollDue c) ∧ s.SameLists (s.pollDue c) ∧
      ((s.pollDue c).cage c).seq = { (s.cage c).seq with timers := { (s.cage c).seq.timers with poll := none } } ∧
      ((s.pollDue c).engine (engineOf c)).waiting =
        (s.engine (engineOf c)).waiting ++ [s.accessItem c (s.cage c).seq.access] := by
  have hseg : ((s.modTimers c fun t => { t with poll := none }).cage c).bus.seg = .connected := by simpa using hb
  obtain ⟨hcage, -, hport, -, -⟩ :=
    (s.modTimers c fun t => { t with poll := none }).postSeq_parts c (s.cage c).seq.access hseg
  have hp : ∀ p, (s.pollDue c).port p = s.port p := fun p => by
    rw [State.pollDue, hport, State.modTimers_port]
  refine ⟨⟨fun p => by rw [hp], fun p => by rw [hp]⟩, fun p => by rw [hp], ?_, ?_⟩
  · rw [State.pollDue, hcage]
    simp
  · simp [State.pollDue, State.postSeq, hb, State.addItem, State.accessItem_cage, State.accessItem_modTimers]

/-- R168: on a segment that takes items, a due poll posts a POLL item unless one is pending, and the next poll time
advances. -/
theorem State.pollTimeReached_spec {s : State} {c : CageNo} (hb : (s.cage c).bus.seg = .connected) {t : Timer}
    (ht : (s.cage c).nextPoll = some t) :
    (∀ p, (s.pollTimeReached c).port p = s.port p) ∧
      (s.pollTimeReached c).cage c =
        { s.cage c with nextPoll := some ⟨t.start + BitVec.ofNat 32 t.len, s.settings.pollInterval⟩ } ∧
      (s.pollPending c = true → (s.pollTimeReached c).engine (engineOf c) = s.engine (engineOf c)) ∧
      (s.pollPending c = false →
        ((s.pollTimeReached c).engine (engineOf c)).waiting =
          (s.engine (engineOf c)).waiting ++ [s.statusItem c]) := by
  have hcage : (s.pollItem c).cage = c := rfl
  unfold State.pollTimeReached State.postPoll
  cases hp : s.pollPending c with
  | true => simp [ht, Timer.advance, Timer.deadline]
  | false =>
    simp only [hb, Bool.false_eq_true, if_false]
    refine ⟨fun p => by cases p <;> rfl, ?_, fun h => h.elim, fun _ => ?_⟩
    · simp [State.addItem, ht, Timer.advance, Timer.deadline]
    · simp [State.addItem, hcage, ← State.pollItem_eq]

end Sys2Proof.Machine

namespace Sys2Proof.Proofs

open Sys2Proof.Machine

/-- Settles O34: the three expiries by what a module fault does. -/
theorem moduleFaultTimersExpire : Obligations.ModuleFaultTimersExpire := by
  intro s c hr
  have faults : ∀ (i : Instr) (r : Reason), exec i s = .next (s.moduleFault c r).settle →
      ∃ u, exec i s = .next u.settle ∧ s.ModuleFaulted u c r ∧ s.SameReplies u := fun i r h =>
    ⟨_, h, s.moduleFault_spec c r, s.moduleFault_replies c r⟩
  refine ⟨fun hs ht => faults _ _ ?_, fun hs ht => faults _ _ ?_, fun hs ht => faults _ _ ?_⟩
  · exact expiry_due hr (s.expired_due (t := Timers.init) (by rcases hs with h | h <;> rw [h] <;> rfl) ht) _
  · exact expiry_due hr (s.expired_due (t := Timers.init) (by simp [hs]) ht) _
  · exact expiry_due hr (s.expired_due (t := Timers.settle) (by simp [hs]) ht) _

/-- Settles O32: a power fault starts a drain to FAULTED, or sends the one under way there. -/
theorem powerGoodLimitsExpire : Obligations.PowerGoodLimitsExpire := by
  intro s c hr hrail ht
  refine ⟨fun hs => ?_, fun hp hd => ?_, fun hd ha => ?_⟩
  · refine ⟨s.powerFault c .railFail, ?_, State.powerFault_drains hrail (by simp [hs]) .railFail⟩
    exact expiry_due hr (s.expired_due (t := Timers.pgLimit) (by simp [hs]) ht) _
  · refine ⟨s.adoptionLimit c, ?_, State.adoptionLimit_drains hrail hd⟩
    exact expiry_due hr (s.expired_due (t := Timers.pgLimit) (by simp [hp]) ht) _
  · obtain ⟨hseq, -, hposted⟩ := State.powerFault_redirected (s := s.modTimers c fun t => { t with pgLimit := none })
      (c := c) (by simpa using hrail) (by simpa using hd) (by simpa using ha) .railFail
    refine ⟨s.adoptionLimit c, ?_, (only c).adoptionLimit s, fun p => ?_, ?_⟩
    · exact expiry_due hr (s.expired_due (t := Timers.pgLimit) (by simp [hd]) ht) _
    · rw [State.adoptionLimit, hposted p, State.modTimers_port]
    · rw [State.adoptionLimit, hseq, State.modTimers_cage]

/-- Settles O33: the item of the access is posted again, and the poller posts its item unless one is pending. -/
theorem pollTimersExpire : Obligations.PollTimersExpire := by
  intro s c hr hb
  refine ⟨fun ht => ?_, fun t ht hdue => ?_⟩
  · exact ⟨_, expiry_due hr (s.expired_due (p := fun _ => true) (t := Timers.poll) rfl ht) _, (only c).pollDue s,
      State.pollDue_spec hb⟩
  · obtain ⟨hport, hspec⟩ := State.pollTimeReached_spec hb ht
    exact ⟨_, expiry_due hr (Reached.due ⟨t, ht, hdue⟩) _, (only c).pollTimeReached s,
      ⟨fun p => by rw [hport], fun p => by rw [hport]⟩, fun p => by rw [hport], hspec⟩

end Sys2Proof.Proofs
end

section
/-! The decision to proceed, by a master, by the decision window or by a resumption (R56, R57, R59, R61, R191), told from
the state that the request or the expiry found. -/

namespace Sys2Proof.Machine

/-! ### A module adopted at high power is adopted as new (R191) -/

/-- R168: on a segment that takes items, a cage that joins the polled set has a POLL item pending. -/
theorem State.joinPolls_pending (s : State) (c : CageNo) (hb : (s.cage c).bus.seg = .connected) :
    (s.joinPolls c).pollPending c = true := by
  have same : ∀ t : State, (s.joinPolls c).engine (engineOf c) = t.engine (engineOf c) →
      t.pollPending c = true → (s.joinPolls c).pollPending c = true := fun t he ht => by
    unfold State.pollPending at ht ⊢
    rw [he]
    exact ht
  have he : (s.joinPolls c).engine (engineOf c) = (s.postPoll c).engine (engineOf c) := rfl
  cases hp : s.pollPending c with
  | true => exact same s (by rw [he]; simp [State.postPoll, hp]) hp
  | false =>
    have hpost : s.postPoll c = s.addItem (s.pollItem c) := by simp [State.postPoll, hp, hb]
    have hcage : (s.pollItem c).cage = c := rfl
    have hof : (s.pollItem c).isOf c .poll = true := by simp [Item.isOf, State.pollItem, readItem]
    refine same (s.addItem (s.pollItem c)) (by rw [he, hpost]) ?_
    simp [State.pollPending, State.addItem, hcage, hof]

/-- R92: a cage in LINK_WAIT, before it joins the polled set. -/
def State.linkBase (s : State) (c : CageNo) (limit : Option Nat) : State :=
  (s.enter c .linkWait .none).modSeq c fun q =>
    { q with
      timers := { link := some ⟨s.now, (s.profile c).linkTimeout * 100⟩ }
      access := .none
      retryLimit := limit }

theorem State.enterLinkWait_eq (s : State) (c : CageNo) (limit : Option Nat) :
    s.enterLinkWait c limit = ((s.linkBase c limit).joinPolls c).evalLink c := rfl

/-- R92: on a segment that takes items, a cage whose links are not all up stays in LINK_WAIT. -/
theorem State.enterLinkWait_waits {s : State} {c : CageNo} (limit : Option Nat) (hb : (s.cage c).bus.seg = .connected)
    (hx : s.summary c ≠ .allUp) : s.enterLinkWait c limit = (s.linkBase c limit).joinPolls c := by
  obtain ⟨hcage, -, hlsr⟩ := (s.linkBase c limit).joinPolls_spec c (by simpa [State.linkBase] using hb)
  have hsum : ((s.linkBase c limit).joinPolls c).summary c = s.summary c := by
    unfold State.summary State.laneCount
    rw [hcage, hlsr]
    simp [State.linkBase]
  have hstate : (((s.linkBase c limit).joinPolls c).cage c).seq.state = .linkWait := by
    rw [hcage]
    simp [State.linkBase, Ctx.entered]
  rw [State.enterLinkWait_eq, State.evalLink_linkWait hstate, hsum, if_neg hx]

/-- R168: on a segment that takes items, to join the polled set touches no group. -/
theorem State.joinPolls_group {s : State} {c : CageNo} (hb : (s.cage c).bus.seg = .connected) (g : GroupNo) :
    (s.joinPolls c).group g = s.group g := by
  unfold State.joinPolls State.postPoll
  split
  · rfl
  · simp [hb, State.addItem, State.modCiu]

theorem State.pollFailed_mute (s : State) (c : CageNo) : mute.To s (s.pollFailed c) := (s.pollFailed_spec c).replies

theorem State.joinPolls_mute (s : State) (c : CageNo) : mute.To s (s.joinPolls c) := by
  have hpost : mute.To s (s.postPoll c) := by
    unfold State.postPoll
    refine .ite (mute.refl s) ?_
    split
    · exact s.modEngine_mute _ _
    · exact s.pollFailed_mute c
    · exact mute.refl s
  exact (hpost.trans (State.modCage_mute _ c _)).trans (State.modCage_mute _ c _)

theorem State.enterLinkWait_mute (s : State) (c : CageNo) (limit : Option Nat) : mute.To s (s.enterLinkWait c limit) :=
  (((s.enter_mute c _ _).trans (State.modSeq_mute _ c _)).trans (State.joinPolls_mute _ c)).trans (State.evalLink_mute _ c)

/-- R59, R191: what goes out of DECIDE answers no port. -/
theorem State.proceed_mute (s : State) (c : CageNo) (d : Decision) (src : Source) : mute.To s (s.proceed c d src) := by
  cases d with
  | restore => exact s.proceedRestore_mute c src
  | adoptNew =>
    unfold State.proceed
    exact .ite ((s.commit_mute c _ _).trans (State.enterLinkWait_mute _ c none))
      ((((s.commit_mute c _ _).trans (State.stopWork_mute _ c)).trans (State.enter_mute _ c _ _)).trans
        (State.enqueue_mute _ c _ _ _))

/-- R191: a module adopted at high power that is adopted as new goes to LINK_WAIT without a write. -/
theorem State.proceed_adoptNew {s : State} {c : CageNo} (h : s.AtHp c) (src : Source) :
    s.proceed c .adoptNew src = (s.commit c .adoptNew src).enterLinkWait c none := by
  obtain ⟨hadopted, hhp, -⟩ := h
  simp [State.proceed, hadopted, hhp]

theorem State.commit_summary (s : State) (c : CageNo) (d : Decision) (src : Source) :
    (s.commit c d src).summary c = s.summary c := by
  simp [State.summary, State.laneCount, State.commit]

theorem State.proceed_links {s : State} {c : CageNo} (h : s.AtHp c) (hx : s.summary c ≠ .allUp) (src : Source) :
    s.AdoptedLinks (s.proceed c .adoptNew src) c src := by
  have honly := (only c).proceed s .adoptNew src
  rw [State.proceed_adoptNew h, State.enterLinkWait_waits none (by simpa [State.commit] using h.2.2)
    (by rwa [State.commit_summary])] at honly ⊢
  generalize ht : (s.commit c .adoptNew src).linkBase c none = t at honly ⊢
  have hseg : (t.cage c).bus.seg = .connected := by simpa [← ht, State.linkBase, State.commit] using h.2.2
  obtain ⟨hcage, hlists, -⟩ := t.joinPolls_spec c hseg
  have hnow : t.now = s.now := by simp [← ht, State.linkBase, State.commit]
  have hset : t.settings = s.settings := by simp [← ht, State.linkBase, State.commit]
  refine ⟨⟨honly, fun p => ?_, ?_, ?_, ?_, ?_⟩, ?_, ?_, ?_, ?_, t.joinPolls_pending c hseg⟩
  · rw [hlists, ← ht]
    cases p <;> simp [State.linkBase, State.commit, State.port]
  · rw [hcage, ← ht]
    simp [State.linkBase, State.commit, Ctx.entered]
  · rw [hcage, ← ht]
    simp [State.linkBase, State.commit, Ctx.entered, SeqState.quiets, SeqState.frees]
  · rw [hcage, ← ht]
    simp [State.linkBase, State.commit, Outage.isOpen]
  · rw [hcage, State.joinPolls_group hseg, ← ht]
    simp [State.linkBase, State.commit, Ctx.entered]
  · rw [hcage, ← ht]
    simp [State.linkBase, State.commit, Ctx.entered]
  · rw [hcage, ← ht]
    simp [State.linkBase, State.commit, State.profile]
  · rw [hcage, ← ht]
    simp [State.linkBase, State.commit]
  · rw [hcage, hnow, hset]

/-- R78, R92, R191: with every link up it enters IN_SERVICE at once. -/
theorem State.proceed_serves {s : State} {c : CageNo} (h : s.AtHp c) (hx : s.summary c = .allUp) (src : Source) :
    ((s.proceed c .adoptNew src).cage c).seq.state = .inService := by
  rw [State.proceed_adoptNew h]
  exact ((s.commit c .adoptNew src).enterLinkWait_spec c none (by simpa [State.commit] using h.2.2)).2
    (by rwa [State.commit_summary])

/-- R59, R78, R121: a decision for a cage without an adopted module at high power. -/
theorem State.proceed_byBudget {s : State} {c : CageNo} (h : s.Plain c) (d : Decision) (src : Source) :
    s.ProceedsByBudget (s.proceed c d src) c d src :=
  ⟨fun hb => ⟨s.proceed_spec c d src h hb, fun p => by rw [s.proceed_ports c d src h hb]⟩, s.proceed_never c d src h⟩

/-! ### The decision window (R56) -/

/-- What stops every timer does not regard those that ran. -/
theorem State.stopWork_modTimers (s : State) (c : CageNo) (f : Timers → Timers) :
    (s.modTimers c f).stopWork c = s.stopWork c := by
  simp [State.stopWork, State.modTimers, State.modSeq]

theorem State.parkFromDecide_modTimers (s : State) (c : CageNo) (f : Timers → Timers) (r : Reason)
    (src : Option Source) : (s.modTimers c f).parkFromDecide c r src = s.parkFromDecide c r src := by
  simp [State.parkFromDecide, State.parkNow, State.stopWork_modTimers]

/-- R56, R59: a decision stops the window itself. -/
theorem State.proceed_stopsWindow (s : State) (c : CageNo) (d : Decision) (src : Source) :
    (s.modTimers c fun t => { t with window := none }).proceed c d src = s.proceed c d src := by
  have hcommit : (s.modTimers c fun t => { t with window := none }).commit c d src = s.commit c d src := by
    simp [State.commit, State.modTimers, State.modSeq, State.profile]
  simp [State.proceed, hcommit]

/-- R56: the fallback is applied as it would be while the window runs. -/
theorem State.windowOver_proceed {s : State} {c : CageNo} (h : (s.profile c).fallback = .proceed) :
    s.windowOver c = s.proceed c .restore .fallback := by
  simp [State.windowOver, h, State.proceed_stopsWindow]

theorem State.windowOver_park {s : State} {c : CageNo} (h : (s.profile c).fallback = .park) :
    s.windowOver c = s.parkFromDecide c .windowExpired (some .fallback) := by
  simp [State.windowOver, h, State.parkFromDecide_modTimers]

/-! ### Requests that are answered at the end of the step (R174) -/

section
variable (s : State) (q : Req) (code : Byte) (r : List Byte)

/-- R174: what a request did without an answer is answered with its status. -/
theorem State.take_answered {v : State} (hm : mute.To (s.take q.port code q.target r) v) (st : ReplyStatus)
    (d : List Byte) : s.Answered (v.answer q.port st d) q code st d := by
  refine ⟨State.answer_answers ((hm.reply q.port).trans (s.take_reply ..)) _ _, ?_⟩
  rw [State.answer_port_ne _ (port_other_ne q.port), hm.reply, hm.request,
    State.take_port_ne _ _ _ (port_other_ne q.port)]
  exact ⟨rfl, rfl⟩

/-- R174: a request is taken and, after what it does, answered: from the state before to the state after, but for the reply
slots, the part does what `f` does. -/
theorem State.take_answer_slots {P : State → State → Prop} (f : State → State) (st : ReplyStatus) (d : List Byte)
    (hP : ∀ {s u : State} {x y : Port → Option (List Byte) × ReplySlot}, P s u → P (s.slots x) (u.slots y))
    (hf : ∀ s, P s (f s)) : P s ((f (s.take q.port code q.target r)).answer q.port st d) := by
  obtain ⟨x, hx⟩ := s.take_slots q.port code q.target r
  obtain ⟨y, hy⟩ := (f (s.slots x)).answer_slots q.port st d
  rw [hx, hy]
  have h := hP (x := fun p => ((s.port p).request, (s.port p).reply)) (y := y) (hf (s.slots x))
  rwa [State.slots_back] at h

end

theorem State.AdoptedLinks.slots {s u : State} {c : CageNo} {src : Source} {f g : Port → Option (List Byte) × ReplySlot}
    (h : s.AdoptedLinks u c src) : (s.slots f).AdoptedLinks (u.slots g) c src :=
  { h with decided := { h.decided with only := h.decided.only.slots, lists := h.decided.lists.slots } }

theorem State.ProceedsByBudget.slots {s u : State} {c : CageNo} {d : Decision} {src : Source}
    {f g : Port → Option (List Byte) × ReplySlot} (h : s.ProceedsByBudget u c d src) :
    (s.slots f).ProceedsByBudget (u.slots g) c d src :=
  ⟨fun hb => ⟨(h.1 hb).1.slots, (h.1 hb).2.slots⟩, fun hb => (h.2 hb).slots⟩

/-! ### DECIDE (R57) -/

section
variable {s : State} {q : Req} {c : CageNo}

/-- R57: the state in which a DECIDE request of a decision has been taken. -/
def State.takeDecide (s : State) (q : Req) (d : Byte) : State :=
  s.take q.port 0x04 q.target (recordOf q (decideShape d))

theorem exec_decideRestore (h : s.TakesFor q 1 0 c) :
    exec (.decideRestore q) s =
      .next ((s.takeDecide q 0).ifWaiting q.port c fun s => s.decideRestore q.port c) := by
  have hx : exec (.decideRestore q) s =
    event s fun s => s.serveCage q (decideShape 0) fun c s =>
      s.ifWaiting q.port c fun s => s.decideRestore q.port c := rfl
  rw [hx, event_awake h.takes.awake, State.serveCage_takes h rfl rfl rfl]
  rfl

theorem exec_decideAdoptNew (h : s.TakesFor q 1 0 c) :
    exec (.decideAdoptNew q) s =
      .next ((s.takeDecide q 1).ifWaiting q.port c fun s => s.decideProceed q.port c .adoptNew) := by
  have hx : exec (.decideAdoptNew q) s =
    event s fun s => s.serveCage q (decideShape 1) fun c s =>
      s.ifWaiting q.port c fun s => s.decideProceed q.port c .adoptNew := rfl
  rw [hx, event_awake h.takes.awake, State.serveCage_takes h rfl rfl rfl]
  rfl

theorem exec_decidePark (h : s.TakesFor q 1 0 c) :
    exec (.decidePark q) s =
      .next ((s.takeDecide q 2).ifWaiting q.port c fun s => s.decidePark q.port c) := by
  have hx : exec (.decidePark q) s =
    event s fun s => s.serveCage q (decideShape 2) fun c s => s.ifWaiting q.port c fun s => s.decidePark q.port c := rfl
  rw [hx, event_awake h.takes.awake, State.serveCage_takes h rfl rfl rfl]
  rfl

/-- R57: a decision for a cage that does not wait is answered NOT_WAITING. -/
theorem State.takeDecide_notWaiting (d : Byte) (hw : (s.cage c).seq.waiting = false) (f : State → State) :
    (s.takeDecide q d).ifWaiting q.port c f = s.replied q 0x04 .notWaiting [] := by
  simp [State.ifWaiting, State.takeDecide, State.take_cage, hw, State.take_answer]

theorem State.takeDecide_waiting (d : Byte) (hw : (s.cage c).seq.waiting = true) (f : State → State) :
    (s.takeDecide q d).ifWaiting q.port c f = f (s.takeDecide q d) := by
  simp [State.ifWaiting, State.takeDecide, State.take_cage, hw]

/-- R57, R59: what a decision to proceed answers and does. -/
theorem State.takeDecide_proceeds (b : Byte) (d : Decision) :
    let u := ((s.takeDecide q b).proceed c d (portSource q.port)).answer q.port .ok []
    s.Answered u q 0x04 .ok [] ∧ (s.Plain c → s.ProceedsByBudget u c d (portSource q.port)) :=
  ⟨s.take_answered q _ _ (State.proceed_mute _ c d _) _ _,
    s.take_answer_slots q _ _ (P := fun s u => s.Plain c → s.ProceedsByBudget u c d (portSource q.port))
      (fun s => s.proceed c d (portSource q.port)) _ _ (fun h hp => (h hp).slots) fun _ hp => State.proceed_byBudget hp _ _⟩

/-- R57, R60: what a decision to park answers and does. -/
theorem State.takeDecide_parks (b : Byte) :
    let u := ((s.takeDecide q b).parkFromDecide c .master (some (portSource q.port))).answer q.port .ok []
    s.Answered u q 0x04 .ok [] ∧ s.ParksInDecide u c .master (some (portSource q.port)) :=
  ⟨s.take_answered q _ _ (State.parkFromDecide_mute _ c _ _) _ _,
    s.take_answer_slots q _ _ (P := fun s u => s.ParksInDecide u c .master (some (portSource q.port)))
      (fun s => s.parkFromDecide c .master (some (portSource q.port))) _ _ (fun h => h.slots) fun s => s.parkFromDecide_spec c _ _⟩

end

end Sys2Proof.Machine

namespace Sys2Proof.Proofs

open Sys2Proof.Machine

/-- Settles O35: the fallback goes out of DECIDE as a park or as a decision to proceed, which stop the window themselves. -/
theorem decisionWindowExpires : Obligations.DecisionWindowExpires := by
  intro s c hr hs ht
  have hexec : exec (.decisionWindowExpiry c) s = .next (s.windowOver c).settle :=
    expiry_due hr (s.expired_due (t := Timers.window) (by simp [hs]) ht) _
  refine ⟨fun hf => ?_, fun hf => ?_⟩
  · rw [State.windowOver_park hf] at hexec
    exact ⟨_, hexec, s.parkFromDecide_mute c _ _, s.parkFromDecide_spec c _ _⟩
  · rw [State.windowOver_proceed hf] at hexec
    exact ⟨_, hexec, s.proceed_mute c _ _, fun h => State.proceed_byBudget h _ _, fun h => (s.proceed_hp c _ h).1⟩

/-- Settles O44: a request is taken, goes out of DECIDE as its decision says, and is answered. -/
theorem decisionsAreTaken : Obligations.DecisionsAreTaken := by
  intro s q c h
  rw [exec_decideRestore h, exec_decideAdoptNew h, exec_decidePark h]
  refine ⟨fun hw => ?_, fun hw hv => ?_, fun hw => ⟨fun hv => ?_, ?_, ?_⟩⟩
  · simp only [State.takeDecide_notWaiting _ hw, and_self]
  · have hinvalid : ((s.takeDecide q 0).cage c).profile.valid ≠ true := by
      rw [State.takeDecide, State.take_cage, hv]
      decide
    rw [State.takeDecide_waiting _ hw, State.decideRestore, if_neg hinvalid, State.takeDecide, State.take_answer]
  · obtain ⟨hans, hplain⟩ := State.takeDecide_proceeds (s := s) (q := q) (c := c) 0 .restore
    refine ⟨_, ?_, hans, hplain, s.take_answer_slots q _ _ (P := fun s u => s.AtHp c → s.AdoptedRestores u c _)
      (fun s => s.proceed c .restore (portSource q.port)) _ _ (fun h hp => (h hp).slots) fun s hp => (s.proceed_hp c _ hp).1⟩
    have hvalid : ((s.takeDecide q 0).cage c).profile.valid = true := by rwa [State.takeDecide, State.take_cage]
    rw [State.takeDecide_waiting _ hw, State.decideRestore, if_pos hvalid]
    rfl
  · obtain ⟨hans, hplain⟩ := State.takeDecide_proceeds (s := s) (q := q) (c := c) 1 .adoptNew
    refine ⟨_, ?_, hans, hplain, fun hp hx => ?_, fun hp hx => ?_⟩
    · rw [State.takeDecide_waiting _ hw]
      rfl
    · exact s.take_answer_slots q _ _ (P := fun s u => s.AtHp c → s.summary c ≠ .allUp → s.AdoptedLinks u c _)
        (fun s => s.proceed c .adoptNew (portSource q.port)) _ _ (fun h hp hx => (h hp hx).slots)
        (fun s hp hx => State.proceed_links hp hx _) hp hx
    · exact s.take_answer_slots q _ _ (P := fun s u => s.AtHp c → s.summary c = .allUp → (u.cage c).seq.state = .inService)
        (fun s => s.proceed c .adoptNew (portSource q.port)) _ _ (fun h hp hx => h hp hx)
        (fun s hp hx => State.proceed_serves hp hx _) hp hx
  · refine ⟨_, ?_, State.takeDecide_parks 2⟩
    rw [State.takeDecide_waiting _ hw]
    rfl

end Sys2Proof.Proofs
end

section
/-! How a parked cage resumes (R61, R111) and how a fault is cleared (R109, R110), as commands and as requests that are
answered. -/

namespace Sys2Proof.Machine

/-! ### ADMIT_WAIT, told from a context with another reason (R41) -/

/-- What an entry to ADMIT_WAIT is told from: the group, the lines, the charge, the profile, the record and the insertion
time. -/
structure State.AdmitsAlike (s b : State) (c : CageNo) : Prop where
  only : s.OnlyCage b c
  group : b.group (groupOf c) = s.group (groupOf c)
  lists : s.SameLists b
  lines : (b.cage c).ciu.lines = (s.cage c).ciu.lines
  charge : (b.cage c).charge = (s.cage c).charge
  profile : (b.cage c).profile = (s.cage c).profile
  outage : (b.cage c).outage = (s.cage c).outage
  insertion : (b.cage c).seq.insertion = (s.cage c).seq.insertion

theorem State.AdmitsAlike.newEntry {s b : State} {c : CageNo} (h : s.AdmitsAlike b c) (k : QueueKind) (n : Nat) :
    b.newEntry c k n = s.newEntry c k n := by
  simp [State.newEntry, State.profile, h.profile, h.only.device.now, h.only.device.elapsed]

theorem State.AdmitsAlike.admitted {s b u : State} {c : CageNo} {image : Image} (h : s.AdmitsAlike b c)
    (ha : b.Admitted u c image) : s.Admitted u c image :=
  { ha with
    only := h.only.trans ha.only
    queued := by rw [ha.queued, h.group, h.newEntry]
    power := ⟨ha.power.1.trans h.lines, ha.power.2.trans h.charge⟩
    kept := ⟨ha.kept.1.trans h.profile, ha.kept.2.1.trans h.outage, ha.kept.2.2.trans h.insertion⟩ }

theorem State.AdmitsAlike.asks {s b u : State} {c : CageNo} {image : Image} (h : s.AdmitsAlike b c)
    (ha : b.AsksAdmission u c image) : s.AsksAdmission u c image := by
  obtain ⟨hfits, hnever⟩ := ha
  rw [h.group] at hfits hnever
  refine ⟨fun hb => ?_, fun hb => ?_⟩
  · obtain ⟨ha, hl⟩ := hfits hb
    exact ⟨h.admitted ha, fun p => (hl p).trans (h.lists p)⟩
  · obtain ⟨hn, hp, hi⟩ := hnever hb
    refine ⟨?_, fun p => by rw [hp p, h.lists p], hi.trans h.insertion⟩
    exact
      { hn with
        only := h.only.trans hn.only
        group := hn.group.trans h.group
        power := ⟨hn.power.1.trans h.lines, hn.power.2.trans h.charge⟩
        record := by rw [hn.record, h.only.device.now, h.outage]
        kept := hn.kept.trans h.profile }

/-- R41, R121: an entry to ADMIT_WAIT is queued or parked by the group's budget. -/
theorem State.enterAdmit_asks (s : State) (c : CageNo) : s.AsksAdmission (s.enterAdmit c) c (s.cage c).image := by
  refine ⟨fun hb => ⟨s.enterAdmit_spec c hb, fun p => by rw [s.enterAdmit_port c hb]⟩, fun hb => ?_⟩
  obtain ⟨hn, hp, -, hi⟩ := s.enterAdmit_never c hb
  exact ⟨hn, hp, hi⟩

theorem State.enterAdmit_mute (s : State) (c : CageNo) : mute.To s (s.enterAdmit c) :=
  (((s.stopWork_mute c).trans (State.enter_mute _ c _ _)).trans (State.modSeq_mute _ c _)).trans
    (State.enqueue_mute _ c _ _ _)

/-! ### Resumption (R61, R111) -/

/-- R61: a parked cage whose reason is cleared. -/
def State.reasonCleared (s : State) (c : CageNo) : State := s.modSeq c fun q => { q with reason := none }

theorem State.reasonCleared_alike (s : State) (c : CageNo) : s.AdmitsAlike (s.reasonCleared c) c := by
  unfold State.reasonCleared
  refine ⟨(only c).modSeq s _, ?_, fun p => ?_, ?_, ?_, ?_, ?_, ?_⟩
  rotate_left
  · cases p <;> rfl
  all_goals simp

section
variable {s : State} {c : CageNo}

theorem State.resume_unpowered (hr : (s.cage c).ciu.lines.rail = false) :
    s.resume c = (s.reasonCleared c).enterAdmit c := by
  simp [State.resume, hr, State.reasonCleared]

theorem State.resume_unmapped (hr : (s.cage c).ciu.lines.rail = true) (hn : (s.cage c).seq.reason = some .noFieldMap) :
    s.resume c = (s.reasonCleared c).enterFind c := by
  simp [State.resume, hr, hn, State.reasonCleared]

theorem State.resume_decides (hr : (s.cage c).ciu.lines.rail = true) (hn : (s.cage c).seq.reason ≠ some .noFieldMap) :
    s.resume c = ((s.reasonCleared c).enter c .decide .none).decideEval c := by
  simp [State.resume, hr, hn, State.reasonCleared]

/-- R61: an unpowered cage resumes in ADMIT_WAIT. -/
theorem State.resume_asks (hr : (s.cage c).ciu.lines.rail = false) :
    s.AsksAdmission (s.resume c) c (s.cage c).image := by
  have h := (s.reasonCleared_alike c).asks ((s.reasonCleared c).enterAdmit_asks c)
  rw [State.resume_unpowered hr]
  simpa [State.reasonCleared] using h

/-- R54, R61: a powered cage resumes in DECIDE with an evaluation. -/
theorem State.reasonCleared_reenters (s : State) (c : CageNo) :
    s.ReenteredDecide ((s.reasonCleared c).enter c .decide .none) c := by
  have hports : ∀ p, ((s.reasonCleared c).enter c .decide .none).port p = s.port p := fun p => by
    cases p <;> simp [State.reasonCleared, State.port]
  refine ⟨((only c).modSeq s _).trans ((only c).enter _ _ _), fun p => by rw [hports],
    ⟨fun p => by rw [hports], fun p => by rw [hports]⟩, ?_, ?_, ?_, ?_⟩
  all_goals simp [State.reasonCleared, Ctx.entered, SeqState.quiets, SeqState.frees, SeqState.service, SeqState.polled]

theorem State.resume_evaluates (hr : (s.cage c).ciu.lines.rail = true)
    (hn : (s.cage c).seq.reason ≠ some .noFieldMap) :
    ∃ b, s.ReenteredDecide b c ∧ b.Evaluated (s.resume c) c :=
  ⟨_, s.reasonCleared_reenters c, by rw [State.resume_decides hr hn]; exact State.decideEval_spec _ c⟩

/-- R47, R61: on a segment that takes items, an entry to IDENTIFY at FIND starts the init timer and posts nothing. -/
theorem State.enterFind_spec (hb : (s.cage c).bus.seg = .connected) :
    s.SameLists (s.enterFind c) ∧ ((s.enterFind c).cage c).seq.state = .identify ∧
      ((s.enterFind c).cage c).seq.stage = .find ∧ ((s.enterFind c).cage c).seq.reason = (s.cage c).seq.reason ∧
      ((s.enterFind c).cage c).seq.timers.init = some ⟨s.now, (s.profile c).initTimeout⟩ := by
  unfold State.enterFind State.startIdentPoll
  dsimp only
  generalize ht : (State.modImage (State.modTimers _ c _) c _ : State) = t
  have hseg : (t.cage c).bus.seg = .connected := by rw [← ht]; simpa using hb
  obtain ⟨hcage, -, hport, -⟩ := t.postSeq_parts c .ident hseg
  refine ⟨fun p => ?_, ?_⟩
  · rw [hport, ← ht]
    cases p <;> simp [State.port]
  · rw [hcage, ← ht]
    simp [Ctx.entered]

theorem State.resume_finds (hr : (s.cage c).ciu.lines.rail = true) (hn : (s.cage c).seq.reason = some .noFieldMap)
    (hb : (s.cage c).bus.seg = .connected) :
    s.SameLists (s.resume c) ∧ ((s.resume c).cage c).seq.state = .identify ∧
      ((s.resume c).cage c).seq.stage = .find ∧ ((s.resume c).cage c).seq.reason = none ∧
      ((s.resume c).cage c).seq.timers.init = some ⟨s.now, (s.profile c).initTimeout⟩ := by
  obtain ⟨hlists, hstate, hstage, hreason, hinit⟩ :=
    State.enterFind_spec (s := s.reasonCleared c) (c := c) (by simpa [State.reasonCleared] using hb)
  rw [State.resume_unmapped hr hn]
  refine ⟨fun p => (hlists p).trans ((s.reasonCleared_alike c).lists p), hstate, hstage, ?_, ?_⟩
  · rw [hreason]
    simp [State.reasonCleared]
  · rw [hinit]
    simp [State.reasonCleared, State.profile]

theorem State.enterFind_mute (s : State) (c : CageNo) : mute.To s (s.enterFind c) := by
  have hfind : mute.To s (s.enter c .identify .find) := s.enter_mute c _ _
  unfold State.enterFind State.startIdentPoll
  dsimp only
  exact (hfind.trans (State.modSeq_mute _ c _)).trans
    (Rel.To.trans (State.modCage_mute _ c _) (State.postSeq_mute _ c _))

theorem State.resume_mute (s : State) (c : CageNo) : mute.To s (s.resume c) := by
  have hcleared : mute.To s (s.reasonCleared c) := s.modSeq_mute c _
  have hdecide : mute.To s ((s.reasonCleared c).enter c .decide .none) := hcleared.trans (State.enter_mute _ c _ _)
  by_cases hr : (s.cage c).ciu.lines.rail = true
  · by_cases hn : (s.cage c).seq.reason = some .noFieldMap
    · rw [State.resume_unmapped hr hn]
      exact hcleared.trans (State.enterFind_mute _ c)
    · rw [State.resume_decides hr hn]
      exact hdecide.trans (State.decideEval_mute _ c)
  · rw [State.resume_unpowered (by simpa using hr)]
    exact hcleared.trans (State.enterAdmit_mute _ c)

end

/-! ### What was answered before and after (R174) -/

section
variable {s u : State} {c : CageNo} {f g : Port → Option (List Byte) × ReplySlot}

theorem State.AsksAdmission.slots {image : Image} (h : s.AsksAdmission u c image) :
    (s.slots f).AsksAdmission (u.slots g) c image :=
  ⟨fun hb => ⟨{ (h.1 hb).1 with only := (h.1 hb).1.only.slots }, (h.1 hb).2.slots⟩,
    fun hb => ⟨{ (h.2 hb).1 with only := (h.2 hb).1.only.slots }, (h.2 hb).2.1.slots, (h.2 hb).2.2⟩⟩

theorem State.Draining.slots {dest : Dest} {r : Option Reason} (h : s.Draining u c dest r) :
    (s.slots f).Draining (u.slots g) c dest r :=
  { h with only := h.only.slots }

theorem State.ReenteredDecide.slots (h : s.ReenteredDecide u c) : (s.slots f).ReenteredDecide (u.slots f) c :=
  { only := h.only.slots
    lists := h.lists.slots
    replies := ⟨fun p => by cases p <;> rfl, fun p => by cases p <;> rfl⟩
    seq := h.seq
    image := h.image
    kept := h.kept
    polls := h.polls }

end

/-! ### RELEASE (R61) -/

section
variable {s : State} {q : Req} {c : CageNo}

theorem exec_release (h : s.TakesFor q 0 0 c) :
    exec (.release q) s = .next ((s.take q.port 0x05 q.target (recordOf q (plain 0x05 0))).release q.port c) := by
  have hx : exec (.release q) s =
    event s fun s => s.serveCage q (plain 0x05 0) fun c s => s.release q.port c := rfl
  rw [hx, event_awake h.takes.awake, State.serveCage_takes h rfl rfl rfl]
  rfl

theorem exec_release_parked (h : s.TakesFor q 0 0 c) (hp : (s.cage c).seq.state = .parked) :
    exec (.release q) s =
      .next (((s.take q.port 0x05 q.target (recordOf q (plain 0x05 0))).resume c).answer q.port .ok []).settle := by
  rw [exec_release h, State.release, State.take_cage, if_pos hp]
  rfl

/-! ### CLEAR_FAULT (R109) -/

theorem exec_clearFault (h : s.TakesFor q 0 0 c) :
    exec (.clearFault q) s =
      .next ((s.take q.port 0x07 q.target (recordOf q (plain 0x07 0))).clearFault q.port c) := by
  have hx : exec (.clearFault q) s =
    event s fun s => s.serveCage q (plain 0x07 0) fun c s => s.clearFault q.port c := rfl
  rw [hx, event_awake h.takes.awake, State.serveCage_takes h rfl rfl rfl]
  rfl

end

/-- R108: what a power fault is. -/
theorem Ctx.powerFaulted_iff (q : Ctx) :
    q.powerFaulted = true ↔
      q.state = .faulted ∧ (q.reason = some .railFail ∨ q.reason = some .overdraw ∨ q.reason = some .groupFeed) := by
  unfold Ctx.powerFaulted
  cases q.reason with
  | none => simp
  | some r => cases r <;> simp [Reason.isPower]

/-- R109: what CLEAR_FAULT does, by the fault it finds. -/
theorem State.clearFault_notFaulted {s : State} {c : CageNo} (h : (s.cage c).seq.state ≠ .faulted) (p : Port) :
    s.clearFault p c = s.answer p .state [] := by
  simp [State.clearFault, Ctx.moduleFaulted, Ctx.powerFaulted, h]

theorem State.clearFault_power {s : State} {c : CageNo} (h : (s.cage c).seq.powerFaulted = true) (p : Port) :
    s.clearFault p c = if p = .A then s.answer p .notPermitted [] else (s.readmit c).done p .ok [] := by
  simp [State.clearFault, h]

theorem State.clearFault_module {s : State} {c : CageNo} (hf : (s.cage c).seq.state = .faulted)
    (h : (s.cage c).seq.powerFaulted ≠ true) (p : Port) :
    s.clearFault p c = (s.startDrain c .admitWait none).done p .ok [] := by
  simp [State.clearFault, Ctx.moduleFaulted, hf, h]

/-- R109, R174: a drain that starts between the taking of a request and its answer ends no passthrough of the port. -/
theorem State.take_startDrain_reply {s : State} {p : Port} (hn : s.NoPass p) (code target : Byte) (r : List Byte)
    (c : CageNo) (dest : Dest) (reason : Option Reason) (st : ReplyStatus) (d : List Byte) :
    ((((s.take p code target r).startDrain c dest reason).answer p st d).port p).reply =
      .answered st code target d := by
  obtain ⟨-, hreply, -⟩ := (State.KeepsSlots.closed c p).startDrain (s.take p code target r) dest reason
    (State.take_noPass s p code target r hn.any c)
  exact (State.answer_answers (hreply.trans (s.take_reply ..)) st d).1

end Sys2Proof.Machine

namespace Sys2Proof.Proofs

open Sys2Proof.Machine

/-- Settles O45: a parked cage resumes between the taking of the request and its answer. -/
theorem releaseResumes : Obligations.ReleaseResumes := by
  intro s q c h
  refine ⟨fun hp => ?_, fun hp => ?_⟩
  · rw [exec_release h, State.release, State.take_cage, if_neg hp, State.take_answer]
  · have hans := s.take_answered q 0x05 (recordOf q (plain 0x05 0)) (State.resume_mute _ c) .ok []
    have honly := s.take_answer_slots q 0x05 (recordOf q (plain 0x05 0)) (P := fun s u => s.OnlyCage u c)
      (fun s => s.resume c) .ok [] (fun h => h.slots) fun s => (only c).resume s
    rw [exec_release_parked h hp]
    refine ⟨fun hr => ⟨_, rfl, ?_, hans⟩, fun hr hn hb => ⟨_, rfl, honly, hans, ?_⟩, fun hr hn => ?_⟩
    · exact s.take_answer_slots q _ _
        (P := fun s u => (s.cage c).ciu.lines.rail = false → s.AsksAdmission u c (s.cage c).image)
        (fun s => s.resume c) _ _ (fun h hr => (h hr).slots) (fun s hr => State.resume_asks hr) hr
    · exact s.take_answer_slots q _ _
        (P := fun s u => (s.cage c).ciu.lines.rail = true → (s.cage c).seq.reason = some .noFieldMap →
          (s.cage c).bus.seg = .connected →
            s.SameLists u ∧ (u.cage c).seq.state = .identify ∧ (u.cage c).seq.stage = .find ∧
              (u.cage c).seq.reason = none ∧
              (u.cage c).seq.timers.init = some ⟨s.now, (s.profile c).initTimeout⟩)
        (fun s => s.resume c) _ _ (fun h hr hn hb => ⟨(h hr hn hb).1.slots, (h hr hn hb).2⟩)
        (fun s hr hn hb => State.resume_finds hr hn hb) hr hn hb
    · obtain ⟨b, hre, hev⟩ := s.take_answer_slots q 0x05 (recordOf q (plain 0x05 0))
        (P := fun s u => (s.cage c).ciu.lines.rail = true → (s.cage c).seq.reason ≠ some .noFieldMap →
          ∃ b, s.ReenteredDecide b c ∧ b.Evaluated u c)
        (fun s => s.resume c) .ok []
        (fun {s u x y} h hr hn => by
          obtain ⟨b, hre, hev⟩ := h hr hn
          exact ⟨b.slots x, hre.slots, hev.slots⟩)
        (fun s hr hn => State.resume_evaluates hr hn) hr hn
      exact ⟨b, _, rfl, honly, hans, hre, hev⟩

/-- Settles O40: a cleared power fault is a readmission, a cleared module fault the start of a drain. -/
theorem faultsAreCleared : Obligations.FaultsAreCleared := by
  intro s c
  refine ⟨fun hr hs ht => ?_, fun q h => ?_⟩
  · exact ⟨_, expiry_due hr (s.expired_due (t := Timers.feedClear) (by simp [hs]) ht) _, s.readmit_asks c,
      (s.readmit_ended c).replies⟩
  · have hpower := (s.cage c).seq.powerFaulted_iff
    rw [exec_clearFault h]
    refine ⟨fun hs => ?_, fun hs hp hA => ?_, fun hs hp hB => ?_, fun hs hp hn => ?_⟩
    · rw [State.clearFault_notFaulted (by rwa [State.take_cage]), State.take_answer]
    · rw [State.clearFault_power (by rw [State.take_cage]; exact hpower.mpr ⟨hs, hp⟩), if_pos hA, State.take_answer]
    · have hnotA : q.port ≠ .A := by
        rw [hB]
        decide
      rw [State.clearFault_power (by rw [State.take_cage]; exact hpower.mpr ⟨hs, hp⟩), if_neg hnotA]
      exact ⟨_, rfl,
        s.take_answer_slots q _ _ (P := fun s u => s.AsksAdmission u c emptyImage) (fun s => s.readmit c) _ _
          (fun h => h.slots) fun s => s.readmit_asks c,
        s.take_answered q _ _ (State.readmit_ended _ c).replies _ _⟩
    · rw [State.clearFault_module (by rwa [State.take_cage])
        (by rw [State.take_cage]; exact fun hx => hp (hpower.mp hx).2)]
      exact ⟨_, rfl,
        s.take_answer_slots q _ _ (P := fun s u => s.Draining u c .admitWait none)
          (fun s => s.startDrain c .admitWait none) _ _ (fun h => h.slots) fun s => s.startDrain_spec c _ _,
        State.take_startDrain_reply hn _ _ _ c _ _ _ _⟩

end Sys2Proof.Proofs
end

section
/-! The item of a removed cage that ends at a byte boundary (R154), while a drain waits for it (R101): `State.DrainGoesOn`
asks the impossible of it, as of the items that end OK or NO_RESPONSE. -/

namespace Sys2Proof.Machine

/-- The read of `lastTry`, whose cage has been removed. -/
def removedTry : Carry := { lastTry with ending := true }

/-- The drain of `drainWaits`, which waits for the read of the removed cage 0. -/
def drainWaitsRemoved : State := drainWaits.modEngine 0 fun g => { g with current := some removedTry }

/-- In the model the end of the read at the byte boundary disconnects the segment, CONNECTED before, and starts slot 1, which
undoes nothing. -/
theorem drainWaitsRemoved_goesOn :
    segmentAndSlot (exec (.itemEndAtByteBoundary 0) drainWaitsRemoved) = some (.disconnected, 1) ∧
      (drainWaitsRemoved.cage 0).bus.seg = .connected := by decide

end Sys2Proof.Machine

namespace Sys2Proof.Proofs

open Sys2Proof.Machine

/-- Refutes O56: the read of `drainWaitsRemoved` ends ABSENT, the drain goes on to slot 1, which undoes neither BUS_CONNECT
nor RAIL_ON (`drainWaitsRemoved_goesOn` runs it), and the segment would have to be DISCONNECTED and as it was, CONNECTED. -/
theorem not_busLimitsEndItems : ¬Obligations.BusLimitsEndItems := by
  intro h
  obtain ⟨-, -, hboundary⟩ := h drainWaitsRemoved (by decide)
  obtain ⟨hport, -⟩ := hboundary 0 removedTry (by decide) rfl rfl (by decide)
  obtain ⟨u, -, hgoes, -⟩ := hport .B 0x0D 0 rfl (by decide)
  have hseg := hgoes.disconnected_before (n := 1) (by decide) (by decide) (by decide) ⟨⟨990, 10⟩, by decide, by decide⟩
    (by decide) (by decide)
  exact absurd hseg (by decide)

end Sys2Proof.Proofs
end

section
/-! The low-power grant (R42 to R45, R116, R124, R137). -/

namespace Sys2Proof.Machine

/-! ### The head that is granted (R123, R127) -/

section
variable {s : State} {g : GroupNo} {kind : QueueKind}

theorem State.granting_winner {e : Entry} (h : s.winner = some (g, e)) (hk : e.kind = kind) :
    s.granting g kind = some e := by
  simp [State.granting, h, hk]

theorem State.granting_none (h : ∀ e, s.winner = some (g, e) → e.kind ≠ kind) : s.granting g kind = none := by
  unfold State.granting
  split
  · next x e hw =>
    refine if_neg fun hx => ?_
    obtain ⟨rfl, hk⟩ := hx
    exact h e hw hk
  · rfl

end

/-- R124: to take the head of a group's queue touches that group and the device last inrush alone. -/
theorem State.takeHead_parts (s : State) (g : GroupNo) :
    (∀ d, (s.takeHead g).cage d = s.cage d) ∧ (∀ h, h ≠ g → (s.takeHead g).group h = s.group h) ∧
      (s.takeHead g).group g = { s.group g with queue := (s.group g).queue.tail, last := .active s.now } ∧
      (s.takeHead g).portA = s.portA ∧ (s.takeHead g).portB = s.portB ∧ (s.takeHead g).now = s.now ∧
      (s.takeHead g).deviceLast = .active s.now := by
  have hgroup : ∀ h, (s.takeHead g).group h =
    (s.modGroup g fun x => { x with queue := x.queue.tail, last := .active s.now }).group h := fun _ => rfl
  refine ⟨fun _ => rfl, fun h hh => ?_, ?_, rfl, rfl, rfl, rfl⟩
  · rw [hgroup, s.modGroup_group_ne g h _ hh]
  · rw [hgroup, State.modGroup_group_self]

/-! ### The grant (R42 to R45) -/

/-- R42: the cage as the grant has it enter POWERING, its rail still OFF. -/
def State.lowBase (s : State) (c : CageNo) (t : SlotTable) : State :=
  ((s.setCharge c lowPowerCharge).modSeq c fun q =>
    { q with
      table := some t
      slot := 0
      topSlot := 0
      pgHeld := false
      timers := { slot := some ⟨s.now, t.len⟩, pgLimit := some ⟨s.now, pgLimit⟩ } }).enter c .powering (.slot 0)

theorem State.grantLow_eq (s : State) (g : GroupNo) (c : CageNo) :
    s.grantLow g c = (((s.takeHead g).lowBase c (s.profile c).slots).railOn c).lpAssert c := rfl

theorem State.grantLow_only (s : State) (g : GroupNo) (c : CageNo) : (s.takeHead g).OnlyCage (s.grantLow g c) c :=
  ((((only c).setCharge _ _).trans ((only c).modSeq _ _)).trans ((only c).enter _ _ _)).trans
    (((only c).railOn _).trans ((only c).lpAssert _))

/-- R42, R44: what the grant makes of a cage whose rail is OFF, of its group and of the ports. -/
theorem State.lowBase_powered (s : State) (c : CageNo) (t : SlotTable) (hr : (s.cage c).ciu.lines.rail = false) :
    let u := ((s.lowBase c t).railOn c).lpAssert c
    u.portA = s.portA ∧ u.portB = s.portB ∧
      u.group (groupOf c) =
        { s.group (groupOf c) with committed := (s.group (groupOf c)).committed + 1500 - (s.cage c).charge } ∧
      (u.cage c).charge = 1500 ∧ (u.cage c).ciu.lines = { (s.cage c).ciu.lines with rail := true, lp := true } ∧
      (u.cage c).seq.state = .powering ∧ (u.cage c).seq.stage = .slot 0 ∧ (u.cage c).seq.table = some t ∧
      (u.cage c).seq.timers = { slot := some ⟨s.now, t.len⟩, pgLimit := some ⟨s.now, 50⟩ } ∧
      (∃ r : Rlm, (u.cage c).rlm = r.railOn 1500) ∧ (u.cage c).profile = (s.cage c).profile ∧
      (u.cage c).image = (s.cage c).image ∧ (u.cage c).outage = (s.cage c).outage := by
  refine ⟨?_, ?_, ?_, ?_, ?_, ?_, ?_, ?_, ?_, ⟨((s.lowBase c t).cage c).rlm, ?_⟩, ?_, ?_, ?_⟩
  all_goals simp [State.lowBase, Ctx.entered, lowPowerCharge, pgLimit, hr]

end Sys2Proof.Machine

namespace Sys2Proof.Proofs

open Sys2Proof.Machine

/-- Settles O27: the head is taken, and the rest of the grant touches its cage alone. -/
theorem lowPowerIsGranted : Obligations.LowPowerIsGranted := by
  intro s g
  refine ⟨fun h => ?_, fun e hr hw hk hg hrail => ?_⟩
  · have hx : exec (.lowPowerGrant g) s = execLowPowerGrant g s := rfl
    rw [hx, execLowPowerGrant, State.granting_none h]
  · subst hg
    have hx : exec (.lowPowerGrant (groupOf e.cage)) s = execLowPowerGrant (groupOf e.cage) s := rfl
    have honly := s.grantLow_only (groupOf e.cage) e.cage
    obtain ⟨hcage, hother, hgroup, hA, hB, hnow, hdevice⟩ := s.takeHead_parts (groupOf e.cage)
    obtain ⟨pA, pB, pgroup, pcharge, plines, pstate, pstage, ptable, ptimers, ⟨r, prlm⟩, pkept⟩ :=
      (s.takeHead (groupOf e.cage)).lowBase_powered e.cage (s.profile e.cage).slots (by rwa [hcage])
    rw [← State.grantLow_eq] at pA pB pgroup pcharge plines pstate pstage ptable ptimers prlm pkept
    rw [hcage] at pgroup plines pkept
    rw [hgroup] at pgroup
    rw [hnow] at ptimers
    have hports : ∀ p, (s.grantLow (groupOf e.cage) e.cage).port p = s.port p := fun p => by
      cases p
      · exact pA.trans hA
      · exact pB.trans hB
    refine ⟨s.grantLow (groupOf e.cage) e.cage, ?_, fun d hd => (honly.cages d hd).trans (hcage d),
      fun h hh => (honly.groups h hh).trans (hother h hh), ⟨fun p => by rw [hports], fun p => by rw [hports]⟩,
      fun p => by rw [hports], honly.device.deviceLast.trans hdevice, pgroup, pcharge, plines, pstate, pstage, ptable,
      ptimers, ?_⟩
    · rw [hx, execLowPowerGrant, State.granting_winner hw hk]
      exact act_awake hr _
    · rw [prlm]
      exact ⟨rfl, rfl, rfl, rfl, rfl, pkept⟩

end Sys2Proof.Proofs
end

section
/-! Bring-up slots (R44 to R47): the steps of a slot, and the end of POWERING. -/

namespace Sys2Proof.Machine

section
variable {s : State} {c : CageNo} {t : SlotTable} {n : Nat}

/-- R44: the steps that a slot holds change the segment, the module reset and the init timer, each where the slot is its. -/
theorem State.slotSteps_spec (ht : (s.cage c).seq.table = some t) (hr : (s.cage c).ciu.lines.rail = true) :
    (s.slotSteps c n).cage c =
        { s.cage c with
          bus :=
            if t.bus = n then { (s.cage c).bus with seg := .connected, shadow := none, recovery := false }
            else (s.cage c).bus
          ciu :=
            { (s.cage c).ciu with
              lines :=
                { (s.cage c).ciu.lines with reset := if t.reset = n then false else (s.cage c).ciu.lines.reset } }
          seq :=
            { (s.cage c).seq with
              timers :=
                { (s.cage c).seq.timers with
                  init :=
                    if t.ready = n then some ⟨s.now, (s.profile c).initTimeout⟩
                    else (s.cage c).seq.timers.init } } } ∧
      (s.slotSteps c n).now = s.now ∧ (s.slotSteps c n).elapsed = s.elapsed := by
  have htable : (s.cage c).seq.drainTable = t := by simp [Ctx.drainTable, ht]
  unfold State.slotSteps
  rw [htable]
  dsimp only
  generalize h1 : (if t.bus = n then s.connect c else s) = s1
  have hbus : s1.cage c =
      { s.cage c with
        bus :=
          if t.bus = n then { (s.cage c).bus with seg := .connected, shadow := none, recovery := false }
          else (s.cage c).bus } ∧ s1.now = s.now ∧ s1.elapsed = s.elapsed := by
    rw [← h1]
    split <;> simp [State.connect, State.modBus]
  generalize h2 : (if t.reset = n then s1.resetRelease c else s1) = s2
  have hreset : s2.cage c =
      { s1.cage c with
        ciu :=
          { (s1.cage c).ciu with
            lines :=
              { (s1.cage c).ciu.lines with
                reset := if t.reset = n then false else (s1.cage c).ciu.lines.reset } } } ∧
      s2.now = s1.now ∧ s2.elapsed = s1.elapsed := by
    rw [← h2]
    split
    · simp [State.resetRelease, State.modLines, State.modCiu, hbus.1, hr]
    · simp
  have hinit : (if t.ready = n then s2.startInit c else s2).cage c =
      { s2.cage c with
        seq :=
          { (s2.cage c).seq with
            timers :=
              { (s2.cage c).seq.timers with
                init :=
                  if t.ready = n then some ⟨s2.now, (s2.profile c).initTimeout⟩
                  else (s2.cage c).seq.timers.init } } } ∧
      (if t.ready = n then s2.startInit c else s2).now = s2.now ∧
      (if t.ready = n then s2.startInit c else s2).elapsed = s2.elapsed := by
    split
    · simp [State.startInit, State.modTimers_cage]
    · simp
  obtain ⟨hcage, hnow, helapsed⟩ := hinit
  refine ⟨?_, ?_, ?_⟩
  · rw [hcage, State.profile, hreset.1, hreset.2.1, hbus.1, hbus.2.1]
    rfl
  · rw [hnow, hreset.2.1, hbus.2.1]
  · rw [helapsed, hreset.2.2, hbus.2.2]

/-- R46, R47: on a segment that takes items, POWERING ends in IDENTIFY at FIND and the identifier is read. -/
theorem State.endPowering_spec (hb : (s.cage c).bus.seg = .connected) :
    let u := s.endPowering c
    (u.cage c).ciu = (s.cage c).ciu ∧ (u.cage c).bus = (s.cage c).bus ∧ (u.cage c).charge = (s.cage c).charge ∧
      (u.cage c).profile = (s.cage c).profile ∧ (u.cage c).seq.slot = (s.cage c).seq.slot ∧
      (u.cage c).seq.topSlot = (s.cage c).seq.topSlot ∧ (u.cage c).seq.pgHeld = (s.cage c).seq.pgHeld ∧
      (u.cage c).seq.state = .identify ∧ (u.cage c).seq.stage = .find ∧
      (u.cage c).seq.timers = { (s.cage c).seq.timers with slot := none, pgLimit := none } ∧
      ∃ i, s.NewestSeq u c i ∧ i.write = false ∧ i.offset = 0 ∧ i.len = 1 := by
  unfold State.endPowering State.startIdentPoll
  dsimp only
  generalize ht : (State.modImage (State.modTimers _ c _) c _ : State) = t
  have hseg : (t.cage c).bus.seg = .connected := by rw [← ht]; simpa using hb
  have hn : t.now = s.now := by rw [← ht]; simp
  have he : t.elapsed = s.elapsed := by rw [← ht]; simp
  obtain ⟨hcage, -⟩ := t.postSeq_parts c .ident hseg
  refine ⟨?_, ?_, ?_, ?_, ?_, ?_, ?_, ?_, ?_, ?_, _, s.postSeq_newest t c .ident hseg hn he, rfl, rfl, rfl⟩
  all_goals rw [hcage, ← ht]
  all_goals simp [Ctx.entered]

/-- R44: a slot as it starts, before its steps are done. -/
def State.bringUpBase (s : State) (c : CageNo) (t : SlotTable) (n : Nat) : State :=
  s.modSeq c fun q =>
    { q with
      slot := n
      stage := t.stageAt n
      topSlot := if t.holds n then n else q.topSlot
      timers := { q.timers with slot := some ⟨s.now, t.len⟩ } }

theorem State.startSlot_eq (ht : (s.cage c).seq.table = some t) :
    s.startSlot c n =
      if max t.bus t.ready ≤ n then ((s.bringUpBase c t n).slotSteps c n).endPowering c
      else (s.bringUpBase c t n).slotSteps c n := by
  have htable : (s.cage c).seq.drainTable = t := by simp [Ctx.drainTable, ht]
  unfold State.startSlot
  rw [htable]
  rfl

theorem SlotTable.holds_iff (t : SlotTable) (n : Nat) :
    t.holds n = true ↔ n = t.rail ∨ n = t.bus ∨ n = t.reset ∨ n = t.ready := by
  simp only [SlotTable.holds, Bool.or_eq_true, decide_eq_true_eq, eq_comm (a := n), or_assoc]

/-- R44: a slot with its steps done, as the cage then stands. -/
theorem State.bringUpBase_steps (ht : (s.cage c).seq.table = some t) (hr : (s.cage c).ciu.lines.rail = true) :
    ((s.bringUpBase c t n).slotSteps c n).cage c =
        { s.cage c with
          bus :=
            if t.bus = n then { (s.cage c).bus with seg := .connected, shadow := none, recovery := false }
            else (s.cage c).bus
          ciu :=
            { (s.cage c).ciu with
              lines :=
                { (s.cage c).ciu.lines with reset := if t.reset = n then false else (s.cage c).ciu.lines.reset } }
          seq :=
            { (s.cage c).seq with
              slot := n
              stage := t.stageAt n
              topSlot := if n = t.rail ∨ n = t.bus ∨ n = t.reset ∨ n = t.ready then n else (s.cage c).seq.topSlot
              timers :=
                { (s.cage c).seq.timers with
                  slot := some ⟨s.now, t.len⟩
                  init :=
                    if t.ready = n then some ⟨s.now, (s.profile c).initTimeout⟩
                    else (s.cage c).seq.timers.init } } } ∧
      ((s.bringUpBase c t n).slotSteps c n).now = s.now ∧
      ((s.bringUpBase c t n).slotSteps c n).elapsed = s.elapsed := by
  obtain ⟨hcage, hnow, helapsed⟩ := State.slotSteps_spec (s := s.bringUpBase c t n) (c := c) (t := t) (n := n)
    (by simpa [State.bringUpBase] using ht) (by simpa [State.bringUpBase] using hr)
  refine ⟨?_, hnow, helapsed⟩
  rw [hcage]
  simp [State.bringUpBase, State.modSeq, State.profile, SlotTable.holds_iff]

/-- R44, R46: what the start of a bring-up slot does to a powered cage whose segment is CONNECTED by the time POWERING
ends. -/
theorem State.startSlot_spec (hs : (s.cage c).seq.state = .powering) (ht : (s.cage c).seq.table = some t)
    (hr : (s.cage c).ciu.lines.rail = true)
    (hb : t.bus = n ∨ (s.cage c).bus.seg = .connected ∨ n < max t.bus t.ready) :
    s.SlotStarted (s.startSlot c n) c t n ∧ ((s.startSlot c n).cage c).seq.pgHeld = (s.cage c).seq.pgHeld ∧
      ((s.cage c).seq.timers.pgLimit = none → ((s.startSlot c n).cage c).seq.timers.pgLimit = none) := by
  obtain ⟨hcage, hnow, helapsed⟩ := s.bringUpBase_steps (c := c) (n := n) ht hr
  rw [State.startSlot_eq ht]
  generalize (s.bringUpBase c t n).slotSteps c n = b at hcage hnow helapsed ⊢
  split
  · next hlast =>
    have hseg : (b.cage c).bus.seg = .connected := by
      rw [hcage]
      rcases hb with h | h | h
      · simp [h]
      · by_cases hn : t.bus = n <;> simp [hn, h]
      · omega
    obtain ⟨e1, e2, e3, e4, e5, e6, e7, e8, e9, e10, i, ⟨i1, i2, i3, i4, i5⟩, hi⟩ := State.endPowering_spec hseg
    refine ⟨⟨?_, ?_, ?_, ?_, ?_, ⟨?_, ?_⟩, fun h => absurd hlast (by omega), fun _ => ⟨e8, e9, ?_, ?_, i,
      ⟨i1, i2, i3, by rw [i4, hnow], by rw [i5, helapsed]⟩, hi⟩⟩, ?_, fun _ => ?_⟩
    · rw [e5, hcage]
    · rw [e6, hcage]
    · rw [e1, hcage]
    · rw [e2, hcage]
      exact apply_ite Bus.seg _ _ _
    · rw [e10, hcage]
    · rw [e3, hcage]
    · rw [e4, hcage]
    · rw [e10]
    · rw [e10]
    · rw [e7, hcage]
    · rw [e10]
  · next hlast =>
    refine ⟨⟨?_, ?_, ?_, ?_, ?_, ⟨?_, ?_⟩, fun _ => ⟨?_, ?_, ?_⟩, fun h => absurd h hlast⟩, ?_, fun h => ?_⟩
    all_goals rw [hcage]
    case refine_4 => exact apply_ite Bus.seg _ _ _
    case refine_8 => exact hs
    case refine_10 => rfl
    case refine_12 => exact h

/-- R45: the slot length of slot 0 has passed without power-good. -/
theorem State.slotOver_waits (h : (s.cage c).seq.slot = 0) (hg : (s.cage c).seq.pgHeld = false) :
    s.slotOver c = s.modSeq c fun q => { q with stage := .pgWait } := by
  simp [State.slotOver, h, hg]

theorem State.slotOver_starts (h : (s.cage c).seq.slot ≠ 0 ∨ (s.cage c).seq.pgHeld = true) :
    s.slotOver c = s.startSlot c ((s.cage c).seq.slot + 1) := by
  refine if_neg fun hx => ?_
  obtain ⟨h0, hg⟩ := hx
  rcases h with h | h
  · exact h h0
  · rw [hg] at h
    cases h

end

end Sys2Proof.Machine

namespace Sys2Proof.Proofs

open Sys2Proof.Machine

/-- Settles O31: a slot that is over waits for power-good, or the next one starts. -/
theorem bringUpSlotsRun : Obligations.BringUpSlotsRun := by
  intro s c t hr hs hslot ht
  have hexec : exec (.bringUpSlotStart c) s = .next (s.slotOver c).settle :=
    expiry_due hr (s.expired_due (t := Timers.slot) (by simp [hs]) hslot) _
  refine ⟨fun h0 hg => ?_, fun hstart hrail hb => ⟨_, hexec, (only c).slotOver s, ?_⟩⟩
  · rw [hexec, State.slotOver_waits h0 hg]
  · rw [State.slotOver_starts hstart]
    exact (State.startSlot_spec hs ht hrail hb).1

end Sys2Proof.Proofs
end

section
/-! The rail monitor (R132 to R142): the judgement of a pair, and what the sequencer does with its outcome. -/

namespace Sys2Proof.Machine

/-! ### The overdraw run (R139, R140) -/

/-- R139, R140: the average of a full window is above the limit. -/
def Rlm.Above (r : Rlm) (margin : Nat) : Prop :=
  r.window.length = 4 ∧ ∃ b, r.basis = some b ∧ b * (100 + margin) / 100 < (r.window.sum + 2) / 4

/-- R140: the run is judged in a report-free state with an average and a basis, and only then moves. -/
inductive Rlm.RunJudged (r : Rlm) (margin : Nat) : Rlm × Bool → Prop
  | idle (h : r.reported = true ∨ r.basis = none ∨ r.window.length ≠ 4) : RunJudged r margin (r, false)
  | within (hr : r.reported = false) (hb : r.basis ≠ none) (hw : r.window.length = 4) (h : ¬r.Above margin) :
      RunJudged r margin ({ r with run := 0, margin := some margin }, false)
  | above (hr : r.reported = false) (h : r.Above margin) (hn : r.run < 2) :
      RunJudged r margin ({ r with run := r.run + 1, margin := some margin }, false)
  | third (hr : r.reported = false) (h : r.Above margin) (hn : 2 ≤ r.run) :
      RunJudged r margin ({ r with run := r.run + 1, margin := some margin, reported := true }, true)

theorem Rlm.judgeRun_judged (r : Rlm) (margin : Nat) : r.RunJudged margin (r.judgeRun margin) := by
  unfold Rlm.judgeRun averageOf
  split
  · next avg b hr havg hb =>
    obtain ⟨hw, rfl⟩ : r.window.length = 4 ∧ (r.window.sum + 2) / 4 = avg := by simpa using havg
    have hover : r.Above margin ↔ overdrawLimit b margin < (r.window.sum + 2) / 4 :=
      ⟨fun ⟨_, b', hb', h⟩ => by rw [hb] at hb'; cases hb'; exact h, fun h => ⟨hw, b, hb, h⟩⟩
    split
    · next h =>
      split
      · exact .third hr (hover.mpr h) (by omega)
      · exact .above hr (hover.mpr h) (by omega)
    · next h => exact .within hr (by simp [hb]) hw fun ha => h (hover.mp ha)
  · next hno =>
    refine .idle ?_
    by_contra hx
    push Not at hx
    obtain ⟨hr, hb, hw⟩ := hx
    obtain ⟨b, hb⟩ := Option.ne_none_iff_exists'.mp hb
    exact hno _ b (Bool.eq_false_iff.mpr hr) (if_pos hw) hb

theorem Rlm.reported_of_idle {r : Rlm} {margin : Nat}
    (h : r.reported = true ∨ r.basis = none ∨ r.window.length ≠ 4) (ha : r.Above margin) : r.reported = true := by
  obtain ⟨hw, b, hb, -⟩ := ha
  rcases h with h | h | h
  · exact h
  · rw [hb] at h
    cases h
  · exact absurd hw h

/-! ### The judgement of a pair (R133 to R142) -/

/-- R135, R136, R141: a judged pair before its overdraw run: the window has the power, the power-good state has moved, and a
rail failure or a power above the ceiling has been reported. -/
def Rlm.judgeBase (r : Rlm) (vc : BitVec 10) (power : Nat) : Rlm :=
  { r with
    window := windowWith r.window power
    pg :=
      if r.pg = .notYet ∧ 785 ≤ vc.toNat then .good else if r.pg = .good ∧ vc.toNat < 760 then .lost else r.pg
    reported := r.reported || decide (r.pg = .good ∧ vc.toNat < 760) || decide (20000 < power) }

/-- R142: a rail failure comes before an overdraw, and neither is reported again. -/
theorem Rlm.judge_eq (r : Rlm) (vc : BitVec 10) (power margin : Nat) :
    let b := (r.judgeBase vc power).judgeRun margin
    r.judge vc power margin =
      ⟨b.1, decide (r.pg = .notYet ∧ 785 ≤ vc.toNat),
        if r.reported = false ∧ r.pg = .good ∧ vc.toNat < 760 then some .railFail
        else if r.reported = false ∧ 20000 < power ∨ b.2 = true then some .overdraw else none⟩ := by
  have hgood : (decide (r.pg = .notYet) && decide (goodCode ≤ vc.toNat)) = decide (r.pg = .notYet ∧ 785 ≤ vc.toNat) :=
    (Bool.decide_and _ _).symm
  have hlost : (decide (r.pg = .good) && decide (vc.toNat < lostCode)) = decide (r.pg = .good ∧ vc.toNat < 760) :=
    (Bool.decide_and _ _).symm
  have hceiling : decide (powerCeiling < power) = decide (20000 < power) := rfl
  have hbase : r.judgeBase vc power =
      { r with
        window := pushWindow r.window power
        pg := if (decide (r.pg = .notYet ∧ 785 ≤ vc.toNat)) = true then .good
          else if (decide (r.pg = .good ∧ vc.toNat < 760)) = true then .lost else r.pg
        reported :=
          (r.reported || (decide (r.pg = .good ∧ vc.toNat < 760) && !r.reported)) ||
            (!(r.reported || (decide (r.pg = .good ∧ vc.toNat < 760) && !r.reported)) &&
              decide (20000 < power)) } := by
    unfold Rlm.judgeBase
    congr 1
    · simp only [decide_eq_true_eq]
    · cases r.reported <;> cases decide (r.pg = .good ∧ vc.toNat < 760) <;> simp
  dsimp only
  rw [hbase]
  unfold Rlm.judge
  simp only [hgood, hlost, hceiling]
  congr 1
  generalize (Rlm.judgeRun _ margin).2 = b
  by_cases hl : r.pg = .good ∧ vc.toNat < 760 <;> cases r.reported <;> simp [hl]

/-- R140: what the evaluation of the run leaves of a judged pair. -/
theorem Rlm.judgeRun_keeps (r : Rlm) (margin : Nat) :
    let b := r.judgeRun margin
    b.1 = { r with run := b.1.run, margin := b.1.margin, reported := r.reported || b.2 } := by
  dsimp only
  have h := r.judgeRun_judged margin
  generalize r.judgeRun margin = b at h ⊢
  cases h with
  | idle => simp
  | within hr => simp [hr]
  | above hr => simp [hr]
  | third hr => simp [hr]

/-- R140: the run reports at the third average in a row above the limit, and only where nothing has been reported. -/
theorem Rlm.judgeRun_third (r : Rlm) (margin : Nat) :
    (r.judgeRun margin).2 = true ↔ r.reported = false ∧ r.Above margin ∧ 2 ≤ r.run := by
  have h := r.judgeRun_judged margin
  generalize r.judgeRun margin = b at h ⊢
  cases h with
  | idle hi => exact iff_of_false (by simp) fun ⟨hr, ha, _⟩ => by rw [Rlm.reported_of_idle hi ha] at hr; cases hr
  | within _ _ _ ha => exact iff_of_false (by simp) fun h => ha h.2.1
  | above _ _ hn => exact iff_of_false (by simp) fun h => by omega
  | third hr ha hn => exact iff_of_true rfl ⟨hr, ha, hn⟩

section
variable {r : Rlm} {vc : BitVec 10} {power margin : Nat}

theorem Rlm.judgeBase_reported :
    (r.judgeBase vc power).reported = false ↔
      r.reported = false ∧ ¬(r.pg = .good ∧ vc.toNat < 760) ∧ ¬20000 < power := by
  simp only [Rlm.judgeBase, Bool.or_eq_false_iff, decide_eq_false_iff_not, and_assoc]

theorem Rlm.judge_third :
    ((r.judgeBase vc power).judgeRun margin).2 = true ↔
      (r.reported = false ∧ ¬(r.pg = .good ∧ vc.toNat < 760) ∧ ¬20000 < power) ∧ r.GoesOver power margin ∧ 2 ≤ r.run := by
  rw [Rlm.judgeRun_third, Rlm.judgeBase_reported]
  exact Iff.rfl

/-- R142: the report that a judged pair makes. -/
theorem Rlm.judge_fault (f : Reason) : (r.judge vc power margin).fault = some f ↔ r.Reports vc power margin f := by
  have ht := Rlm.judge_third (r := r) (vc := vc) (power := power) (margin := margin)
  rw [Rlm.judge_eq]
  dsimp only
  by_cases hfail : r.reported = false ∧ r.pg = .good ∧ vc.toNat < 760
  · rw [if_pos hfail]
    constructor
    · rintro ⟨⟩
      exact ⟨hfail.1, .inl ⟨rfl, hfail.2⟩⟩
    · rintro ⟨-, ⟨rfl, -⟩ | ⟨-, hl, -⟩⟩
      · rfl
      · exact absurd hfail.2 hl
  · rw [if_neg hfail]
    by_cases hover : r.reported = false ∧ 20000 < power ∨ ((r.judgeBase vc power).judgeRun margin).2 = true
    · rw [if_pos hover]
      constructor
      · rintro ⟨⟩
        rcases hover with ⟨hr, hp⟩ | hb
        · exact ⟨hr, .inr ⟨rfl, fun hl => hfail ⟨hr, hl⟩, .inl hp⟩⟩
        · obtain ⟨⟨hr, hl, -⟩, ho⟩ := ht.mp hb
          exact ⟨hr, .inr ⟨rfl, hl, .inr ho⟩⟩
      · rintro ⟨hr, ⟨-, hl⟩ | ⟨rfl, -⟩⟩
        · exact absurd ⟨hr, hl⟩ hfail
        · rfl
    · rw [if_neg hover]
      refine iff_of_false nofun ?_
      rintro ⟨hr, ⟨-, hl⟩ | ⟨-, hl, hp | ho⟩⟩
      · exact hfail ⟨hr, hl⟩
      · exact hover (.inl ⟨hr, hp⟩)
      · exact hover (.inr (ht.mpr ⟨⟨hr, hl, fun hp => hover (.inl ⟨hr, hp⟩)⟩, ho⟩))

theorem Rlm.judge_good : (r.judge vc power margin).good = true ↔ r.pg = .notYet ∧ 785 ≤ vc.toNat := by
  rw [Rlm.judge_eq, decide_eq_true_eq]

/-- R132: the judgement does not touch the latest values. -/
theorem Rlm.judge_latest :
    (r.judge vc power margin).rlm.vc = r.vc ∧ (r.judge vc power margin).rlm.ic = r.ic ∧
      (r.judge vc power margin).rlm.power = r.power := by
  rw [Rlm.judge_eq, Rlm.judgeRun_keeps]
  exact ⟨rfl, rfl, rfl⟩

theorem Rlm.judge_reported {f : Reason} (h : r.Reports vc power margin f) :
    (r.judge vc power margin).rlm.reported = true := by
  have hf := (Rlm.judge_fault f).mpr h
  rw [Rlm.judge_eq] at hf ⊢
  rw [Rlm.judgeRun_keeps]
  by_contra hn
  obtain ⟨hb, hthird⟩ : (r.judgeBase vc power).reported = false ∧ ((r.judgeBase vc power).judgeRun margin).2 = false := by
    simpa using hn
  obtain ⟨hr, hl, hp⟩ := Rlm.judgeBase_reported.mp hb
  simp [hr, hl, hp, hthird] at hf

/-- R136, R140: what a judged pair that reports nothing leaves. -/
theorem Rlm.judge_judges (h : ∀ f, ¬r.Reports vc power margin f) :
    r.Judges (r.judge vc power margin).rlm vc power margin := by
  have hreported : (r.judgeBase vc power).reported = r.reported := by
    cases hb : (r.judgeBase vc power).reported with
    | false => rw [(Rlm.judgeBase_reported.mp hb).1]
    | true =>
      by_contra hr
      have hr : r.reported = false := by simpa using Ne.symm hr
      refine (Bool.eq_false_iff.mp (Rlm.judgeBase_reported.mpr ⟨hr, fun hl => ?_, fun hp => ?_⟩)) hb
      · exact h _ ⟨hr, .inl ⟨rfl, hl⟩⟩
      · by_cases hl : r.pg = .good ∧ vc.toNat < 760
        · exact h _ ⟨hr, .inl ⟨rfl, hl⟩⟩
        · exact h _ ⟨hr, .inr ⟨rfl, hl, .inl hp⟩⟩
  have hthird : ((r.judgeBase vc power).judgeRun margin).2 = false := by
    refine Bool.eq_false_iff.mpr fun ht => ?_
    obtain ⟨⟨hr, hl, -⟩, ho⟩ := Rlm.judge_third.mp ht
    exact h _ ⟨hr, .inr ⟨rfl, hl, .inr ho⟩⟩
  have hrun := (r.judgeBase vc power).judgeRun_judged margin
  have hkeeps := (r.judgeBase vc power).judgeRun_keeps margin
  rw [Rlm.judge_eq]
  dsimp only at hkeeps ⊢
  generalize (r.judgeBase vc power).judgeRun margin = b at hthird hrun hkeeps ⊢
  refine ⟨by rw [hkeeps]; rfl, by rw [hkeeps]; rfl, by rw [hkeeps, hthird]; simpa using hreported, fun hr ho => ?_,
    fun hr ho hb hw => ?_, fun hs => ?_⟩
  · cases hrun with
    | idle hi => exact absurd (Rlm.reported_of_idle hi ho) (by rw [hreported, hr]; simp)
    | within _ _ _ ha => exact absurd ho ha
    | above => rfl
    | third => rfl
  · cases hrun with
    | idle hi =>
      rcases hi with h | h | h
      · exact absurd h (by rw [hreported, hr]; simp)
      · exact absurd h hb
      · exact absurd hw h
    | within => rfl
    | above _ ha => exact absurd ha ho
    | third _ ha => exact absurd ha ho
  · have moved : ¬((r.judgeBase vc power).reported = false ∧ r.basis ≠ none ∧ (windowWith r.window power).length = 4) := by
      rintro ⟨h1, h2, h3⟩
      rcases hs with h | h | h
      · rw [hreported, h] at h1
        cases h1
      · exact h2 h
      · omega
    have above : (r.judgeBase vc power).Above margin → r.basis ≠ none ∧ (windowWith r.window power).length = 4 :=
      fun ⟨hw, b, hb, _⟩ => ⟨Option.ne_none_iff_exists'.mpr ⟨b, hb⟩, hw⟩
    cases hrun with
    | idle => rfl
    | within h1 h2 h3 => exact absurd ⟨h1, h2, h3⟩ moved
    | above h1 ha => exact absurd ⟨h1, above ha⟩ moved
    | third h1 ha => exact absurd ⟨h1, above ha⟩ moved

end

/-! ### What the sequencer's transitions leave of the monitor -/

/-- R132, R142: the latest values and the report state are the same. -/
structure Rlm.SameReport (r u : Rlm) : Prop where
  vc : u.vc = r.vc
  ic : u.ic = r.ic
  power : u.power = r.power
  reported : u.reported = r.reported

/-- R133: what the judgement of pairs has moved is the same. -/
structure Rlm.SameJudged (r u : Rlm) : Prop extends r.SameReport u where
  window : u.window = r.window
  pg : u.pg = r.pg
  run : u.run = r.run

theorem Rlm.SameReport.trans {r v u : Rlm} (a : r.SameReport v) (b : v.SameReport u) : r.SameReport u :=
  ⟨b.vc.trans a.vc, b.ic.trans a.ic, b.power.trans a.power, b.reported.trans a.reported⟩

theorem Rlm.SameJudged.refl (r : Rlm) : r.SameJudged r := ⟨⟨rfl, rfl, rfl, rfl⟩, rfl, rfl, rfl⟩

theorem Rlm.SameJudged.trans {r v u : Rlm} (a : r.SameJudged v) (b : v.SameJudged u) : r.SameJudged u :=
  ⟨a.toSameReport.trans b.toSameReport, b.window.trans a.window, b.pg.trans a.pg, b.run.trans a.run⟩

/-- What a judged pair leaves is told from what the judgement moves. -/
theorem Rlm.Judges.congr {r j u : Rlm} {vc : BitVec 10} {power margin : Nat} (h : r.Judges j vc power margin)
    (hu : j.SameJudged u) : r.Judges u vc power margin := by
  obtain ⟨window, good, reported, above, within, stays⟩ := h
  exact ⟨by rw [hu.window, window], by rw [hu.pg, good], by rw [hu.reported, reported],
    fun a b => by rw [hu.run, above a b], fun a b d e => by rw [hu.run, within a b d e],
    fun a => by rw [hu.run, stays a]⟩

theorem Rlm.sameJudged_basis (r : Rlm) (basis : Option Nat) (pending : Option PendingBasis) (reset18 : Bool) :
    r.SameJudged { r with basis := basis, pending := pending, reset18 := reset18 } :=
  ⟨⟨rfl, rfl, rfl, rfl⟩, rfl, rfl, rfl⟩

/-- R138: a change of the charge moves the limit basis only. -/
theorem Rlm.chargeChange_sameJudged (r : Rlm) (charge : Nat) (now : Stamp) : r.SameJudged (r.chargeChange charge now) := by
  unfold Rlm.chargeChange Rlm.follow
  split
  · exact r.sameJudged_basis _ _ _
  · split
    · exact r.sameJudged_basis _ _ _
    · split
      · exact r.sameJudged_basis _ _ _
      · split <;> exact r.sameJudged_basis _ _ _

theorem Rlm.endReset18_sameJudged (r : Rlm) (charge : Nat) (now : Stamp) : r.SameJudged (r.endReset18 charge now) := by
  unfold Rlm.endReset18
  split
  · exact r.chargeChange_sameJudged _ _
  · exact .refl r

theorem State.enter_sameJudged (s : State) (c : CageNo) (st : SeqState) (stage : Stage) :
    (s.cage c).rlm.SameJudged ((s.enter c st stage).cage c).rlm := by
  obtain ⟨-, -, -, -, -, hrlm, -⟩ := s.enter_parts c st stage
  rw [hrlm]
  split
  · exact Rlm.endReset18_sameJudged _ _ _
  · exact .refl _

theorem Rlm.railOff_sameReport (r : Rlm) : r.SameReport r.railOff := ⟨rfl, rfl, rfl, rfl⟩

theorem State.lpAssert_sameJudged (s : State) (c : CageNo) :
    (s.cage c).rlm.SameJudged ((s.lpAssert c).cage c).rlm := by
  obtain ⟨-, -, -, -, -, hrlm, -⟩ := s.lpAssert_parts c
  rw [hrlm]
  split
  · exact Rlm.chargeChange_sameJudged _ _ _
  · exact .refl _

theorem State.railOff_keepsReport (s : State) (c : CageNo) :
    (s.cage c).rlm.SameReport ((s.railOff c).cage c).rlm := by
  obtain ⟨-, -, -, -, -, hrlm, -⟩ := s.railOff_parts c
  rw [hrlm]
  split
  · refine .trans ?_ (Rlm.railOff_sameReport _)
    split
    · exact (Rlm.SameJudged.refl _).toSameReport
    · exact (Rlm.chargeChange_sameJudged _ _ _).toSameReport
  · exact (Rlm.SameJudged.refl _).toSameReport

theorem State.undoSlot_sameReport (s : State) (c : CageNo) (n : Nat) :
    (s.cage c).rlm.SameReport ((s.undoSlot c n).cage c).rlm := by
  have step : ∀ (p : Prop) [Decidable p] (t u : State), (t.cage c).rlm.SameReport (u.cage c).rlm →
      (t.cage c).rlm.SameReport ((if p then u else t).cage c).rlm := fun p _ t u h => by
    split
    · exact h
    · exact (Rlm.SameJudged.refl _).toSameReport
  have same : ∀ t u : State, (u.cage c).rlm = (t.cage c).rlm → (t.cage c).rlm.SameReport (u.cage c).rlm := fun t u h => by
    rw [h]
    exact (Rlm.SameJudged.refl _).toSameReport
  unfold State.undoSlot
  exact ((step _ _ _ (same _ _ (by simp))).trans (step _ _ _ (same _ _ (State.busUndo_spec _ c).rlm))).trans
    (step _ _ _ (State.railOff_keepsReport _ c))

/-- R100: the start of a drain keeps the latest values and the report state. -/
theorem State.startDrain_sameReport (s : State) (c : CageNo) (dest : Dest) (r : Option Reason) :
    (s.cage c).rlm.SameReport ((s.startDrain c dest r).cage c).rlm := by
  rw [State.startDrain_eq]
  refine .trans ?_ (State.undoSlot_sameReport _ c _)
  unfold State.drainBase
  rw [show ∀ (t : State) f, ((t.modSeq c f).cage c).rlm = (t.cage c).rlm from fun _ _ => by simp]
  refine .trans ?_ (State.lpAssert_sameJudged _ c).toSameReport
  rw [show ∀ (t : State) f, ((t.modSeq c f).cage c).rlm = (t.cage c).rlm from fun _ _ => by simp]
  have h := (((s.stopWork c).withdrawEntry c).enter_sameJudged c .draining (.slot (s.cage c).seq.firstDrainSlot)).toSameReport
  simpa using h

theorem State.powerFault_sameReport (s : State) (c : CageNo) (r : Reason) :
    (s.cage c).rlm.SameReport ((s.powerFault c r).cage c).rlm ∧
      ((s.powerFault c r).cage c).profile = (s.cage c).profile := by
  have same : (s.cage c).rlm.SameReport (s.cage c).rlm := (Rlm.SameJudged.refl _).toSameReport
  unfold State.powerFault
  split
  · split
    · split
      · exact ⟨by simpa using same, by simp⟩
      · exact ⟨same, rfl⟩
    · have hd := (s.post c .fault).startDrain_spec c .faulted (some r)
      exact ⟨(s.post c .fault).startDrain_sameReport c _ _, hd.kept.2.1⟩
  · exact ⟨same, rfl⟩

/-- R133: what the judgement has moved stays with a cage, its rail and its profile too, and no drain has started. -/
structure Cage.KeepsJudged (k u : Cage) : Prop where
  judged : k.rlm.SameJudged u.rlm
  rail : u.ciu.lines.rail = k.ciu.lines.rail
  profile : u.profile = k.profile
  state : k.seq.state ≠ .draining → u.seq.state ≠ .draining

/-- What `Cage.KeepsJudged` says of one cage, as a relation between states. -/
def judgedKept (c : CageNo) : Rel where
  R := fun s t => (s.cage c).KeepsJudged (t.cage c)
  refl' := fun _ => ⟨.refl _, rfl, rfl, id⟩
  trans' := fun a b =>
    ⟨a.judged.trans b.judged, b.rail.trans a.rail, b.profile.trans a.profile, b.state ∘ a.state⟩

section
variable {c : CageNo} {s t : State}

theorem judgedKept_same (h : (t.cage c).rlm = (s.cage c).rlm ∧ (t.cage c).ciu.lines.rail = (s.cage c).ciu.lines.rail ∧
    (t.cage c).profile = (s.cage c).profile ∧
      ((t.cage c).seq.state = (s.cage c).seq.state ∨ (t.cage c).seq.state ≠ .draining)) :
    (judgedKept c).To s t := by
  obtain ⟨hrlm, hrail, hprofile, hstate⟩ := h
  exact ⟨hrlm ▸ .refl _, hrail, hprofile, fun h => hstate.elim (fun e => e ▸ h) id⟩

theorem State.modTimers_judgedKept (s : State) (f : Timers → Timers) : (judgedKept c).To s (s.modTimers c f) :=
  judgedKept_same (by simp)

theorem State.enter_judgedKept (s : State) {st : SeqState} (stage : Stage) (h : st ≠ .draining) :
    (judgedKept c).To s (s.enter c st stage) :=
  ⟨s.enter_sameJudged c st stage, by simp, by simp, fun _ => by simpa [Ctx.entered] using h⟩

theorem State.lpAssert_judgedKept (s : State) : (judgedKept c).To s (s.lpAssert c) := by
  obtain ⟨hciu, -, hprofile, hseq, -⟩ := s.lpAssert_parts c
  exact ⟨s.lpAssert_sameJudged c, by rw [hciu], hprofile, fun h => by rwa [hseq]⟩

theorem State.moduleFault_judgedKept (s : State) (r : Reason) : (judgedKept c).To s (s.moduleFault c r) := by
  unfold State.moduleFault
  dsimp only
  have off : (judgedKept c).To s (((s.stopWork c).resetAssert c).lpAssert c) :=
    .trans (judgedKept_same (by simp)) (State.lpAssert_judgedKept _)
  have entered := off.trans (State.enter_judgedKept _ (st := .faulted) .module nofun)
  generalize (State.enter _ c .faulted .module) = t at entered ⊢
  exact entered.trans (judgedKept_same (by simp))

theorem State.postSeq_judgedKept (s : State) (a : Access) : (judgedKept c).To s (s.postSeq c a) := by
  unfold State.postSeq
  split
  · exact judgedKept_same (by simp [State.addItem])
  · exact s.moduleFault_judgedKept _
  · exact judgedKept_same (by simp)

theorem State.startIdentPoll_judgedKept (s : State) : (judgedKept c).To s (s.startIdentPoll c) :=
  .trans (t := s.modImage c _) (judgedKept_same (by simp)) (State.postSeq_judgedKept _ _)

theorem State.slotSteps_judgedKept (s : State) (n : Nat) : (judgedKept c).To s (s.slotSteps c n) := by
  unfold State.slotSteps
  dsimp only
  have connect : ∀ t : State, (judgedKept c).To t (t.connect c) := fun t => judgedKept_same (by simp [State.connect])
  have release : ∀ t : State, (judgedKept c).To t (t.resetRelease c) := fun t =>
    judgedKept_same ⟨by simp, by simp; split <;> rfl, by simp⟩
  exact .trans (.trans (.ite (connect s) (Rel.refl _ s)) (.ite (release _) (Rel.refl _ _)))
    (.ite (State.modTimers_judgedKept _ _) (Rel.refl _ _))

theorem State.endPowering_judgedKept (s : State) : (judgedKept c).To s (s.endPowering c) := by
  unfold State.endPowering
  have entered := s.enter_judgedKept (c := c) (st := .identify) .find nofun
  generalize s.enter c .identify .find = t at entered ⊢
  exact (entered.trans (t.modTimers_judgedKept _)).trans (State.startIdentPoll_judgedKept _)

theorem State.startSlot_judgedKept (s : State) (n : Nat) : (judgedKept c).To s (s.startSlot c n) := by
  unfold State.startSlot
  dsimp only
  generalize hb : s.modSeq c _ = b
  have h : (judgedKept c).To s (b.slotSteps c n) :=
    .trans (judgedKept_same (by simp [← hb])) (b.slotSteps_judgedKept n)
  exact .ite (h.trans (State.endPowering_judgedKept _)) h

theorem State.powerGood_judgedKept (s : State) : (judgedKept c).To s (s.powerGood c) := by
  unfold State.powerGood
  dsimp only
  generalize hb : s.modSeq c _ = b
  have held : (judgedKept c).To s b := judgedKept_same (by simp [← hb])
  split
  · exact .ite (held.trans (b.startSlot_judgedKept 1)) held
  · exact .ite (held.trans (.trans (b.modTimers_judgedKept _) (State.startIdentPoll_judgedKept _))) held
  · exact (judgedKept c).refl s

end

/-! ### POWER_GOOD (R45, R187, R189) -/

section
variable {s : State} {c : CageNo}

/-- R45: POWER_GOOD is held and its limit ends. -/
def State.holdPowerGood (s : State) (c : CageNo) : State :=
  s.modSeq c fun q => { q with pgHeld := true, timers := { q.timers with pgLimit := none } }

theorem State.holdPowerGood_cage (s : State) (c : CageNo) :
    (s.holdPowerGood c).cage c =
      { s.cage c with
        seq :=
          { (s.cage c).seq with pgHeld := true, timers := { (s.cage c).seq.timers with pgLimit := none } } } := by
  simp [State.holdPowerGood, State.modSeq]

theorem State.powerGood_powering (hs : (s.cage c).seq.state = .powering) :
    s.powerGood c =
      if (s.cage c).seq.slot = 0 ∧ dueTimer (s.cage c).seq.timers.slot s.now = true then
        (s.holdPowerGood c).startSlot c 1
      else s.holdPowerGood c := by
  unfold State.powerGood
  dsimp only
  rw [hs]
  rfl

theorem State.powerGood_adopting (hs : (s.cage c).seq.state = .adopting) :
    s.powerGood c =
      if (s.cage c).seq.adopted = true ∧ (s.cage c).seq.pgHeld = false then (s.holdPowerGood c).startReading c
      else s.holdPowerGood c := by
  unfold State.powerGood
  dsimp only
  rw [hs]
  cases (s.cage c).seq.adopted <;> cases (s.cage c).seq.pgHeld <;> rfl

theorem State.powerGood_waits (hs : (s.cage c).seq.state = .powering)
    (h : (s.cage c).seq.slot ≠ 0 ∨ ¬Reached (s.cage c).seq.timers.slot s.now) : s.powerGood c = s.holdPowerGood c := by
  rw [State.powerGood_powering hs]
  refine if_neg fun ⟨h0, hd⟩ => h.elim (· h0) (· ?_)
  unfold dueTimer at hd
  split at hd
  · next hn => cases hd
  · next x hx => exact ⟨x, hx, of_decide_eq_true hd⟩

theorem State.powerGood_starts (hs : (s.cage c).seq.state = .powering) (h0 : (s.cage c).seq.slot = 0)
    (hd : Reached (s.cage c).seq.timers.slot s.now) : s.powerGood c = (s.holdPowerGood c).startSlot c 1 := by
  rw [State.powerGood_powering hs, if_pos ⟨h0, hd.due⟩]

theorem State.powerGood_reads (hs : (s.cage c).seq.state = .adopting) (ha : (s.cage c).seq.adopted = true)
    (hp : (s.cage c).seq.pgHeld = false) : s.powerGood c = (s.holdPowerGood c).startReading c := by
  rw [State.powerGood_adopting hs, if_pos ⟨ha, hp⟩]

theorem State.powerGood_unadopted (hs : (s.cage c).seq.state = .adopting) (ha : (s.cage c).seq.adopted = false) :
    s.powerGood c = s.holdPowerGood c := by
  rw [State.powerGood_adopting hs, if_neg (by simp [ha])]

theorem State.powerGood_ignored (hp : (s.cage c).seq.state ≠ .powering) (ha : (s.cage c).seq.state ≠ .adopting) :
    s.powerGood c = s := by
  unfold State.powerGood
  dsimp only
  split
  · next h => exact absurd h hp
  · next h => exact absurd h ha
  · rfl

/-! ### What is told of a started slot and a started reading -/

/-- What the start of a slot is told from: the time and the cage but for the monitor and power-good; and what tells it: the
cage and its engine. -/
theorem State.SlotStarted.congr {b w u : State} {t : SlotTable} {n : Nat} (h : b.SlotStarted w c t n)
    (hn : b.now = s.now) (he : b.elapsed = s.elapsed) (hp : (b.cage c).profile = (s.cage c).profile)
    (hciu : (b.cage c).ciu = (s.cage c).ciu) (hbus : (b.cage c).bus = (s.cage c).bus)
    (hcharge : (b.cage c).charge = (s.cage c).charge) (htop : (b.cage c).seq.topSlot = (s.cage c).seq.topSlot)
    (hinit : (b.cage c).seq.timers.init = (s.cage c).seq.timers.init) (hc : u.cage c = w.cage c)
    (hg : u.engine (engineOf c) = w.engine (engineOf c)) : s.SlotStarted u c t n := by
  obtain ⟨slot, top, lines, segment, init, ⟨charge, profile⟩, goesOn, ends⟩ := h
  refine ⟨?_, ?_, ?_, ?_, ?_, ⟨?_, ?_⟩, fun h => ?_, fun h => ?_⟩
  · rw [hc, slot]
  · rw [hc, top, htop]
  · rw [hc, lines, hciu]
  · rw [hc, segment, hbus]
  · rw [hc, init, hn, State.profile, State.profile, hp, hinit]
  · rw [hc, charge, hcharge]
  · rw [hc, profile, hp]
  · rw [hc, ← hn]
    exact goesOn h
  · obtain ⟨hstate, hstage, hslot, hlimit, i, ⟨i1, i2, i3, i4, i5⟩, hi⟩ := ends h
    rw [hc]
    exact ⟨hstate, hstage, hslot, hlimit, i, ⟨hg ▸ i1, i2, i3, i4.trans hn, i5.trans he⟩, hi⟩

theorem State.ReadingStarted.after {w u : State} (h : s.ReadingStarted w c) (hc : u.cage c = w.cage c)
    (hg : u.engine (engineOf c) = w.engine (engineOf c)) : s.ReadingStarted u c := by
  obtain ⟨init, image, i, ⟨i1, i2⟩, hi⟩ := h
  exact ⟨hc ▸ init, hc ▸ image, i, ⟨hg ▸ i1, i2⟩, hi⟩

end

/-! ### The scan (R132, R133) -/

theorem State.advanceScan_next (s : State) :
    s.advanceScan.cage (nextCage s.scanCage) =
      { s.cage (nextCage s.scanCage) with
        rlm :=
          { (s.cage (nextCage s.scanCage)).rlm with onPair := (s.cage (nextCage s.scanCage)).ciu.lines.rail } } := by
  unfold State.advanceScan
  rw [State.modCage_cage_self]
  rfl

theorem State.advanceScan_cage (s : State) {d : CageNo} (h : d ≠ nextCage s.scanCage) :
    s.advanceScan.cage d = s.cage d := by
  unfold State.advanceScan
  exact (State.modCage_only _ (nextCage s.scanCage) _).cages d h

theorem State.advanceScan_rest (s : State) :
    s.advanceScan.scanCage = nextCage s.scanCage ∧ (∀ g, s.advanceScan.group g = s.group g) ∧
      (∀ e, s.advanceScan.engine e = s.engine e) ∧ ∀ p, s.advanceScan.port p = s.port p := by
  refine ⟨rfl, fun _ => rfl, fun _ => rfl, fun p => ?_⟩
  cases p <;> rfl

theorem nextCage_ne (c : CageNo) : c ≠ nextCage c := by
  intro h
  have hv : c.val = (c.val + 1) % 32 := congrArg Fin.val h
  omega

/-! ### A completed pair (R132, R133, R142) -/

section
variable (s : State) (c : CageNo) (vc ic : BitVec 10)

/-- R133: the state with the pair stored and judged, before the sequencer takes what it brings. -/
def State.pairJudged : State :=
  s.modRlm c fun _ => (((s.cage c).rlm.latest vc ic).judge vc (pairPower vc ic) (s.profile c).overdraw).rlm

/-- R132, R133: the state with the pair stored and, where its rail has been ON throughout, evaluated, before the scan goes
on. -/
def State.pairTaken : State :=
  let s1 := s.modRlm c fun r => r.latest vc ic
  if (s.cage c).rlm.onPair && (s.cage c).ciu.lines.rail then s1.evaluatePair c vc ic else s1

theorem State.pairDone_eq : s.pairDone vc ic = (s.pairTaken s.scanCage vc ic).advanceScan := rfl

theorem State.pairJudged_cage :
    (s.pairJudged c vc ic).cage c =
      { s.cage c with
        rlm := (((s.cage c).rlm.latest vc ic).judge vc (pairPower vc ic) (s.profile c).overdraw).rlm } := by
  simp [State.pairJudged, State.modRlm]

theorem State.pairJudged_rest :
    (s.pairJudged c vc ic).now = s.now ∧ (s.pairJudged c vc ic).elapsed = s.elapsed ∧
      ∀ p, (s.pairJudged c vc ic).port p = s.port p := by
  refine ⟨rfl, rfl, fun p => ?_⟩
  cases p <;> rfl

variable {s c vc ic}

theorem State.pairTaken_skipped (h : (s.cage c).rlm.onPair = false ∨ (s.cage c).ciu.lines.rail = false) :
    s.pairTaken c vc ic = s.modRlm c fun r => r.latest vc ic := by
  refine if_neg ?_
  rcases h with h | h <;> simp [h]

theorem State.pairTaken_judged (ho : (s.cage c).rlm.onPair = true) (hr : (s.cage c).ciu.lines.rail = true) :
    let r := (s.cage c).rlm
    let b := s.pairJudged c vc ic
    let t := if r.pg = .notYet ∧ 785 ≤ vc.toNat then b.powerGood c else b
    ((∀ f, ¬r.Reports vc (pairPower vc ic) (s.profile c).overdraw f) → s.pairTaken c vc ic = t) ∧
      ∀ f, r.Reports vc (pairPower vc ic) (s.profile c).overdraw f → s.pairTaken c vc ic = t.powerFault c f := by
  have heval : s.pairTaken c vc ic = (s.modRlm c fun r => r.latest vc ic).evaluatePair c vc ic := if_pos (by simp [ho, hr])
  have hrlm : ((s.modRlm c fun r => r.latest vc ic).cage c).rlm = (s.cage c).rlm.latest vc ic := by simp
  have hprofile : (s.modRlm c fun r => r.latest vc ic).profile c = s.profile c := by simp [State.profile]
  have hb : ((s.modRlm c fun r => r.latest vc ic).modRlm c fun _ =>
      (((s.cage c).rlm.latest vc ic).judge vc (pairPower vc ic) (s.profile c).overdraw).rlm) = s.pairJudged c vc ic := by
    simp [State.modRlm, State.pairJudged]
  have hfault := Rlm.judge_fault (r := (s.cage c).rlm.latest vc ic) (vc := vc) (power := pairPower vc ic)
    (margin := (s.profile c).overdraw)
  dsimp only
  rw [heval]
  unfold State.evaluatePair
  dsimp only
  rw [hrlm, hprofile, hb]
  simp only [Rlm.judge_good]
  refine ⟨fun h => ?_, fun f h => ?_⟩
  · split
    · next f hf => exact absurd ((hfault f).mp hf) (h f)
    · rfl
  · rw [(hfault f).mpr h]
    rfl

theorem State.pairTaken_only (s : State) (c : CageNo) (vc ic : BitVec 10) : s.OnlyCage (s.pairTaken c vc ic) c := by
  by_cases h : (s.cage c).rlm.onPair = false ∨ (s.cage c).ciu.lines.rail = false
  · rw [State.pairTaken_skipped h]
    exact s.modRlm_only c _
  · push Not at h
    obtain ⟨ho, hr⟩ := h
    obtain ⟨hquiet, hreport⟩ := State.pairTaken_judged (vc := vc) (ic := ic) (by simpa using ho) (by simpa using hr)
    have hb : s.OnlyCage (s.pairJudged c vc ic) c := s.modRlm_only c _
    have ht := hb.trans (.ite (p := (s.cage c).rlm.pg = .notYet ∧ 785 ≤ vc.toNat) ((only c).powerGood _) (.refl _ c))
    by_cases hf : ∃ f, (s.cage c).rlm.Reports vc (pairPower vc ic) (s.profile c).overdraw f
    · obtain ⟨f, hf⟩ := hf
      rw [hreport f hf]
      exact ht.trans ((only c).powerFault _ f)
    · rw [hquiet (not_exists.mp hf)]
      exact ht

/-- R136, R140: the judgement of a stored pair is that of the monitor before it. -/
theorem State.pairJudged_judges (h : ∀ f, ¬(s.cage c).rlm.Reports vc (pairPower vc ic) (s.profile c).overdraw f) :
    (s.cage c).rlm.Judges ((s.pairJudged c vc ic).cage c).rlm vc (pairPower vc ic) (s.profile c).overdraw := by
  rw [State.pairJudged_cage]
  obtain ⟨window, good, reported, above, within, stays⟩ :=
    Rlm.judge_judges (r := (s.cage c).rlm.latest vc ic) (vc := vc) (power := pairPower vc ic)
      (margin := (s.profile c).overdraw) h
  exact ⟨window, good, reported, above, within, stays⟩

/-- R132, R142: an evaluated pair stands as the latest, and the report it makes is made. -/
theorem State.pairTaken_keeps (ho : (s.cage c).rlm.onPair = true) (hr : (s.cage c).ciu.lines.rail = true) :
    ((s.pairJudged c vc ic).cage c).rlm.SameReport ((s.pairTaken c vc ic).cage c).rlm ∧
      ((s.pairTaken c vc ic).cage c).profile = (s.cage c).profile := by
  obtain ⟨hquiet, hreport⟩ := State.pairTaken_judged (vc := vc) (ic := ic) ho hr
  have ht := Rel.To.ite (K := judgedKept c) (p := (s.cage c).rlm.pg = .notYet ∧ 785 ≤ vc.toNat)
    (State.powerGood_judgedKept (s.pairJudged c vc ic)) (Rel.refl _ _)
  generalize (if (s.cage c).rlm.pg = .notYet ∧ 785 ≤ vc.toNat then (s.pairJudged c vc ic).powerGood c
    else s.pairJudged c vc ic) = t at hquiet hreport ht
  have hprofile : (t.cage c).profile = (s.cage c).profile := by rw [ht.profile, State.pairJudged_cage]
  by_cases hf : ∃ f, (s.cage c).rlm.Reports vc (pairPower vc ic) (s.profile c).overdraw f
  · obtain ⟨f, hf⟩ := hf
    obtain ⟨hrlm, hkept⟩ := t.powerFault_sameReport c f
    rw [hreport f hf]
    exact ⟨ht.judged.toSameReport.trans hrlm, hkept.trans hprofile⟩
  · rw [hquiet (not_exists.mp hf)]
    exact ⟨ht.judged.toSameReport, hprofile⟩

/-- R132: whatever comes of a pair, it is the latest, and the profile stays. -/
theorem State.pairTaken_latest (s : State) (c : CageNo) (vc ic : BitVec 10) :
    ((s.pairTaken c vc ic).cage c).rlm.vc = some vc ∧ ((s.pairTaken c vc ic).cage c).rlm.ic = some ic ∧
      ((s.pairTaken c vc ic).cage c).rlm.power = some (pairPower vc ic) ∧
      ((s.pairTaken c vc ic).cage c).profile = (s.cage c).profile := by
  by_cases h : (s.cage c).rlm.onPair = false ∨ (s.cage c).ciu.lines.rail = false
  · rw [State.pairTaken_skipped h]
    simp [Rlm.latest]
  · push Not at h
    obtain ⟨ho, hr⟩ := h
    obtain ⟨hrlm, hprofile⟩ := State.pairTaken_keeps (vc := vc) (ic := ic) (by simpa using ho) (by simpa using hr)
    obtain ⟨hvc, hic, hpower⟩ := Rlm.judge_latest (r := (s.cage c).rlm.latest vc ic) (vc := vc)
      (power := pairPower vc ic) (margin := (s.profile c).overdraw)
    rw [State.pairJudged_cage] at hrlm
    exact ⟨hrlm.vc.trans hvc, hrlm.ic.trans hic, hrlm.power.trans hpower, hprofile⟩

/-- R133, R136: an evaluated pair that reports nothing. -/
theorem State.pairTaken_quiet (ho : (s.cage c).rlm.onPair = true) (hr : (s.cage c).ciu.lines.rail = true)
    (h : ∀ f, ¬(s.cage c).rlm.Reports vc (pairPower vc ic) (s.profile c).overdraw f) :
    (s.cage c).rlm.Judges ((s.pairTaken c vc ic).cage c).rlm vc (pairPower vc ic) (s.profile c).overdraw ∧
      (¬((s.cage c).rlm.pg = .notYet ∧ 785 ≤ vc.toNat) →
        ((s.pairTaken c vc ic).cage c).seq = (s.cage c).seq ∧ s.SameLists (s.pairTaken c vc ic)) ∧
      ((s.cage c).rlm.pg = .notYet → 785 ≤ vc.toNat → s.pairTaken c vc ic = (s.pairJudged c vc ic).powerGood c) := by
  obtain ⟨hquiet, -⟩ := State.pairTaken_judged (vc := vc) (ic := ic) ho hr
  have hj := State.pairJudged_judges h
  rw [hquiet h]
  refine ⟨?_, fun hg => ?_, fun hg hv => if_pos ⟨hg, hv⟩⟩
  · split
    · exact hj.congr (State.powerGood_judgedKept (s.pairJudged c vc ic)).judged
    · exact hj
  · rw [if_neg hg, State.pairJudged_cage]
    exact ⟨rfl, fun p => by rw [s.pairJudged_rest c vc ic |>.2.2 p]⟩

/-- R45: POWER_GOOD that is held, told from the state before the pair. -/
theorem State.pairJudged_held :
    (((s.pairJudged c vc ic).holdPowerGood c).cage c).seq =
      { (s.cage c).seq with pgHeld := true, timers := { (s.cage c).seq.timers with pgLimit := none } } := by
  rw [State.holdPowerGood_cage, State.pairJudged_cage]

/-- R45: a rail that becomes good in slot 1's wait starts slot 1. -/
theorem State.pairJudged_starts {t : SlotTable} {u : State} (hr : (s.cage c).ciu.lines.rail = true)
    (hs : (s.cage c).seq.state = .powering) (h0 : (s.cage c).seq.slot = 0) (hd : Reached (s.cage c).seq.timers.slot s.now)
    (ht : (s.cage c).seq.table = some t)
    (hb : t.bus = 1 ∨ (s.cage c).bus.seg = .connected ∨ 1 < max t.bus t.ready)
    (hc : u.cage c = ((s.pairJudged c vc ic).powerGood c).cage c)
    (hg : u.engine (engineOf c) = ((s.pairJudged c vc ic).powerGood c).engine (engineOf c)) :
    s.SlotStarted u c t 1 ∧ (u.cage c).seq.pgHeld = true ∧ (u.cage c).seq.timers.pgLimit = none := by
  have hcage := s.pairJudged_cage c vc ic
  rw [State.powerGood_starts (by rw [hcage]; exact hs) (by rw [hcage]; exact h0) (by rw [hcage]; exact hd)] at hc hg
  have hheld := (s.pairJudged c vc ic).holdPowerGood_cage c
  rw [hcage] at hheld
  obtain ⟨hstarted, hpg, hlimit⟩ :=
    State.startSlot_spec (s := (s.pairJudged c vc ic).holdPowerGood c) (c := c) (t := t) (n := 1)
      (by rw [hheld]; exact hs) (by rw [hheld]; exact ht) (by rw [hheld]; exact hr) (by rw [hheld]; exact hb)
  refine ⟨hstarted.congr rfl rfl ?_ ?_ ?_ ?_ ?_ ?_ hc hg, ?_, ?_⟩
  rotate_left 6
  · rw [hc, hpg, hheld]
  · rw [hc, hlimit (by rw [hheld])]
  all_goals rw [hheld]

/-- R187, R189: a rail that becomes good starts the reading of an adopted module that waited for it. -/
theorem State.pairJudged_reads {u : State} (hs : (s.cage c).seq.state = .adopting)
    (ha : (s.cage c).seq.adopted = true) (hp : (s.cage c).seq.pgHeld = false) (hb : (s.cage c).bus.seg = .connected)
    (hc : u.cage c = ((s.pairJudged c vc ic).powerGood c).cage c)
    (hg : u.engine (engineOf c) = ((s.pairJudged c vc ic).powerGood c).engine (engineOf c)) :
    s.ReadingStarted u c ∧ (u.cage c).seq.pgHeld = true ∧ (u.cage c).seq.timers.pgLimit = none := by
  have hcage := s.pairJudged_cage c vc ic
  rw [State.powerGood_reads (by rw [hcage]; exact hs) (by rw [hcage]; exact ha) (by rw [hcage]; exact hp)] at hc hg
  have hheld := (s.pairJudged c vc ic).holdPowerGood_cage c
  rw [hcage] at hheld
  obtain ⟨hstarted, hseq, -⟩ :=
    State.startReading_spec ((s.pairJudged c vc ic).holdPowerGood c) c (by rw [hheld]; exact hb)
  refine ⟨(hstarted.congr (s := s) rfl rfl ?_ ?_).after hc hg, ?_, ?_⟩
  · rw [hheld]
  · rw [hheld]
  · rw [hc, hseq, hheld]
  · rw [hc, hseq, hheld]

/-- R104, R142: an evaluated pair that reports a power fault. -/
theorem State.pairTaken_reports {f : Reason} (ho : (s.cage c).rlm.onPair = true) (hr : (s.cage c).ciu.lines.rail = true)
    (h : (s.cage c).rlm.Reports vc (pairPower vc ic) (s.profile c).overdraw f) :
    let w := s.pairTaken c vc ic
    let q := (s.cage c).seq
    (w.cage c).rlm.reported = true ∧
      (q.state ≠ .draining → ¬((s.cage c).rlm.pg = .notYet ∧ 785 ≤ vc.toNat) →
        s.Draining w c .faulted (some f) ∧ s.Posted w c .fault) ∧
      (q.state ≠ .draining →
        (w.cage c).seq.state = .draining ∧ (w.cage c).seq.dest = some .faulted ∧ (w.cage c).seq.reason = some f) ∧
      (q.state = .draining → q.dest = some .admitWait →
        (w.cage c).seq = { q with dest := some .faulted, reason := some f } ∧ s.Posted w c .fault) ∧
      (q.state = .draining → q.dest ≠ some .admitWait → (w.cage c).seq = q ∧ s.SameLists w) := by
  obtain ⟨-, hreport⟩ := State.pairTaken_judged (vc := vc) (ic := ic) ho hr
  obtain ⟨hrlm, -⟩ := State.pairTaken_keeps (vc := vc) (ic := ic) ho hr
  have hcage := s.pairJudged_cage c vc ic
  obtain ⟨-, -, hport⟩ := s.pairJudged_rest c vc ic
  have hdrain : (s.cage c).seq.state = .draining → (if (s.cage c).rlm.pg = .notYet ∧ 785 ≤ vc.toNat then
      (s.pairJudged c vc ic).powerGood c else s.pairJudged c vc ic) = s.pairJudged c vc ic := fun hd => by
    split
    · exact State.powerGood_ignored (by rw [hcage]; simp [hd]) (by rw [hcage]; simp [hd])
    · rfl
  have hrail : ((s.pairJudged c vc ic).cage c).ciu.lines.rail = true := by rw [hcage]; exact hr
  dsimp only
  rw [hcage] at hrlm
  refine ⟨hrlm.reported.trans (Rlm.judge_reported (r := (s.cage c).rlm.latest vc ic) h), ?_⟩
  rw [hreport f h]
  refine ⟨fun hd hg => ?_, fun hd => ?_, fun hd ha => ?_, fun hd ha => ?_⟩
  · rw [if_neg hg]
    obtain ⟨h1, h2⟩ := State.powerFault_drains (s := s.pairJudged c vc ic) hrail (by rw [hcage]; exact hd) f
    refine ⟨h1.congr (s.modRlm_only c _) ⟨(s.cage c).seq.timers, by rw [hcage]⟩ (by rw [hcage]) (by rw [hcage])
      (by rw [hcage]; exact ⟨rfl, rfl, rfl⟩) rfl, fun p => ?_⟩
    rw [h2 p, hport]
  · have ht := Rel.To.ite (K := judgedKept c) (p := (s.cage c).rlm.pg = .notYet ∧ 785 ≤ vc.toNat)
      (State.powerGood_judgedKept (s.pairJudged c vc ic)) (Rel.refl _ _)
    exact (State.powerFault_drains (ht.rail.trans hrail) (ht.state (by rw [hcage]; exact hd)) f).1.state
  · rw [hdrain hd]
    obtain ⟨h1, -, h2⟩ := State.powerFault_redirected (s := s.pairJudged c vc ic) hrail (by rw [hcage]; exact hd)
      (by rw [hcage]; exact ha) f
    refine ⟨by rw [h1, hcage], fun p => ?_⟩
    rw [h2 p, hport]
  · rw [hdrain hd, State.powerFault_ignored (by rw [hcage]; exact hd) (by rw [hcage]; exact ha) f, hcage]
    exact ⟨rfl, fun p => by rw [hport]⟩

end

end Sys2Proof.Machine

namespace Sys2Proof.Proofs

open Sys2Proof.Machine

/-- Settles O57: a completed pair stands as the latest, the scan goes on, and an evaluated pair is judged by what the
monitor held. -/
theorem pairsAreJudged : Obligations.PairsAreJudged := by
  intro s vc ic hr
  have hexec : exec (.pairComplete vc ic) s = .next (s.pairDone vc ic).settle := by
    simp [exec, execPairComplete, act_awake hr]
  dsimp only
  generalize hc : s.scanCage = c
  have honly := s.pairTaken_only c vc ic
  obtain ⟨hvc, hic, hpower, hprofile⟩ := s.pairTaken_latest c vc ic
  rw [State.pairDone_eq, hc] at hexec
  have hscan : (s.pairTaken c vc ic).scanCage = c := honly.device.scanCage.trans hc
  have hnext := (s.pairTaken c vc ic).advanceScan_next
  have hrest := fun d => (s.pairTaken c vc ic).advanceScan_cage (d := d)
  rw [hscan] at hnext hrest
  have hne := nextCage_ne c
  have hcage := hrest c hne
  obtain ⟨hto, hgroup, hengine, hport⟩ := (s.pairTaken c vc ic).advanceScan_rest
  rw [hscan] at hto
  generalize (s.pairTaken c vc ic).advanceScan = u at hexec hnext hrest hcage hto hgroup hengine hport
  refine ⟨u, hexec, congrArg Fin.val hto, fun d hd hn => ?_, ?_, fun g hg => ?_, fun e he => ?_, ?_, ?_, ?_, ?_,
    fun hoff => ?_, fun hon hrail => ⟨fun hno => ?_, fun f hf => ?_⟩⟩
  · rw [hrest d (hto ▸ hn), honly.cages d hd]
  · rw [hto, hnext, honly.cages _ hne.symm]
  · rw [hgroup, honly.groups g hg]
  · rw [hengine, honly.engines e he]
  · rw [hcage, hvc]
  · rw [hcage, hic]
  · rw [hcage, hpower]
    rfl
  · rw [hcage, hprofile]
  · rw [hcage, State.pairTaken_skipped hoff]
    refine ⟨by simp [State.modRlm, Rlm.latest, pairPower], fun p => ?_⟩
    rw [hport, State.pairTaken_skipped hoff]
    cases p <;> rfl
  · obtain ⟨hjudges, hquiet, hgood⟩ := State.pairTaken_quiet (ic := ic) hon hrail hno
    rw [hcage]
    refine ⟨hjudges, fun hg => ⟨(hquiet hg).1, fun p => ?_⟩, fun hpg hv => ?_⟩
    · rw [hport, (hquiet hg).2 p]
    · have hw := hgood hpg hv
      have hjudged := s.pairJudged_cage c vc ic
      rw [hw] at hcage hengine ⊢
      refine ⟨fun hs h => ?_, fun t hs h0 hd ht hb => ?_, fun hs ha hp hb => ?_, fun hs ha => ?_, fun hp ha => ?_⟩
      · rw [State.powerGood_waits (by rw [hjudged]; exact hs) (by rw [hjudged]; exact h), State.pairJudged_held]
      · rw [← hcage]
        exact State.pairJudged_starts hrail hs h0 hd ht hb hcage (hengine _)
      · rw [← hcage]
        exact State.pairJudged_reads hs ha hp hb hcage (hengine _)
      · rw [State.powerGood_unadopted (by rw [hjudged]; exact hs) (by rw [hjudged]; exact ha), State.pairJudged_held]
      · rw [State.powerGood_ignored (by rw [hjudged]; exact hp) (by rw [hjudged]; exact ha), hjudged]
  · obtain ⟨hreported, hdrains, hfaults, hredirects, hignored⟩ := State.pairTaken_reports (ic := ic) hon hrail hf
    rw [hcage]
    refine ⟨hreported, fun hd hg => ?_, fun hd _ _ => hfaults hd, fun hd ha => ?_, fun hd ha => ?_⟩
    · obtain ⟨hd, hposted⟩ := hdrains hd hg
      obtain ⟨hstate, hdest, hreason⟩ := hd.state
      exact ⟨hstate, hdest, hreason, hd.slot, hd.low.1, hd.polls, fun p => by rw [hport, hposted p]⟩
    · exact ⟨(hredirects hd ha).1, fun p => by rw [hport, (hredirects hd ha).2 p]⟩
    · exact ⟨(hignored hd ha).1, fun p => by rw [hport, (hignored hd ha).2 p]⟩

end Sys2Proof.Proofs
end

section
/-! SET_BUDGET (R118, R119, R121, R111): the entries that no longer fit, and the cages that a new budget covers. -/

namespace Sys2Proof.Machine

/-! ### The DEVICE entry -/

/-- The DEVICE entry of the attention lists stays, as a relation that is followed through the operations. -/
def deviceKept : Rel where
  R := fun s t => ∀ p, entriesOfDevice (t.port p).list = entriesOfDevice (s.port p).list
  refl' := fun _ _ => rfl
  trans' := fun a b p => (b p).trans (a p)

theorem deviceKept_of_ports {s t : State} (h : t.portA = s.portA ∧ t.portB = s.portB) : deviceKept.To s t := by
  obtain ⟨hA, hB⟩ := h
  intro p
  cases p <;> simp [State.port, hA, hB]

theorem deviceKept_of_posted {s t : State} {c : CageNo} {k : CageKind} (h : s.Posted t c k) : deviceKept.To s t :=
  fun p => by rw [h p, entriesOfDevice_addKind]

section
variable (s : State) (c : CageNo)

theorem State.modSeq_deviceKept (f : Ctx → Ctx) : deviceKept.To s (s.modSeq c f) := deviceKept_of_ports ⟨rfl, rfl⟩

theorem State.enter_deviceKept (st : SeqState) (stage : Stage) : deviceKept.To s (s.enter c st stage) :=
  deviceKept_of_ports (by simp)

theorem State.parkNow_deviceKept (r : Reason) (stage : Stage) (src : Option Source) :
    deviceKept.To s (s.parkNow c r stage src) :=
  deviceKept_of_posted (s.parkNow_spec c r stage src).posted

theorem State.postSeq_deviceKept (a : Access) : deviceKept.To s (s.postSeq c a) := by
  unfold State.postSeq
  split
  · exact deviceKept_of_ports ⟨rfl, rfl⟩
  · exact deviceKept_of_posted (s.moduleFault_spec c _).posted
  · exact s.modSeq_deviceKept c _

theorem State.enqueue_deviceKept (k : QueueKind) (n : Nat) (stage : Stage) :
    deviceKept.To s (s.enqueue c k n stage) := by
  unfold State.enqueue
  exact .ite (s.parkNow_deviceKept c _ _ _) (deviceKept_of_ports ⟨rfl, rfl⟩)

theorem State.enterAdmit_deviceKept : deviceKept.To s (s.enterAdmit c) :=
  .trans (.trans (.trans (t := s.stopWork c) (deviceKept_of_ports ⟨rfl, rfl⟩) (State.enter_deviceKept _ c _ _))
    (State.modSeq_deviceKept _ c _)) (State.enqueue_deviceKept _ c _ _ _)

theorem State.enterFind_deviceKept : deviceKept.To s (s.enterFind c) := by
  have hfind : deviceKept.To s (s.enter c .identify .find) := s.enter_deviceKept c _ _
  unfold State.enterFind State.startIdentPoll
  dsimp only
  generalize s.enter c .identify .find = t at hfind ⊢
  refine hfind.trans (.trans ?_ (State.postSeq_deviceKept _ c _))
  exact deviceKept_of_ports ⟨rfl, rfl⟩

theorem State.parkFromDecide_deviceKept (r : Reason) (src : Option Source) :
    deviceKept.To s (s.parkFromDecide c r src) := by
  unfold State.parkFromDecide
  dsimp only
  refine .ite (.trans ?_ (State.postSeq_deviceKept _ c _)) (s.parkNow_deviceKept c _ _ _)
  exact deviceKept_of_ports (by simp)

theorem State.proceedRestore_deviceKept (src : Source) : deviceKept.To s (s.proceed c .restore src) := by
  unfold State.proceed
  refine .ite (.trans ?_ (State.postSeq_deviceKept _ c _)) (.trans ?_ (State.enqueue_deviceKept _ c _ _ _))
  · exact deviceKept_of_ports (by simp [State.commit])
  · exact deviceKept_of_ports (by simp [State.commit])

theorem State.decideEval_deviceKept : deviceKept.To s (s.decideEval c) := by
  unfold State.decideEval
  dsimp only
  refine Rel.To.trans (t := (s.modTimers c fun t => { t with window := none }).recordClass c (s.classify c))
    (deviceKept_of_ports ⟨rfl, rfl⟩) ?_
  split
  · exact State.parkFromDecide_deviceKept _ c _ _
  · exact State.proceedRestore_deviceKept _ c _
  · exact deviceKept_of_posted (State.waitDecision_spec _ c _).posted
  · exact deviceKept_of_posted (State.waitDecision_spec _ c _).posted

theorem State.resume_deviceKept : deviceKept.To s (s.resume c) := by
  have hcleared : deviceKept.To s (s.reasonCleared c) := s.modSeq_deviceKept c _
  by_cases hr : (s.cage c).ciu.lines.rail = true
  · by_cases hn : (s.cage c).seq.reason = some .noFieldMap
    · rw [State.resume_unmapped hr hn]
      exact hcleared.trans (State.enterFind_deviceKept _ c)
    · rw [State.resume_decides hr hn]
      exact (hcleared.trans (State.enter_deviceKept _ c _ _)).trans (State.decideEval_deviceKept _ c)
  · rw [State.resume_unpowered (by simpa using hr)]
    exact hcleared.trans (State.enterAdmit_deviceKept _ c)

end

/-- R182: a kind of the part regards the DEVICE entry only. -/
theorem entriesOfDevice_addKind_device (l : List AttEntry) (k : BitVec 16) (r : Option ResetCause) :
    entriesOfDevice (addKind l none k r) = addKind (entriesOfDevice l) none k r := by
  unfold entriesOfDevice
  induction l with
  | nil => simp [addKind]
  | cons a l ih =>
    by_cases h : a.who = none
    · simp [addKind, h]
    · simp [addKind, h, ih]

/-! ### The committed charge (R117) -/

section
variable {s u : State} {c : CageNo}

theorem State.ParksInDecide.committed {r : Reason} {src : Option Source} (h : s.ParksInDecide u c r src)
    (hp : s.Plain c) : (u.group (groupOf c)).committed = (s.group (groupOf c)).committed := by
  rw [(h.1 hp).power.2.2]

/-- R117: the evaluation of a module that does not run at high power from its adoption changes no charge. -/
theorem State.Evaluated.committed (h : s.Evaluated u c) (hp : s.Plain c) :
    (u.group (groupOf c)).committed = (s.group (groupOf c)).committed := by
  have hc : (s.classed c).Plain c := by simpa [State.Plain, State.classed] using hp
  change _ = ((s.classed c).group (groupOf c)).committed
  unfold State.Evaluated at h
  dsimp only at h
  split at h
  · exact h.committed hc
  · split at h
    · exact h.committed hc
    · split at h
      · exact h.committed hc
      · split at h
        · rw [h.group]
        · split at h
          · rw [(h.1 hc).1.queued]
          · rw [h.group]

theorem State.resume_committed (h : (s.cage c).ciu.lines.rail = true → s.Plain c)
    (hn : (s.cage c).seq.reason ≠ some .noFieldMap) :
    ((s.resume c).group (groupOf c)).committed = (s.group (groupOf c)).committed := by
  by_cases hr : (s.cage c).ciu.lines.rail = true
  · obtain ⟨b, hb, he⟩ := State.resume_evaluates hr hn
    have hp : b.Plain c := by
      rw [State.Plain, hb.seq]
      exact h hr
    obtain ⟨-, -, -, -, -, hgroup⟩ := hb.kept
    rw [he.committed hp, hgroup]
  · obtain ⟨hfits, hnever⟩ := State.resume_asks (s := s) (c := c) (by simpa using hr)
    by_cases hb : (s.group (groupOf c)).budget < 1500
    · rw [(hnever hb).1.group]
    · rw [(hfits (by omega)).1.queued]

end

/-! ### The entries that no longer fit (R121) -/

/-- R121: the cage of an entry that no longer fits parks with BUDGET at the stage of its kind. -/
def State.parkUnfit (s : State) (e : Entry) : State :=
  (s.withdrawEntry e.cage).parkNow e.cage .budget e.kind.parkStage none

section
variable {s : State} {g : GroupNo}

theorem State.parkUnfit_confined (s : State) (e : Entry) : s.Confined (s.parkUnfit e) e.cage :=
  Rel.To.trans (K := (confined e.cage).toRel) ((confined e.cage).withdrawEntry s) ((confined e.cage).parkNow _ _ _ _)

/-- R121: the cage of an entry that no longer fits has parked, told from the state before it. -/
theorem State.parkUnfit_spec (s : State) (e : Entry) :
    let u := s.parkUnfit e
    (u.cage e.cage).seq.state = .parked ∧ (u.cage e.cage).seq.reason = some .budget ∧
      (u.cage e.cage).seq.stage = (if e.kind = .lowPower then .lowPowerStage else .hpStage) ∧
      (u.cage e.cage).outage =
        closedRecord (s.cage e.cage).outage s.now (s.cage e.cage).seq.retry .parked (some .budget) ∧
      ∀ p, ∃ a ∈ (u.port p).list, a.who = some e.cage ∧ a.kinds &&& CageKind.parked.bit ≠ 0 := by
  have h := (s.withdrawEntry e.cage).parkNow_spec e.cage .budget e.kind.parkStage none
  obtain ⟨hstate, hstage, hreason⟩ := h.state
  refine ⟨hstate, hreason, ?_, ?_, fun p => ?_⟩
  · rw [State.parkUnfit, hstage]
    cases e.kind <;> rfl
  · rw [State.parkUnfit, h.record]
    simp [State.withdrawEntry]
  · rw [State.parkUnfit, h.posted p]
    exact addKind_has _ _ CageKind.parked.bit_ne_zero _

/-- R122: the entry leaves the queue, and the charges stay. -/
theorem State.parkUnfit_group (s : State) (e : Entry) (hg : groupOf e.cage = g) :
    (s.parkUnfit e).group g =
      { s.group g with queue := (s.group g).queue.filter fun x => decide (x.cage ≠ e.cage) } := by
  subst hg
  obtain ⟨-, -, hgroup⟩ := ((s.withdrawEntry e.cage).parkNow_spec e.cage .budget e.kind.parkStage none).power
  rw [State.parkUnfit, hgroup]
  simp [State.withdrawEntry]

/-- R121: with the budget in force, the never-fit tests of the queue park the cages of the entries above it. -/
theorem State.neverFits_eq {n : Nat} (l : List Entry) (hl : ∀ e ∈ l, groupOf e.cage = g)
    (hn : (s.group g).budget = n) :
    l.foldl (fun s e => s.neverFit g e) s = (l.filter fun e => decide (n < e.requested)).foldl State.parkUnfit s := by
  induction l generalizing s with
  | nil => rfl
  | cons e l ih =>
    have hl' := fun x hx => hl x (List.mem_cons_of_mem _ hx)
    by_cases he : n < e.requested
    · have hb : ((s.parkUnfit e).group g).budget = n := by
        rw [s.parkUnfit_group e (hl e (List.mem_cons_self ..)), hn]
      simp only [List.foldl_cons, List.filter_cons, he, decide_true, if_true]
      rw [← ih hl' hb]
      congr 1
      simp [State.neverFit, State.parkUnfit, hn, he]
    · simp only [List.foldl_cons, List.filter_cons, he, decide_false]
      rw [show s.neverFit g e = s by simp [State.neverFit, hn, he]]
      exact ih hl' hn

theorem State.parkUnfits_keeps {R : State → State → Prop} (refl : ∀ s, R s s)
    (trans : ∀ {s t u}, R s t → R t u → R s u) (l : List Entry) (h : ∀ e ∈ l, ∀ s, R s (s.parkUnfit e)) (s : State) :
    R s (l.foldl State.parkUnfit s) := by
  induction l generalizing s with
  | nil => exact refl s
  | cons e l ih =>
    exact trans (h e (List.mem_cons_self ..) s) (ih (fun x hx => h x (List.mem_cons_of_mem _ hx)) _)

/-- A cage without an entry among them is not affected. -/
theorem State.parkUnfits_beside {c : CageNo} {l : List Entry} (h : ∀ e ∈ l, e.cage ≠ c) (s : State) :
    s.Beside (l.foldl State.parkUnfit s) c :=
  State.parkUnfits_keeps (R := fun s t => s.Beside t c) (fun s => .refl s c) (fun a b => a.trans b) l
    (fun e he s => (s.parkUnfit_confined e).beside (h e he).symm) s

/-- The cage of an entry among them parks, beside the others. -/
theorem State.parkUnfits_around {e : Entry} {l : List Entry} (hn : (l.map Entry.cage).Nodup) (he : e ∈ l) (s : State) :
    ∃ t, s.Beside t e.cage ∧ (t.parkUnfit e).Beside (l.foldl State.parkUnfit s) e.cage := by
  obtain ⟨l1, l2, rfl⟩ := List.append_of_mem he
  rw [List.map_append, List.map_cons] at hn
  obtain ⟨-, h2, hne⟩ := List.nodup_append.mp hn
  refine ⟨l1.foldl State.parkUnfit s, State.parkUnfits_beside (fun x hx => ?_) s, ?_⟩
  · exact hne _ (List.mem_map_of_mem hx) _ (List.mem_cons_self ..)
  · rw [List.foldl_append, List.foldl_cons]
    refine State.parkUnfits_beside (fun x hx hc => (List.nodup_cons.mp h2).1 ?_) _
    exact hc ▸ List.mem_map_of_mem hx

theorem State.parkUnfits_group (l : List Entry) (hl : ∀ e ∈ l, groupOf e.cage = g) (s : State) :
    (l.foldl State.parkUnfit s).group g =
      { s.group g with queue := (s.group g).queue.filter fun x => decide (∀ e ∈ l, x.cage ≠ e.cage) } := by
  induction l generalizing s with
  | nil => simp
  | cons e l ih =>
    rw [List.foldl_cons, ih (fun x hx => hl x (List.mem_cons_of_mem _ hx)),
      s.parkUnfit_group e (hl e (List.mem_cons_self ..))]
    simp [List.filter_filter, Bool.and_comm]

/-- R121: in a queue of one entry per cage, those of the unfit entries' cages are the unfit entries. -/
theorem filter_unfit {n : Nat} {q : List Entry} (hn : (q.map Entry.cage).Nodup) :
    (q.filter fun x : Entry => decide (∀ e ∈ q.filter (fun e : Entry => decide (n < e.requested)), x.cage ≠ e.cage)) =
      q.filter fun e => decide (e.requested ≤ n) := by
  refine List.filter_congr fun x hx => ?_
  rw [decide_eq_decide]
  constructor
  · intro h
    by_contra hx'
    exact h x (List.mem_filter.mpr ⟨hx, by simpa using hx'⟩) rfl
  · intro h e he hc
    obtain ⟨he, hb⟩ := List.mem_filter.mp he
    have := List.inj_on_of_nodup_map hn hx he hc
    subst this
    exact absurd h (by simpa using hb)

end

/-! ### A budget change (R118, R111) -/

/-- R118: the state with a group's new budget. -/
def State.withBudget (s : State) (g : GroupNo) (n : Nat) : State := s.modGroup g fun x => { x with budget := n }

/-- R121: the entries of a group's queue that a budget does not hold, from the head to the tail. -/
def State.unfit (s : State) (g : GroupNo) (n : Nat) : List Entry :=
  (s.group g).queue.filter fun e => decide (n < e.requested)

/-- R111: the cages that a new budget covers, lowest first. -/
def State.covered (s : State) (g : GroupNo) (n : Nat) : List CageNo :=
  (cagesOf g).filter fun c => (s.withBudget g n).budgetCovers g c

/-- R121: the state with the new budget and the cages of the unfit entries parked. -/
def State.unfitParked (s : State) (g : GroupNo) (n : Nat) : State :=
  (s.unfit g n).foldl State.parkUnfit (s.withBudget g n)

/-- R111: the state with the covered cages resumed as well. -/
def State.coveredResumed (s : State) (g : GroupNo) (n : Nat) : State :=
  (s.unfitParked g n).each (s.covered g n) fun c s => s.resume c

/-- The entries of a group's queue are those of its own cages, at most one of each, and of cages that are not parked. -/
structure State.QueueLive (s : State) (g : GroupNo) : Prop where
  entries : ∀ e ∈ (s.group g).queue, groupOf e.cage = g ∧ (s.cage e.cage).seq.state ≠ .parked
  nodup : ((s.group g).queue.map Entry.cage).Nodup

section
variable {s : State} {g : GroupNo} {n : Nat} {c : CageNo}

theorem State.mem_unfit {e : Entry} : e ∈ s.unfit g n ↔ e ∈ (s.group g).queue ∧ n < e.requested := by
  simp [State.unfit]

theorem State.mem_covered : c ∈ s.covered g n ↔ s.BudgetCovers g c n := by
  have hb : ((s.withBudget g n).group g).budget = n := by simp [State.withBudget]
  have hc : (s.withBudget g n).cage c = s.cage c := rfl
  have hd : (s.withBudget g n).declared c = s.declared c := rfl
  simp only [State.covered, List.mem_filter, mem_cagesOf, State.budgetCovers, hb, hc, hd, State.BudgetCovers,
    Bool.and_eq_true, decide_eq_true_eq, lowPowerCharge]
  refine and_congr_right fun _ => ?_
  rw [and_assoc]
  refine and_congr_right fun _ => and_congr_right fun _ => ?_
  split <;> simp

theorem State.nodup_covered : (s.covered g n).Nodup := (nodup_cagesOf g).filter _

theorem State.changeBudget_eq (h : s.QueueLive g) : s.changeBudget g n = (s.coveredResumed g n).overcommit g := by
  have hb : ((s.withBudget g n).group g).budget = n := by simp [State.withBudget]
  have hparked := State.neverFits_eq (s := s.withBudget g n) (s.group g).queue (fun e he => (h.entries e he).1) hb
  unfold State.changeBudget
  dsimp only
  rw [show (s.modGroup g fun x => { x with budget := n }) = s.withBudget g n from rfl, hparked]
  rfl

/-! ### The parked cages -/

theorem State.unfitParked_group (h : s.QueueLive g) :
    (s.unfitParked g n).group g =
      { s.group g with
        budget := n
        queue := (s.group g).queue.filter fun e => decide (e.requested ≤ n) } := by
  have hg : (s.withBudget g n).group g = { s.group g with budget := n } := by simp [State.withBudget]
  rw [State.unfitParked, State.parkUnfits_group (g := g) _ fun e he => (h.entries e (State.mem_unfit.mp he).1).1, hg]
  rw [← filter_unfit h.nodup]
  rfl

theorem State.unfitParked_beside (hc : ∀ e ∈ (s.group g).queue, n < e.requested → e.cage ≠ c) :
    (s.withBudget g n).Beside (s.unfitParked g n) c :=
  State.parkUnfits_beside (fun e he => hc e (State.mem_unfit.mp he).1 (State.mem_unfit.mp he).2) _

theorem State.unfitParked_rest (h : s.QueueLive g) :
    s.SameDevice (s.unfitParked g n) ∧ (∀ h, h ≠ g → (s.unfitParked g n).group h = s.group h) ∧
      deviceKept.To s (s.unfitParked g n) := by
  have hkeeps := State.parkUnfits_keeps
    (R := fun s t => s.SameDevice t ∧ (∀ h, h ≠ g → t.group h = s.group h) ∧ deviceKept.To s t)
    (fun s => ⟨.refl s, fun _ _ => rfl, deviceKept.refl s⟩)
    (fun a b => ⟨a.1.trans b.1, fun h hh => (b.2.1 h hh).trans (a.2.1 h hh), a.2.2.trans b.2.2⟩)
    (s.unfit g n) (fun e he t => by
      have ho := (t.parkUnfit_confined e).only
      have hg := (h.entries e (State.mem_unfit.mp he).1).1
      refine ⟨ho.device, fun h hh => ho.groups h (by rwa [hg]), ?_⟩
      exact Rel.To.trans (t := t.withdrawEntry e.cage) (deviceKept_of_ports ⟨rfl, rfl⟩)
        (State.parkNow_deviceKept _ _ _ _ _)) (s.withBudget g n)
  obtain ⟨hdevice, hgroups, hlists⟩ := hkeeps
  have hd : s.SameDevice (s.withBudget g n) := by constructor <;> rfl
  have hl : deviceKept.To s (s.withBudget g n) := deviceKept_of_ports ⟨rfl, rfl⟩
  exact ⟨hd.trans hdevice, fun h hh => by
    rw [State.unfitParked, hgroups h hh, State.withBudget, State.modGroup_group_ne _ _ _ _ hh], hl.trans hlists⟩

/-- A cage that was parked before has no entry. -/
theorem State.QueueLive.not_covered (h : s.QueueLive g) {e : Entry} (he : e ∈ (s.group g).queue) :
    ¬s.BudgetCovers g e.cage n :=
  fun hc => (h.entries e he).2 hc.2.1

/-! ### The resumed cages -/

theorem State.coveredResumed_beside (hc : ¬s.BudgetCovers g c n) :
    (s.unfitParked g n).Beside (s.coveredResumed g n) c :=
  State.each_beside_of_notMem (fun d s => (confined d).resume s) (fun h => hc (State.mem_covered.mp h)) _

/-- R111: a covered cage resumes, as it was found, under the new budget. -/
theorem State.coveredResumed_around (h : s.QueueLive g) (hc : s.BudgetCovers g c n) :
    ∃ t : State, t.cage c = s.cage c ∧ s.SameDevice t ∧ (t.group g).budget = n ∧
      (t.resume c).Beside (s.coveredResumed g n) c := by
  obtain ⟨t, ht, hu⟩ := State.each_beside (f := fun c s => s.resume c) (fun d s => (confined d).resume s)
    State.nodup_covered (State.mem_covered.mpr hc) (s.unfitParked g n)
  have hfirst := State.unfitParked_beside (s := s) (g := g) (n := n) (c := c) fun e he _ hec =>
    h.not_covered he (hec ▸ hc)
  have hb : (t.group g).budget = n := by
    have hg := ht.group
    rw [hc.1] at hg
    rw [hg, State.unfitParked_group h]
  exact ⟨t, ht.cage.trans hfirst.cage, (State.unfitParked_rest h).1.trans ht.device, hb, hu⟩

theorem State.coveredResumed_rest (h : s.QueueLive g) :
    (s.coveredResumed g n).group g =
        { s.group g with
          budget := n
          queue := ((s.coveredResumed g n).group g).queue
          committed := ((s.coveredResumed g n).group g).committed } ∧
      (∀ h, h ≠ g → (s.coveredResumed g n).group h = s.group h) ∧ deviceKept.To s (s.coveredResumed g n) := by
  have hkeeps := State.each_keeps (f := fun c s => s.resume c)
    (R := fun s t => t.group g = { s.group g with queue := (t.group g).queue, committed := (t.group g).committed } ∧
      (∀ h, h ≠ g → t.group h = s.group h) ∧ deviceKept.To s t)
    (fun s => ⟨rfl, fun _ _ => rfl, deviceKept.refl s⟩)
    (fun a b => ⟨by rw [b.1, a.1], fun h hh => (b.2.1 h hh).trans (a.2.1 h hh), a.2.2.trans b.2.2⟩)
    (s.covered g n) (fun d hd t => by
      have hg := (State.mem_covered.mp hd).1
      have ho := (only d).resume t
      have hgroup := State.OnlyCage.group ho
      have hgroups := State.OnlyCage.groups ho
      rw [hg] at hgroup hgroups
      exact ⟨hgroup, hgroups, t.resume_deviceKept d⟩) (s.unfitParked g n)
  obtain ⟨hgroup, hgroups, hlists⟩ := hkeeps
  obtain ⟨-, hother, hdevice⟩ := State.unfitParked_rest (n := n) h
  refine ⟨?_, fun h hh => (hgroups h hh).trans (hother h hh), hdevice.trans hlists⟩
  rw [State.unfitParked_group h] at hgroup
  exact hgroup

theorem State.coveredResumed_committed (h : s.QueueLive g)
    (hp : ∀ c, s.BudgetCovers g c n → (s.cage c).ciu.lines.rail = true → s.Plain c) :
    ((s.coveredResumed g n).group g).committed = (s.group g).committed := by
  have hkeeps := State.each_keeps_of_cage (f := fun c s => s.resume c) (fun d s => (only d).resume s)
    (R := fun s t => (t.group g).committed = (s.group g).committed) (fun _ => rfl) (fun a b => b.trans a)
    State.nodup_covered (s.unfitParked g n) (l := s.covered g n) (fun d hd t ht => by
      have hc := State.mem_covered.mp hd
      have hcage : t.cage d = s.cage d := ht.trans
        (State.unfitParked_beside (fun e he _ hec => h.not_covered he (hec ▸ hc))).cage
      have := State.resume_committed (s := t) (c := d) (by
        rw [State.Plain, hcage]
        exact hp d hc) (by rw [hcage, hc.2.2.1]; simp)
      rwa [hc.1] at this)
  rw [State.coveredResumed, hkeeps, State.unfitParked_group h]

/-! ### The overcommitment (R119) -/

theorem State.overcommit_same (s : State) (g : GroupNo) :
    (∀ c, (s.overcommit g).cage c = s.cage c) ∧ (∀ h, (s.overcommit g).group h = s.group h) ∧
      s.SameDevice (s.overcommit g) := by
  unfold State.overcommit
  split
  · exact ⟨fun _ => rfl, fun _ => rfl, by constructor <;> rfl⟩
  · exact ⟨fun _ => rfl, fun _ => rfl, .refl s⟩

theorem State.overcommit_list (s : State) (g : GroupNo) (p : Port) :
    ((s.overcommit g).port p).list =
      if (s.group g).budget < (s.group g).committed then
        addKind (s.port p).list none DeviceKind.overcommit.bit none
      else (s.port p).list := by
  unfold State.overcommit
  split
  · rw [State.postDevice_port]
    rfl
  · rfl

/-- A budget change leaves what a post to the DEVICE entry leaves of the entries of a cage. -/
theorem State.overcommit_entries (s : State) (g : GroupNo) (c : CageNo) (p : Port) :
    entriesOf ((s.overcommit g).port p).list c = entriesOf (s.port p).list c := by
  rw [State.overcommit_list]
  split
  · exact entriesOf_addKind _ _ _ _ c (by simp)
  · rfl

/-! ### What a budget change does -/

/-- R118, R119, R121, R111: from `s` to `u` the budget of a group has become `n`, as SET_BUDGET makes it. -/
structure State.BudgetChanged (s u : State) (g : GroupNo) (n : Nat) : Prop where
  budget : (u.group g).budget = n
  groups : ∀ h, h ≠ g → u.group h = s.group h
  group : (∀ c, ¬s.BudgetCovers g c n) →
    u.group g =
      { s.group g with
        budget := n
        queue := (s.group g).queue.filter fun e => decide (e.requested ≤ n) }
  lists : (∀ c, ¬s.BudgetCovers g c n) → (∀ e ∈ (s.group g).queue, e.requested ≤ n) →
    ∀ p, (u.port p).list =
      if n < (s.group g).committed then addKind (s.port p).list none DeviceKind.overcommit.bit none
      else (s.port p).list
  device : ∀ p, entriesOfDevice (u.port p).list =
    entriesOfDevice
      (if n < (u.group g).committed then addKind (s.port p).list none DeviceKind.overcommit.bit none
       else (s.port p).list)
  committed : (∀ c, s.BudgetCovers g c n → (s.cage c).ciu.lines.rail = true → s.Plain c) →
    (u.group g).committed = (s.group g).committed
  parks : ∀ e ∈ (s.group g).queue, n < e.requested →
    (∀ x ∈ (u.group g).queue, x.cage ≠ e.cage) ∧ (u.cage e.cage).seq.state = .parked ∧
      (u.cage e.cage).seq.reason = some .budget ∧
      (u.cage e.cage).seq.stage = (if e.kind = .lowPower then .lowPowerStage else .hpStage) ∧
      (u.cage e.cage).outage =
        closedRecord (s.cage e.cage).outage s.now (s.cage e.cage).seq.retry .parked (some .budget) ∧
      ∀ p, ∃ a ∈ (u.port p).list, a.who = some e.cage ∧ a.kinds &&& CageKind.parked.bit ≠ 0
  admits : ∀ c, s.BudgetCovers g c n → (s.cage c).ciu.lines.rail = false →
    s.newEntry c .lowPower 1500 ∈ (u.group g).queue ∧
      ∃ a b : State, a.cage c = s.cage c ∧ a.SameDevice s ∧ a.Admitted b c (s.cage c).image ∧ b.cage c = u.cage c
  decides : ∀ c, s.BudgetCovers g c n → (s.cage c).ciu.lines.rail = true →
    ∃ a b d : State, a.cage c = s.cage c ∧ a.SameDevice s ∧ (a.group g).budget = n ∧ a.ReenteredDecide b c ∧
      b.Evaluated d c ∧ d.cage c = u.cage c
  others : ∀ c, (∀ e ∈ (s.group g).queue, n < e.requested → e.cage ≠ c) → ¬s.BudgetCovers g c n →
    u.cage c = s.cage c

theorem State.SameDevice.symm {s t : State} (h : s.SameDevice t) : t.SameDevice s :=
  ⟨h.now.symm, h.elapsed.symm, h.inReset.symm, h.cause.symm, h.releaseTime.symm, h.settings.symm, h.deviceLast.symm,
    h.scanCage.symm, h.fieldMaps.symm, h.lsr.symm, h.pending.symm⟩

/-- R121: the cage of an entry that no longer fits stands parked when the covered cages have resumed. -/
theorem State.coveredResumed_parks (h : s.QueueLive g) {e : Entry} (he : e ∈ (s.group g).queue) (hb : n < e.requested) :
    let u := s.coveredResumed g n
    (∀ x ∈ (u.group g).queue, x.cage ≠ e.cage) ∧ (u.cage e.cage).seq.state = .parked ∧
      (u.cage e.cage).seq.reason = some .budget ∧
      (u.cage e.cage).seq.stage = (if e.kind = .lowPower then .lowPowerStage else .hpStage) ∧
      (u.cage e.cage).outage =
        closedRecord (s.cage e.cage).outage s.now (s.cage e.cage).seq.retry .parked (some .budget) ∧
      ∀ p, ∃ a ∈ (u.port p).list, a.who = some e.cage ∧ a.kinds &&& CageKind.parked.bit ≠ 0 := by
  obtain ⟨t, ht, hparked⟩ := State.parkUnfits_around (l := s.unfit g n) (e := e)
    (h.nodup.sublist (List.filter_sublist.map _)) (State.mem_unfit.mpr ⟨he, hb⟩) (s.withBudget g n)
  have hu := hparked.trans (State.coveredResumed_beside (h.not_covered he))
  obtain ⟨hstate, hreason, hstage, hrecord, hposted⟩ := t.parkUnfit_spec e
  have hcage : t.cage e.cage = s.cage e.cage := ht.cage
  have hnow : t.now = s.now := ht.device.now
  dsimp only
  rw [hu.cage]
  refine ⟨fun x hx hc => ?_, hstate, hreason, hstage, by rw [hrecord, hcage, hnow], fun p => ?_⟩
  · have hq := (State.coveredResumed_beside (n := n) (h.not_covered he)).queued x hc
    rw [(h.entries e he).1] at hq
    have hx := hq.mp hx
    rw [State.unfitParked_group h] at hx
    obtain ⟨hx, hfit⟩ := List.mem_filter.mp hx
    have := List.inj_on_of_nodup_map h.nodup hx he hc
    subst this
    exact absurd hb (by simpa using hfit)
  · exact exists_entry_congr (hu.entries p) (hposted p)

theorem State.changeBudget_spec (h : s.QueueLive g) : s.BudgetChanged (s.changeBudget g n) g n := by
  obtain ⟨hgroup, hgroups, hdevice⟩ := State.coveredResumed_rest (n := n) h
  obtain ⟨hcages, hover, -⟩ := (s.coveredResumed g n).overcommit_same g
  have hlist := (s.coveredResumed g n).overcommit_list g
  have hentries := (s.coveredResumed g n).overcommit_entries g
  have hbudget : ((s.coveredResumed g n).group g).budget = n := by rw [hgroup]
  have hnone : (∀ c, ¬s.BudgetCovers g c n) → s.coveredResumed g n = s.unfitParked g n := fun hc => by
    have : s.covered g n = [] := List.eq_nil_iff_forall_not_mem.mpr fun c hm => hc c (State.mem_covered.mp hm)
    rw [State.coveredResumed, this]
    rfl
  rw [State.changeBudget_eq h]
  refine ⟨by rw [hover, hbudget], fun h hh => by rw [hover, hgroups h hh], fun hc => ?_, fun hc hfit p => ?_,
    fun p => ?_, fun hp => by rw [hover, State.coveredResumed_committed h hp], fun e he hb => ?_, fun c hc hr => ?_,
    fun c hc hr => ?_, fun c hc hn => ?_⟩
  · rw [hover, hnone hc, State.unfitParked_group h]
  · have hunfit : s.unfit g n = [] := List.eq_nil_iff_forall_not_mem.mpr fun e hm => by
      obtain ⟨he, hb⟩ := State.mem_unfit.mp hm
      exact absurd (hfit e he) (by omega)
    have hports : ((s.coveredResumed g n).port p).list = (s.port p).list := by
      rw [hnone hc, State.unfitParked, hunfit]
      cases p <;> rfl
    rw [hlist, hbudget, hports, hnone hc, State.unfitParked_group h]
  · rw [hlist, hbudget, hover]
    split
    · rw [entriesOfDevice_addKind_device, entriesOfDevice_addKind_device, hdevice p]
    · exact hdevice p
  · obtain ⟨hqueue, hstate, hreason, hstage, hrecord, hposted⟩ := State.coveredResumed_parks h he hb
    rw [hcages, hover]
    exact ⟨hqueue, hstate, hreason, hstage, hrecord, fun p => exists_entry_congr (hentries _ p) (hposted p)⟩
  · obtain ⟨t, hcage, hdev, hb, hu⟩ := State.coveredResumed_around h hc
    obtain ⟨hg, -, -, hfits⟩ := hc
    rw [hr, if_neg (by simp)] at hfits
    have hadmitted := ((State.resume_asks (s := t) (c := c) (by rw [hcage]; exact hr)).1 (by rw [hg, hb]; exact hfits)).1
    have hnew : t.newEntry c .lowPower 1500 = s.newEntry c .lowPower 1500 := by
      simp [State.newEntry, State.profile, hcage, hdev.now, hdev.elapsed]
    have hq := (hu.queued (s.newEntry c .lowPower 1500) rfl).mpr (by
      rw [hadmitted.queued, hnew]
      exact mem_joinQueue _ _)
    rw [hover, hcages]
    rw [hg] at hq
    rw [hcage] at hadmitted
    exact ⟨hq, t, t.resume c, hcage, hdev.symm, hadmitted, hu.cage.symm⟩
  · obtain ⟨t, hcage, hdev, hb, hu⟩ := State.coveredResumed_around h hc
    obtain ⟨b, hre, hev⟩ := State.resume_evaluates (s := t) (c := c) (by rw [hcage]; exact hr)
      (by rw [hcage, hc.2.2.1]; simp)
    exact ⟨t, b, t.resume c, hcage, hdev.symm, hb, hre, hev, by rw [hcages, hu.cage]⟩
  · rw [hcages, (State.coveredResumed_beside hn).cage, (State.unfitParked_beside hc).cage]
    rfl

/-! ### SET_BUDGET -/

theorem State.parkUnfit_mute (s : State) (e : Entry) : mute.To s (s.parkUnfit e) :=
  Rel.To.trans (t := s.withdrawEntry e.cage) (s.modGroup_mute _ _) (State.parkNow_replies _ _ _ _ _)

theorem State.overcommit_mute (s : State) (g : GroupNo) : mute.To s (s.overcommit g) :=
  .ite (s.postDevice_mute _) (mute.refl s)

/-- R174: a budget change answers no port. -/
theorem State.changeBudget_mute (h : s.QueueLive g) : mute.To s (s.changeBudget g n) := by
  have hparked : mute.To s (s.unfitParked g n) :=
    Rel.To.trans (t := s.withBudget g n) (s.modGroup_mute _ _)
      (State.parkUnfits_keeps (R := mute.To) mute.refl (fun a b => a.trans b) _ (fun e _ s => s.parkUnfit_mute e) _)
  have hresumed : mute.To (s.unfitParked g n) (s.coveredResumed g n) :=
    State.each_keeps (R := mute.To) mute.refl (fun a b => a.trans b) _ (fun c _ s => s.resume_mute c) _
  rw [State.changeBudget_eq h]
  exact (hparked.trans hresumed).trans (State.overcommit_mute _ g)

/-- What a budget change does does not regard what the ports have been answered. -/
theorem State.BudgetChanged.slots {u : State} {x y : Port → Option (List Byte) × ReplySlot}
    (h : s.BudgetChanged u g n) : (s.slots x).BudgetChanged (u.slots y) g n where
  budget := h.budget
  groups := h.groups
  group := h.group
  lists := fun hc hfit p => by
    have hl := h.lists hc hfit p
    simp only [State.slots_list]
    exact hl
  device := fun p => by
    have hd := h.device p
    simp only [State.slots_list]
    exact hd
  committed := h.committed
  parks := fun e he hb => by
    have hp := h.parks e he hb
    simp only [State.slots_list]
    exact hp
  admits := fun c hc hr => by
    obtain ⟨hq, a, b, hcage, hdev, hadm, hu⟩ := h.admits c hc hr
    exact ⟨hq, a, b, hcage, { hdev with }, hadm, hu⟩
  decides := fun c hc hr => by
    obtain ⟨a, b, d, hcage, hdev, hb, hre, hev, hu⟩ := h.decides c hc hr
    exact ⟨a, b, d, hcage, { hdev with }, hb, hre, hev, hu⟩
  others := h.others

theorem State.take_queueLive (s : State) (h : s.QueueLive g) (p : Port) (code target : Byte) (r : List Byte) :
    (s.take p code target r).QueueLive g := by
  obtain ⟨x, hx⟩ := s.take_slots p code target r
  rw [hx]
  exact ⟨h.entries, h.nodup⟩

/-- R118: a budget as it is stored, and the mark that it is not the one asked for. -/
theorem storeBudget_eq (v : Nat) :
    let n := if 60000 < v then 60000 else v - v % 250
    storeBudget v = (n, decide (n ≠ v)) := by
  unfold storeBudget
  dsimp only
  split
  · exact Prod.ext rfl (by simp; omega)
  · exact Prod.ext (by dsimp only; omega) (by simp only [decide_eq_decide]; omega)

/-- R177: the row of SET_BUDGET. -/
def budgetShape : Shape := ⟨0x13, [], onlyPort .B, fun n => decide (n = 2)⟩

theorem exec_setBudget {q : Req} {hi lo : Byte} (h : s.Takes q 0 2) (hb : q.body = [hi, lo]) (hp : q.port = .B)
    (ht : q.target.toNat = g.val) :
    let v := (hi ++ lo).toNat
    let n := if 60000 < v then 60000 else v - v % 250
    exec (.setBudget q) s =
      .next
        (((s.take q.port 0x13 q.target (recordOf q budgetShape)).changeBudget g
          n).answer q.port (if n = v then .ok else .clamped) (bytesOf16 (BitVec.ofNat 16 n))).settle := by
  have hx : exec (.setBudget q) s =
    event s fun s => s.serveGroup q budgetShape fun g s =>
      s.setBudget q.port q.body g := rfl
  have hv : num16 q.body 0 = (hi ++ lo).toNat := by
    rw [hb, toNat_append_bytes]
    rfl
  dsimp only
  rw [hx, event_awake h.awake, State.serveGroup_takes h ht (by rw [hp]; rfl) rfl rfl, State.setBudget, hv, storeBudget_eq,
    State.done, u16_eq]
  generalize (if 60000 < (hi ++ lo).toNat then 60000 else (hi ++ lo).toNat - (hi ++ lo).toNat % 250) = n
  by_cases hn : n = (hi ++ lo).toNat
  · simp [hn, budgetShape]
  · simp [hn, budgetShape]

end

end Sys2Proof.Machine

namespace Sys2Proof.Proofs

open Sys2Proof.Machine

/-- Settles O51: the budget changes between the taking of the request and its answer. -/
theorem budgetIsStored : Obligations.BudgetIsStored := by
  intro s q g hi lo h hb hp ht hentries hnodup
  have hexec := exec_setBudget h hb hp ht
  dsimp only at hexec ⊢
  generalize (if 60000 < (hi ++ lo).toNat then 60000 else (hi ++ lo).toNat - (hi ++ lo).toNat % 250) = n at hexec ⊢
  have hlive : s.QueueLive g := ⟨hentries, hnodup⟩
  have hspec := s.take_answer_slots q 0x13 (recordOf q budgetShape)
    (P := fun s u => s.QueueLive g → s.BudgetChanged u g n) (fun s => s.changeBudget g n)
    (if n = (hi ++ lo).toNat then .ok else .clamped) (bytesOf16 (BitVec.ofNat 16 n))
    (fun h hl => (h ⟨hl.entries, hl.nodup⟩).slots) (fun s hl => State.changeBudget_spec hl) hlive
  have hmute : mute.To (s.take q.port 0x13 q.target (recordOf q budgetShape)) _ :=
    State.changeBudget_mute (g := g) (n := n) (s.take_queueLive hlive ..)
  have hans := s.take_answered q 0x13 (recordOf q budgetShape) hmute
    (if n = (hi ++ lo).toNat then .ok else .clamped) (bytesOf16 (BitVec.ofNat 16 n))
  exact ⟨_, hexec, hspec.budget, hans, hspec.groups, fun hc => ⟨hspec.group hc, hspec.lists hc⟩, hspec.device,
    hspec.committed, hspec.parks, fun c hc => ⟨hspec.admits c hc, hspec.decides c hc⟩, hspec.others⟩

end Sys2Proof.Proofs
end

section
/-! The match class of a cage (R64 to R66): what the comparisons and the reseat window test say. -/

namespace Sys2Proof.Machine

/-- R64: the module is of the last unit's type. -/
theorem Identity.typeEqual_iff (i : Identity) (u : LastUnit) :
    i.typeEqual u = true ↔ i.ident = some u.ident ∧ i.vendor = some u.vendor ∧ i.part = some u.part := by
  simp [Identity.typeEqual, and_assoc]

theorem Identity.serialEqual_iff (i : Identity) (u : LastUnit) : i.serialEqual u = true ↔ i.serial = some u.serial :=
  decide_eq_true_iff

/-- R65: the reseat window test needs both times. -/
theorem withinReseat_iff (removal insertion : Option Stamp) (window : Nat) :
    withinReseat removal insertion window = true ↔
      ∃ r t, removal = some r ∧ insertion = some t ∧ (t - r).toNat ≤ window * 1000 := by
  cases removal with
  | none => simp [withinReseat]
  | some r =>
    cases insertion with
    | none => simp [withinReseat]
    | some t =>
      rw [withinReseat, since, decide_eq_true_eq]
      exact ⟨fun h => ⟨r, t, rfl, rfl, h⟩, fun ⟨_, _, rfl, rfl, h⟩ => h⟩

theorem State.windowMet_iff (s : State) (c : CageNo) : s.windowMet c = true ↔ s.WindowMet c := by
  rw [State.windowMet, Bool.or_eq_true, withinReseat_iff, State.WindowMet]

/-! ### The rows of the table (R66) -/

section
variable {p : Profile} {i : Identity} {u : LastUnit}

theorem classOf_invalid (h : p.valid = false) (met : Bool) : classOf p i met = (.noProfile, false) := by
  simp [classOf, h]

theorem classOf_noUnit (h : p.valid = true) (hu : p.lastUnit = none) (met : Bool) :
    classOf p i met = (.newType, false) := by
  simp [classOf, h, hu]

theorem classOf_unit (h : p.valid = true) (hu : p.lastUnit = some u) (met : Bool) :
    classOf p i met =
      if i.typeEqual u then
        if i.serialEqual u && p.tuned.isSome then if met then (.sameUnit, false) else (.sameType, true)
        else (.sameType, false)
      else (.newType, false) := by
  simp [classOf, h, hu]

theorem classOf_otherType (h : p.valid = true) (hu : p.lastUnit = some u)
    (ht : ¬(i.ident = some u.ident ∧ i.vendor = some u.vendor ∧ i.part = some u.part)) (met : Bool) :
    classOf p i met = (.newType, false) := by
  rw [classOf_unit h hu, if_neg (mt (i.typeEqual_iff u).mp ht)]

/-- R66: the unit itself, with what was tuned for it: the reseat window tells SAME_UNIT from TUNED_EXPIRED. -/
theorem classOf_tunedUnit (h : p.valid = true) (hu : p.lastUnit = some u)
    (ht : i.ident = some u.ident ∧ i.vendor = some u.vendor ∧ i.part = some u.part)
    (hs : i.serial = some u.serial) (htuned : p.tuned ≠ none) (met : Bool) :
    classOf p i met = if met then (.sameUnit, false) else (.sameType, true) := by
  have hboth : (i.serialEqual u && p.tuned.isSome) = true := by
    rw [Bool.and_eq_true, Identity.serialEqual_iff]
    exact ⟨hs, Option.isSome_iff_ne_none.mpr htuned⟩
  rw [classOf_unit h hu, if_pos ((i.typeEqual_iff u).mpr ht), if_pos hboth]

theorem classOf_sameType (h : p.valid = true) (hu : p.lastUnit = some u)
    (ht : i.ident = some u.ident ∧ i.vendor = some u.vendor ∧ i.part = some u.part)
    (hs : i.serial ≠ some u.serial ∨ p.tuned = none) (met : Bool) : classOf p i met = (.sameType, false) := by
  have hnot : ¬(i.serialEqual u && p.tuned.isSome) = true := by
    rw [Bool.and_eq_true, Identity.serialEqual_iff, Option.isSome_iff_ne_none]
    exact fun ⟨hserial, htuned⟩ => hs.elim (fun h => h hserial) htuned
  rw [classOf_unit h hu, if_pos ((i.typeEqual_iff u).mpr ht), if_neg hnot]

end

end Sys2Proof.Machine

namespace Sys2Proof.Proofs

open Sys2Proof.Machine

/-- Settles O60: the window test by `State.windowMet_iff`, then a lemma for each row of the table. -/
theorem classIsFirstRow : Obligations.ClassIsFirstRow := by
  refine ⟨fun s c => ⟨fun hmet => ?met, fun hmet => ?notMet⟩, fun p i met => ⟨?noProfile, fun hp => ⟨?noUnit, ?unit⟩⟩⟩
  case met => rw [State.classify, (s.windowMet_iff c).mpr hmet]
  case notMet => rw [State.classify, Bool.eq_false_iff.mpr (mt (s.windowMet_iff c).mp hmet)]
  case noProfile => exact fun hp => classOf_invalid hp met
  case noUnit => exact fun hu => classOf_noUnit hp hu met
  case unit =>
    refine fun u hu => ⟨fun ht => classOf_otherType hp hu ht met, fun ht => ⟨?_, ?_, ?_⟩⟩
    · rintro hs htuned rfl
      exact classOf_tunedUnit hp hu ht hs htuned true
    · rintro hs htuned rfl
      exact classOf_tunedUnit hp hu ht hs htuned false
    · exact fun hs => classOf_sameType hp hu ht hs met

end Sys2Proof.Proofs
end

section
/-! What the sequencer derives for the lanes of a cage: the plan of eq and amplitude (R70 to R73), the tx controls and
their two bytes (R75, R88), and the breakout (R76). -/

namespace Sys2Proof.Machine

/-! ### The two limits (R71, R73) -/

theorem saturateEq_eq (r : Int) :
    saturateEq r = (if r < 0 then 0 else if 15 < r then 15 else r.toNat, decide (r < 0) || decide (15 < r)) := by
  unfold saturateEq
  by_cases hlow : r < 0
  · simp [hlow]
  · by_cases hhigh : 15 < r <;> simp [hlow, hhigh]

theorem limitAmp_some (a m : Nat) : limitAmp a (some m) = (min a m, decide (m < a)) := by
  unfold limitAmp
  dsimp only
  split
  · next h => simp [h, Nat.min_eq_right h.le]
  · next h => simp [h, Nat.min_eq_left (Nat.le_of_not_lt h)]

/-! ### The raw eq and the requested amplitude (R70 to R72) -/

section
variable {q : Ctx} {p : Profile} {i : Identity} {k : Nat}

theorem Ctx.tunedPair_some {l : List LanePair} {t : LanePair} (hd : q.decision ≠ some .adoptNew)
    (hc : q.cls = some .sameUnit) (hl : p.tuned = some l) (ht : l[k]? = some t) : q.tunedPair p k = some t := by
  simp [Ctx.tunedPair, Profile.tunedPair, hd, hc, hl, ht]

theorem Ctx.tunedPair_adoptNew (hd : q.decision = some .adoptNew) : q.tunedPair p k = none := by
  simp [Ctx.tunedPair, hd]

/-- R70: without a tuned list SAME_UNIT counts as SAME_TYPE. -/
theorem Ctx.tunedPair_none (h : q.cls ≠ some .sameUnit ∨ p.tuned = none) : q.tunedPair p k = none := by
  rcases h with hc | ht
  · simp [Ctx.tunedPair, hc]
  · simp [Ctx.tunedPair, Profile.tunedPair, ht]

theorem rawEq_tuned {t : LanePair} (h : q.tunedPair p k = some t) : rawEq q p i k = t.eq := by
  simp [rawEq, h]

theorem requestedAmp_tuned {t : LanePair} (h : q.tunedPair p k = some t) : requestedAmp q p k = t.amp := by
  simp [requestedAmp, h]

theorem Profile.lane_eq {x : LaneEntry} (h : p.lanes[k]? = some x) : p.lane k = x := by
  simp [Profile.lane, h]

theorem requestedAmp_profile {x : LaneEntry} (h : q.tunedPair p k = none) (hx : p.lanes[k]? = some x) :
    requestedAmp q p k = x.amp := by
  simp [requestedAmp, h, Profile.lane_eq hx]

/-- R71: a restore without a tuned pair trims what the module advertises, or else the eq of the profile. -/
theorem rawEq_restore {x : LaneEntry} (hd : q.decision ≠ some .adoptNew) (h : q.tunedPair p k = none)
    (hx : p.lanes[k]? = some x) :
    (∀ l (v : Nat), i.eqRec = some l → l[k]? = some v → rawEq q p i k = v + x.trim) ∧
      (i.eqRec = none → rawEq q p i k = x.eq + x.trim) := by
  refine ⟨fun l v hl hv => ?_, fun hl => ?_⟩
  · simp [rawEq, h, hd, hl, hv, Profile.lane_eq hx]
  · simp [rawEq, h, hd, hl, Profile.lane_eq hx]

/-- R71: an adoption as new takes what the module advertises as it is. -/
theorem rawEq_adoptNew (hd : q.decision = some .adoptNew) :
    (∀ l (v : Nat), i.eqRec = some l → l[k]? = some v → rawEq q p i k = v) ∧ (i.eqRec = none → rawEq q p i k = 8) := by
  have h : q.tunedPair p k = none := Ctx.tunedPair_adoptNew hd
  refine ⟨fun l v hl hv => ?_, fun hl => ?_⟩
  · simp [rawEq, h, hd, hl, hv]
  · simp [rawEq, h, hd, hl]

end

/-! ### The plan of a lane (R70) -/

section
variable {s : State} {c : CageNo} {k : Nat}

theorem State.lanePlan_eq {r : Int} (h : rawEq (s.cage c).seq (s.profile c) (s.cage c).image.identity k = r) :
    (s.lanePlan c k).eq = (if r < 0 then 0 else if 15 < r then 15 else r.toNat) ∧
      (s.lanePlan c k).eqClamped = (decide (r < 0) || decide (15 < r)) := by
  simp only [State.lanePlan, h, saturateEq_eq, and_self]

theorem State.lanePlan_amp {a : Nat} (h : requestedAmp (s.cage c).seq (s.profile c) k = a) :
    (∀ m, (s.cage c).image.identity.maxAmp = some m →
      (s.lanePlan c k).amp = min a m ∧ (s.lanePlan c k).ampClamped = decide (m < a)) ∧
      ((s.cage c).image.identity.maxAmp = none → (s.lanePlan c k).amp = a ∧ (s.lanePlan c k).ampClamped = false) := by
  refine ⟨fun m hm => ?_, fun hm => ?_⟩
  · simp only [State.lanePlan, h, hm, limitAmp_some, and_self]
  · simp only [State.lanePlan, h, hm, limitAmp, and_self]

end

/-! ### The tx controls and their bytes (R75, R88) -/

theorem resolveTx_eq (tx : TxControl) (field : Option Loc) :
    resolveTx tx field.isSome =
      if tx = .forceOn then if field = none then (.follow, true) else (.forceOn, false) else (tx, false) := by
  cases tx with
  | follow | squelch => rfl
  | forceOn => cases field <;> rfl

theorem laneSet_getLsbD (lanes : List Bool) {n : Nat} (h : n < 8) : (laneSet lanes).getLsbD n = lanes.getD n false := by
  rw [laneSet, BitVec.getLsbD_ofNat, decide_eq_true h, Bool.true_and, testBit_bits]

/-- The byte of the lanes below a count that have a property. -/
theorem laneSet_range (n : Nat) (f : Nat → Bool) {k : Nat} (h : k < 8) :
    (laneSet ((List.range n).map f)).getLsbD k = (decide (k < n) && f k) := by
  rw [laneSet_getLsbD _ h]
  by_cases hk : k < n <;> simp [hk]

section
variable {s : State} {c : CageNo} {k : Nat}

theorem State.squelchByte_bit (h : k < 8) :
    (s.squelchByte c).getLsbD k = true ↔ k < s.laneCount c ∧ (s.laneTx c k).1 = .forceOn := by
  rw [State.squelchByte, laneSet_range _ _ h, Bool.and_eq_true, decide_eq_true_eq, decide_eq_true_eq]

theorem State.txDisableByte_bit (h : k < 8) :
    (s.txDisableByte c).getLsbD k = true ↔ s.laneCount c ≤ k ∨ (s.laneTx c k).1 = .squelch := by
  rw [State.txDisableByte, laneSet_range _ _ h, decide_eq_true h, Bool.true_and, Bool.or_eq_true, decide_eq_true_eq,
    decide_eq_true_eq]

theorem State.profile_valid (h : (s.cage c).profile.valid = true) : s.profile c = (s.cage c).profile := by
  simp [State.profile, Profile.inForce, h]

theorem State.profile_invalid (h : (s.cage c).profile.valid = false) : s.profile c = builtinProfile := by
  simp [State.profile, Profile.inForce, h]

theorem builtinProfile_lane (k : Nat) : builtinProfile.lane k = ⟨0, 8, 1, .follow⟩ := by
  rw [Profile.lane, builtinProfile, List.getD_eq_getElem?_getD, List.getElem?_replicate]
  split <;> rfl

theorem State.laneTx_invalid (h : (s.cage c).profile.valid = false) : s.laneTx c k = (.follow, false) := by
  rw [State.laneTx, State.profile_invalid h, builtinProfile_lane]
  rfl

end

/-! ### The breakout (R76) -/

/-- R76: the four breakouts are the powers of two of the bits of the supported set. -/
theorem breakoutFits_iff (supported : Byte) (lanes p : Nat) :
    breakoutFits supported lanes p = true ↔ BreakoutFits supported lanes p := by
  have hbit : ∀ n, supported.getLsbD n = true ↔ supported.toNat / 2 ^ n % 2 = 1 := fun n => by
    rw [BitVec.getLsbD, Nat.testBit_eq_decide_div_mod_eq, decide_eq_true_eq]
  simp only [breakoutFits, BreakoutFits, Bool.and_eq_true, Bool.or_eq_true, decide_eq_true_eq, hbit]
  refine and_congr_left fun _ => ⟨fun ⟨hp, hodd⟩ => ?_, fun ⟨n, hn, hp, hodd⟩ => ?_⟩
  · rcases hp with ((rfl | rfl) | rfl) | rfl
    · exact ⟨0, by decide, rfl, hodd⟩
    · exact ⟨1, by decide, rfl, hodd⟩
    · exact ⟨2, by decide, rfl, hodd⟩
    · exact ⟨3, by decide, rfl, hodd⟩
  · subst hp
    refine ⟨?_, hodd⟩
    interval_cases n <;> decide

/-- R76: the breakout of the profile in force, which is 1 for an invalid one. -/
theorem State.profile_breakout (s : State) (c : CageNo) :
    (s.profile c).breakout = if (s.cage c).profile.valid then (s.cage c).profile.breakout else 1 := by
  cases h : (s.cage c).profile.valid with
  | true => rw [State.profile_valid h, if_pos rfl]
  | false =>
    rw [State.profile_invalid h]
    rfl

theorem State.breakoutToWrite_fits {s : State} {c : CageNo} {set : Byte}
    (hset : (s.cage c).image.identity.breakouts = some set)
    (h : BreakoutFits set (s.laneCount c) (s.profile c).breakout) : s.breakoutToWrite c = (s.profile c).breakout := by
  rw [State.breakoutToWrite, hset]
  exact if_pos ((breakoutFits_iff ..).mpr h)

theorem State.breakoutToWrite_kept {s : State} {c : CageNo} {set : Byte} {n : Nat}
    (hset : (s.cage c).image.identity.breakouts = some set)
    (h : ¬BreakoutFits set (s.laneCount c) (s.profile c).breakout) (hn : (s.cage c).image.breakout = some n) :
    s.breakoutToWrite c = n := by
  rw [State.breakoutToWrite, hset, hn]
  exact if_neg (mt (breakoutFits_iff ..).mp h)

end Sys2Proof.Machine

namespace Sys2Proof.Proofs

open Sys2Proof.Machine

/-- Settles O59: a lane's plan by where its raw eq and its requested amplitude come from, then the tx bytes bit by bit,
and the breakout by whether it fits. -/
theorem lanePlanIsDerived : Obligations.LanePlanIsDerived := by
  intro s c
  refine ⟨fun k x hx => ⟨⟨?tuned, ?restore, ?adoptNew⟩, ?tx⟩, fun k _ hp => State.laneTx_invalid hp,
    fun k hk => ⟨State.squelchByte_bit hk, State.txDisableByte_bit hk⟩, fun set hset => ?breakout⟩
  case tuned =>
    intro l t hd hc hl ht
    have hpair := Ctx.tunedPair_some hd hc hl ht
    exact ⟨State.lanePlan_eq (rawEq_tuned hpair), State.lanePlan_amp (requestedAmp_tuned hpair)⟩
  case restore =>
    intro hd hc
    have hpair := Ctx.tunedPair_none (k := k) hc
    obtain ⟨hadvertised, hown⟩ := rawEq_restore (i := (s.cage c).image.identity) hd hpair hx
    exact ⟨State.lanePlan_amp (requestedAmp_profile hpair hx),
      fun l v hl hv => State.lanePlan_eq (hadvertised l v hl hv), fun hl => State.lanePlan_eq (hown hl)⟩
  case adoptNew =>
    intro hd
    have hpair := Ctx.tunedPair_adoptNew (p := s.profile c) (k := k) hd
    obtain ⟨hadvertised, hmiddle⟩ := rawEq_adoptNew (p := s.profile c) (i := (s.cage c).image.identity) (k := k) hd
    exact ⟨State.lanePlan_amp (requestedAmp_profile hpair hx),
      fun l v hl hv => State.lanePlan_eq (hadvertised l v hl hv), fun hl => State.lanePlan_eq (hmiddle hl)⟩
  case tx => rw [State.laneTx, resolveTx_eq, Profile.lane_eq hx]
  case breakout =>
    dsimp only
    rw [← State.profile_breakout]
    exact ⟨State.breakoutToWrite_fits hset, fun n h hn => State.breakoutToWrite_kept hset h hn⟩

end Sys2Proof.Proofs
end

section
/-! The first access of a stage of CONFIGURE: the write that disables every lane (R85, R191), the read of the HP enable
byte (R81), and the tx bytes (R88), by the map and the parts of the cage they are taken from. -/

namespace Sys2Proof.Machine

section
variable (s : State) (c : CageNo)

/-- R85, R191: the writes that disable every lane, before LANE_MAP and at the start of LANE_SETTINGS. -/
theorem State.accessItem_disables {a : Access} (h : a = .txFirst ∨ a = .txAll) :
    (s.accessItem c a).write = true ∧ (s.accessItem c a).data = [0xFF] ∧
      (⟨(s.accessItem c a).page, (s.accessItem c a).offset⟩ : Loc) = (s.mapOf c).txDisable := by
  rcases h with rfl | rfl <;> exact ⟨rfl, rfl, rfl⟩

/-- R81: the read of the HP enable byte. -/
theorem State.accessItem_hpRead :
    (s.accessItem c .hpRead).write = false ∧ (s.accessItem c .hpRead).len = 1 ∧
      (⟨(s.accessItem c .hpRead).page, (s.accessItem c .hpRead).offset⟩ : Loc) = (s.mapOf c).hpEnable.loc :=
  ⟨rfl, rfl, rfl⟩

/-- R145: on a segment that takes items, a posted access joins the waiting items of the cage's engine. -/
theorem State.postSeq_waiting (a : Access) (h : (s.cage c).bus.seg = .connected) :
    ((s.postSeq c a).engine (engineOf c)).waiting = (s.engine (engineOf c)).waiting ++ [s.accessItem c a] := by
  simp [State.postSeq, h, State.addItem, State.accessItem_cage]

end

/-- R75, R88: the tx bytes depend on the image, the profile and the field map table only. -/
theorem State.txBytes_congr {s t : State} {c : CageNo} (hi : (t.cage c).image = (s.cage c).image)
    (hp : (t.cage c).profile = (s.cage c).profile) (hf : t.fieldMaps = s.fieldMaps) :
    t.squelchByte c = s.squelchByte c ∧ t.txDisableByte c = s.txDisableByte c := by
  have hm : t.mapOf c = s.mapOf c := State.mapOf_congr (by rw [hi]) hf
  have hl : t.laneCount c = s.laneCount c := by rw [State.laneCount, hi, State.laneCount]
  have ht : t.laneTx c = s.laneTx c := by
    funext k
    rw [State.laneTx, State.laneTx, hm, State.profile, hp, State.profile]
  rw [State.squelchByte, State.squelchByte, State.txDisableByte, State.txDisableByte, hl, ht]
  exact ⟨rfl, rfl⟩

end Sys2Proof.Machine
end

section
/-! The high-power grant (R79, R81, R116, R124, R191). -/

namespace Sys2Proof.Machine

/-- R79: the cage as the grant has it enter CONFIGURE, before its first access. -/
def State.highBase (s : State) (c : CageNo) (requested : Nat) : State :=
  ((s.setCharge c requested).lpRelease c).enter c .configure .hpEnable

/-- R81, R191: the first access of HP_ENABLE. -/
def Ctx.highAccess (q : Ctx) : Access := if q.adopted then .txFirst else .hpRead

theorem State.grantHigh_eq (s : State) (g : GroupNo) (c : CageNo) (requested : Nat) :
    s.grantHigh g c requested = ((s.takeHead g).highBase c requested).postSeq c (s.cage c).seq.highAccess := rfl

theorem State.grantHigh_only (s : State) (g : GroupNo) (c : CageNo) (requested : Nat) :
    (s.takeHead g).OnlyCage (s.grantHigh g c requested) c :=
  ((((only c).setCharge _ _).trans ((only c).lpRelease _)).trans ((only c).enter _ _ _)).trans ((only c).postSeq _ _)

/-- R79, R116: what the grant makes of the cage, its group and the ports before the first access. -/
theorem State.highBase_parts (s : State) (c : CageNo) (requested : Nat) :
    let t := s.highBase c requested
    (∀ p, t.port p = s.port p) ∧
      t.group (groupOf c) =
        { s.group (groupOf c) with committed := (s.group (groupOf c)).committed + requested - (s.cage c).charge } ∧
      t.now = s.now ∧ t.elapsed = s.elapsed ∧ t.fieldMaps = s.fieldMaps ∧
      (t.cage c).bus = (s.cage c).bus ∧ (t.cage c).charge = requested ∧
      (t.cage c).ciu.lines = { (s.cage c).ciu.lines with lp := false } ∧
      (t.cage c).seq.state = .configure ∧ (t.cage c).seq.stage = .hpEnable ∧
      (t.cage c).profile = (s.cage c).profile ∧ (t.cage c).image = (s.cage c).image ∧
      (t.cage c).outage = (s.cage c).outage := by
  refine ⟨fun p => ?_, ?_, ?_, ?_, ?_, ?_, ?_, ?_, ?_, ?_, ?_, ?_, ?_⟩
  · cases p <;> simp [State.highBase, State.port]
  all_goals simp [State.highBase, Ctx.entered]

/-- R81, R191: the item of the first access, by whether the module was adopted. -/
theorem State.accessItem_high (t : State) (c : CageNo) (q : Ctx) :
    let i := t.accessItem c q.highAccess
    if q.adopted then i.write = true ∧ i.data = [0xFF] ∧ (⟨i.page, i.offset⟩ : Loc) = (t.mapOf c).txDisable
    else i.write = false ∧ i.len = 1 ∧ (⟨i.page, i.offset⟩ : Loc) = (t.mapOf c).hpEnable.loc := by
  unfold Ctx.highAccess
  cases q.adopted with
  | true => exact t.accessItem_disables c (.inl rfl)
  | false => exact t.accessItem_hpRead c

end Sys2Proof.Machine

namespace Sys2Proof.Proofs

open Sys2Proof.Machine

/-- Settles O28: the head is taken, the rest of the grant touches its cage alone, and the first access is posted on the
cage as it enters CONFIGURE. -/
theorem highPowerIsGranted : Obligations.HighPowerIsGranted := by
  intro s g
  refine ⟨fun h => ?_, fun e hr hw hk hg hseg => ?_⟩
  · have hx : exec (.highPowerGrant g) s = execHighPowerGrant g s := rfl
    rw [hx, execHighPowerGrant, State.granting_none h]
  · subst hg
    have hx : exec (.highPowerGrant (groupOf e.cage)) s = execHighPowerGrant (groupOf e.cage) s := rfl
    have honly := s.grantHigh_only (groupOf e.cage) e.cage e.requested
    obtain ⟨hcage, hother, hgroup, hA, hB, hnow, hdevice⟩ := s.takeHead_parts (groupOf e.cage)
    obtain ⟨bport, bgroup, bnow, belapsed, bmaps, bbus, bcharge, blines, bstate, bstage, bprofile, bimage, boutage⟩ :=
      (s.takeHead (groupOf e.cage)).highBase_parts e.cage e.requested
    have hu := s.grantHigh_eq (groupOf e.cage) e.cage e.requested
    generalize (s.takeHead (groupOf e.cage)).highBase e.cage e.requested = t at *
    rw [hcage] at bgroup bbus blines bprofile bimage boutage
    rw [hgroup] at bgroup
    have htseg : (t.cage e.cage).bus.seg = .connected := by rwa [bbus]
    obtain ⟨pcage, pgroup, pport, -, -⟩ := t.postSeq_parts e.cage (s.cage e.cage).seq.highAccess htseg
    rw [← hu] at pcage pgroup pport
    have hports : ∀ p, (s.grantHigh (groupOf e.cage) e.cage e.requested).port p = s.port p := fun p => by
      rw [pport, bport]
      cases p
      · exact hA
      · exact hB
    have hmap : t.mapOf e.cage = s.mapOf e.cage := State.mapOf_congr (by rw [bimage]) bmaps
    obtain ⟨inewest, icage, iwho, iposted, ijoined⟩ :=
      s.postSeq_newest t e.cage (s.cage e.cage).seq.highAccess htseg (bnow.trans hnow) belapsed
    have hitem := t.accessItem_high e.cage (s.cage e.cage).seq
    rw [hmap] at hitem
    refine ⟨s.grantHigh (groupOf e.cage) e.cage e.requested, ?_, fun d hd => (honly.cages d hd).trans (hcage d),
      fun h hh => (honly.groups h hh).trans (hother h hh), ⟨fun p => by rw [hports], fun p => by rw [hports]⟩,
      fun p => by rw [hports], honly.device.deviceLast.trans hdevice, (pgroup _).trans bgroup, ?_⟩
    · rw [hx, execHighPowerGrant, State.granting_winner hw hk]
      exact act_awake hr _
    · rw [pcage, hu]
      exact ⟨bcharge, blines, bstate, bstage, bprofile, bimage, boutage, _, inewest, icage, iwho, iposted, ijoined,
        hitem⟩

end Sys2Proof.Proofs
end

section
/-! The start of DATAPATH_ENABLE (R86 to R88), by the end of the host-side window or by HOST_SIDE_DONE. -/

namespace Sys2Proof.Machine

/-- R87: the cage at DATAPATH_ENABLE, before its first access. -/
def State.datapathBase (s : State) (c : CageNo) : State :=
  s.modSeq c fun q => { q with stage := .datapathEnable, timers := { q.timers with hostSide := none } }

/-- R88: the first access of DATAPATH_ENABLE. -/
def FieldMap.datapathAccess (m : FieldMap) : Access := if m.squelch.isSome then .squelch else .txDisable

theorem State.enterDatapath_eq (s : State) (c : CageNo) :
    s.enterDatapath c = (s.datapathBase c).postSeq c (s.mapOf c).datapathAccess := by
  unfold State.enterDatapath FieldMap.datapathAccess
  cases (s.mapOf c).squelch <;> rfl

/-- R88: the item of the first access, by whether the map has the squelch-disable field. -/
theorem State.accessItem_datapath (s : State) (c : CageNo) :
    let i := s.accessItem c (s.mapOf c).datapathAccess
    i.write = true ∧
      (∀ l, (s.mapOf c).squelch = some l → (⟨i.page, i.offset⟩ : Loc) = l ∧ i.data = [s.squelchByte c]) ∧
      ((s.mapOf c).squelch = none →
        (⟨i.page, i.offset⟩ : Loc) = (s.mapOf c).txDisable ∧ i.data = [s.txDisableByte c]) := by
  cases h : (s.mapOf c).squelch with
  | none =>
    have ha : (s.mapOf c).datapathAccess = .txDisable := by simp [FieldMap.datapathAccess, h]
    rw [ha]
    exact ⟨rfl, nofun, fun _ => ⟨rfl, rfl⟩⟩
  | some x =>
    have ha : (s.mapOf c).datapathAccess = .squelch := by simp [FieldMap.datapathAccess, h]
    rw [ha]
    refine ⟨rfl, ?_, nofun⟩
    rintro l ⟨⟩
    simp [State.accessItem, writeItem, h]

/-- R87, R88: on a segment that takes items, DATAPATH_ENABLE starts; the record stays. -/
theorem State.enterDatapath_spec {s : State} {c : CageNo} (hb : (s.cage c).bus.seg = .connected) :
    s.DatapathStarted (s.enterDatapath c) c ∧ ((s.enterDatapath c).cage c).outage = (s.cage c).outage := by
  have honly := (only c).enterDatapath s
  have hmap : (s.datapathBase c).mapOf c = s.mapOf c := State.mapOf_congr (by simp [State.datapathBase]) rfl
  obtain ⟨hsquelch, htx⟩ := State.txBytes_congr (s := s) (t := s.datapathBase c) (c := c)
    (by simp [State.datapathBase]) (by simp [State.datapathBase]) rfl
  have hseg : ((s.datapathBase c).cage c).bus.seg = .connected := by simpa [State.datapathBase] using hb
  obtain ⟨hcage, -, hport, -, -⟩ := (s.datapathBase c).postSeq_parts c (s.mapOf c).datapathAccess hseg
  have hitem := (s.datapathBase c).accessItem_datapath c
  rw [hmap, hsquelch, htx] at hitem
  rw [State.enterDatapath_eq] at honly ⊢
  refine ⟨⟨honly, fun p => ?_, ?_, ?_, ?_⟩, ?_⟩
  · rw [hport]
    cases p <;> rfl
  · rw [hcage]
    simp [State.datapathBase]
  · rw [hcage]
    simp [State.datapathBase]
  · exact ⟨_, State.postSeq_waiting _ c _ hseg, State.accessItem_cage .., State.accessItem_who .., hitem⟩
  · rw [hcage]
    simp [State.datapathBase]

theorem State.enterDatapath_mute (s : State) (c : CageNo) : mute.To s (s.enterDatapath c) := by
  rw [State.enterDatapath_eq]
  exact (s.modSeq_mute c _).trans (State.postSeq_mute _ c _)

/-- The start of DATAPATH_ENABLE does not regard what the record held. -/
theorem State.DatapathStarted.afterWrite {s u : State} {c : CageNo} {f : Outage → Outage}
    (h : (s.writeOpen c f).DatapathStarted u c) : s.DatapathStarted u c := by
  have hmap : (s.writeOpen c f).mapOf c = s.mapOf c := State.mapOf_congr (by simp) (by simp)
  obtain ⟨hsquelch, htx⟩ := State.txBytes_congr (s := s) (t := s.writeOpen c f) (c := c) (by simp) (by simp) (by simp)
  exact
    { only := ((Machine.only c).writeOpen s f).trans h.only
      lists := fun p => (h.lists p).trans (by cases p <;> rfl)
      seq := by simpa using h.seq
      kept := by simpa using h.kept
      item := by simpa [hmap, hsquelch, htx] using h.item }

/-- R86: at the end of its window the stage ends with the expiry noted in an OPEN record. -/
theorem State.hostSideOver_spec {s : State} {c : CageNo} (hb : (s.cage c).bus.seg = .connected) :
    s.DatapathStarted (s.hostSideOver c) c ∧
      ((s.hostSideOver c).cage c).outage.hostSideTimeout =
        (decide ((s.cage c).outage.result = some .inProgress) || (s.cage c).outage.hostSideTimeout) := by
  obtain ⟨hstarted, houtage⟩ := State.enterDatapath_spec
    (s := s.writeOpen c fun o => { o with hostSideTimeout := true }) (c := c) (by simpa using hb)
  refine ⟨hstarted.afterWrite, ?_⟩
  rw [State.hostSideOver, houtage]
  by_cases ho : (s.cage c).outage.result = some .inProgress <;> simp [Outage.isOpen, ho]

theorem State.hostSideOver_mute (s : State) (c : CageNo) : mute.To s (s.hostSideOver c) :=
  (s.writeOpen_mute c _).trans (State.enterDatapath_mute _ c)

/-! ### HOST_SIDE_DONE (R87) -/

theorem State.DatapathStarted.slots {s u : State} {c : CageNo} {f g : Port → Option (List Byte) × ReplySlot}
    (h : s.DatapathStarted u c) : (s.slots f).DatapathStarted (u.slots g) c :=
  { h with only := h.only.slots, lists := h.lists.slots }

/-- R177: the row of HOST_SIDE_DONE. -/
def hostSideShape : Shape := ⟨0x06, [], onlyPort .A, fun n => decide (n = 0)⟩

section
variable {s : State} {q : Req} {c : CageNo}

theorem exec_hostSideDone (h : s.TakesFor q 0 0 c) (hp : q.port = .A) :
    exec (.hostSideDone q) s =
      .next ((s.take q.port 0x06 q.target (recordOf q hostSideShape)).hostSideDone q.port c) := by
  have hx : exec (.hostSideDone q) s =
    event s fun s => s.serveCage q hostSideShape fun c s => s.hostSideDone q.port c := rfl
  rw [hx, event_awake h.takes.awake, State.serveCage_takes h (by rw [hp]; rfl) rfl rfl]
  rfl

/-- R87: a request that finds its cage at HOST_SIDE. -/
theorem exec_hostSideDone_waiting (h : s.TakesFor q 0 0 c) (hp : q.port = .A)
    (hs : (s.cage c).seq.state = .configure ∧ (s.cage c).seq.stage = .hostSide) :
    exec (.hostSideDone q) s =
      .next (((s.take q.port 0x06 q.target (recordOf q hostSideShape)).enterDatapath c).answer q.port .ok []).settle := by
  rw [exec_hostSideDone h hp, State.hostSideDone, State.take_cage, if_pos hs]
  rfl

/-- R87: a request that does not. -/
theorem exec_hostSideDone_notWaiting (h : s.TakesFor q 0 0 c) (hp : q.port = .A)
    (hs : ¬((s.cage c).seq.state = .configure ∧ (s.cage c).seq.stage = .hostSide)) :
    exec (.hostSideDone q) s = .next (s.replied q 0x06 .notWaiting []) := by
  rw [exec_hostSideDone h hp, State.hostSideDone, State.take_cage, if_neg hs, State.take_answer]

end

end Sys2Proof.Machine

namespace Sys2Proof.Proofs

open Sys2Proof.Machine

/-- Settles O36: the expiry by `hostSideOver_spec`; a request starts the stage between its taking and its answer. -/
theorem hostSideStageEnds : Obligations.HostSideStageEnds := by
  intro s c
  refine ⟨fun hr hs hb ht => ?_, fun q h hp => ⟨fun hs hstage hb => ?_, fun hs => ?_⟩⟩
  · obtain ⟨hstarted, htimeout⟩ := State.hostSideOver_spec hb
    exact ⟨_, expiry_due hr (s.expired_due (t := Timers.hostSide) (by simp [hs]) ht) _, hstarted,
      s.hostSideOver_mute c, htimeout⟩
  · obtain ⟨hstarted, houtage⟩ := s.take_answer_slots q 0x06 (recordOf q hostSideShape)
      (P := fun s u => (s.cage c).bus.seg = .connected →
        s.DatapathStarted u c ∧ (u.cage c).outage = (s.cage c).outage)
      (fun s => s.enterDatapath c) .ok [] (fun h hb => ⟨(h hb).1.slots, (h hb).2⟩)
      (fun _ hb => State.enterDatapath_spec hb) hb
    exact ⟨_, exec_hostSideDone_waiting h hp ⟨hs, hstage⟩, hstarted,
      s.take_answered q 0x06 (recordOf q hostSideShape) (State.enterDatapath_mute _ c) .ok [], houtage⟩
  · exact exec_hostSideDone_notWaiting h hp (by rwa [not_and_or])

end Sys2Proof.Proofs
end

section
/-! The expiry of the link timer (R93, R190): DEGRADED, a retry from LANE_SETTINGS, or the module fault LINK_FAIL. -/

namespace Sys2Proof.Machine

/-- R93, R96: what the end of a restore in DEGRADED does. -/
theorem State.restoreDegraded_spec (s : State) (c : CageNo) (r : Reason) (known : Option Summary) :
    s.RestoredDegraded (s.restoreDegraded c r known) c r known := by
  refine ⟨(only c).restoreDegraded s r known, ?_, fun p => ?_, ?_, ?_, ?_, ?_, ?_⟩
  · exact ((s.enter_mute c _ _).trans (State.modSeq_mute _ c _)).trans
      ((State.closeRecord_mute _ c _ _).trans (State.post_mute _ c _))
  · cases p <;> simp [State.restoreDegraded, State.port]
  all_goals simp [State.restoreDegraded, Ctx.entered]

/-! ### NONE_UP with a retry limit (R93) -/

/-- R94: only the last known summary changes when a summary is acted on. -/
theorem State.recordSummary_cage (s : State) (c : CageNo) (x : Summary) :
    (s.recordSummary c x).cage c = { s.cage c with seq := { (s.cage c).seq with lastKnown := some x } } := by
  simp [State.recordSummary, State.modSeq]

theorem State.recordSummary_only (s : State) (c : CageNo) (x : Summary) : s.OnlyCage (s.recordSummary c x) c :=
  s.modSeq_only c _

/-- A module fault does not regard the last known summary. -/
theorem State.ModuleFaulted.afterSummary {s u : State} {c : CageNo} {r : Reason} {x : Summary}
    (h : (s.recordSummary c x).ModuleFaulted u c r) : s.ModuleFaulted u c r := by
  have hcage := s.recordSummary_cage c x
  exact
    { only := (s.recordSummary_only c x).trans h.only
      state := h.state
      timers := h.timers
      flags := h.flags
      lines := by rw [h.lines, hcage]
      charge := by rw [h.charge, hcage]
      group := by rw [h.group, hcage]; rfl
      record := by rw [h.record, hcage]; rfl
      kept := by
        obtain ⟨himage, hprofile⟩ := h.kept
        rw [himage, hprofile, hcage]
        exact ⟨rfl, rfl⟩
      polls := h.polls
      posted := fun p => (h.posted p).trans (by cases p <;> rfl) }

/-- R107: a module fault keeps the last known summary. -/
theorem State.moduleFault_lastKnown (s : State) (c : CageNo) (r : Reason) :
    ((s.moduleFault c r).cage c).seq.lastKnown = (s.cage c).seq.lastKnown := by
  simp [State.moduleFault, Ctx.entered]

/-- R93, R94: the cage at LANE_SETTINGS for a retry on NONE_UP, before the first write. -/
def State.retryBase (s : State) (c : CageNo) : State :=
  ((s.recordSummary c .noneUp).enter c .configure .laneSettings).modSeq c fun q =>
    { q with timers := { q.timers with link := none }, retry := q.retry + 1 }

theorem State.retryLink_eq (s : State) (c : CageNo) :
    (s.recordSummary c .noneUp).retryLink c = (s.retryBase c).postSeq c .txAll := rfl

theorem State.retryLink_only (s : State) (c : CageNo) : s.OnlyCage ((s.recordSummary c .noneUp).retryLink c) c :=
  (s.recordSummary_only c _).trans ((only c).retryLink _)

/-- R93, R94: what a retry makes of the cage before the first write. -/
theorem State.retryBase_parts (s : State) (c : CageNo) :
    let t := s.retryBase c
    t.now = s.now ∧ t.elapsed = s.elapsed ∧ t.mapOf c = s.mapOf c ∧ (t.cage c).bus = (s.cage c).bus ∧
      (t.cage c).seq.state = .configure ∧ (t.cage c).seq.stage = .laneSettings ∧
      (t.cage c).seq.retry = (s.cage c).seq.retry + 1 ∧ (t.cage c).seq.lastKnown = some .noneUp ∧
      (t.cage c).seq.inUse = (s.cage c).seq.inUse ∧ (t.cage c).seq.learnPending = (s.cage c).seq.learnPending ∧
      (t.cage c).outage = (s.cage c).outage ∧ (t.cage c).nextPoll = none := by
  refine ⟨?_, ?_, State.mapOf_congr ?_ ?_, ?_, ?_, ?_, ?_, ?_, ?_, ?_, ?_, ?_⟩
  all_goals simp [State.retryBase, State.recordSummary, Ctx.entered, SeqState.frees, SeqState.polled]

/-! ### The expiry, by the link summary -/

section
variable {s : State} {c : CageNo}

theorem exec_linkTimerExpiry (hr : s.inReset = false) (hs : (s.cage c).seq.state = .linkWait)
    (ht : Reached (s.cage c).seq.timers.link s.now) :
    exec (.linkTimerExpiry c) s = .next (s.linkExpired c).settle :=
  expiry_due hr (s.expired_due (t := Timers.link) (by simp [hs]) ht) _

theorem State.linkExpired_someUp (h : s.summary c = .someUp) :
    s.linkExpired c = s.restoreDegraded c .partialLink (some .someUp) := by
  rw [State.linkExpired, h]

theorem State.linkExpired_unknown (h : s.summary c = .unknown) :
    s.linkExpired c = s.restoreDegraded c .streamLost none := by
  rw [State.linkExpired, h]

/-- R190: a LINK_WAIT entered by adoption does not retry. -/
theorem State.linkExpired_noLimit (h : s.summary c = .noneUp) (hl : (s.cage c).seq.retryLimit = none) :
    s.linkExpired c = s.restoreDegraded c .linkDown (some .noneUp) := by
  simp only [State.linkExpired, h, hl]

theorem State.linkExpired_retries {n : Nat} (h : s.summary c = .noneUp) (hl : (s.cage c).seq.retryLimit = some n)
    (hn : (s.cage c).seq.retry < n) : s.linkExpired c = (s.recordSummary c .noneUp).retryLink c := by
  simp only [State.linkExpired, h, hl, if_pos hn]

theorem State.linkExpired_fails {n : Nat} (h : s.summary c = .noneUp) (hl : (s.cage c).seq.retryLimit = some n)
    (hn : n ≤ (s.cage c).seq.retry) : s.linkExpired c = (s.recordSummary c .noneUp).moduleFault c .linkFail := by
  simp only [State.linkExpired, h, hl, if_neg (Nat.not_lt.mpr hn)]

end

end Sys2Proof.Machine

namespace Sys2Proof.Proofs

open Sys2Proof.Machine

/-- Settles O37: the expiry by the link summary, and with NONE_UP by the retry limit. -/
theorem linkTimerExpires : Obligations.LinkTimerExpires := by
  intro s c hr hs ht
  rw [exec_linkTimerExpiry hr hs ht]
  have degrades : ∀ r known, s.linkExpired c = s.restoreDegraded c r known →
      ∃ u, (.next (s.linkExpired c).settle : Out) = .next u.settle ∧ s.RestoredDegraded u c r known := fun r known h =>
    ⟨_, rfl, h ▸ s.restoreDegraded_spec c r known⟩
  refine ⟨fun h => degrades _ _ (State.linkExpired_someUp h), fun h => degrades _ _ (State.linkExpired_unknown h),
    fun h hl => degrades _ _ (State.linkExpired_noLimit h hl), fun n h hl => ⟨fun hn => ?_, fun hn hb => ?_⟩⟩
  · rw [State.linkExpired_fails h hl hn]
    exact ⟨_, rfl, (State.moduleFault_spec _ c .linkFail).afterSummary,
      by rw [State.moduleFault_lastKnown, State.recordSummary_cage]⟩
  · rw [State.linkExpired_retries h hl hn]
    have honly := s.retryLink_only c
    obtain ⟨bnow, belapsed, bmap, bbus, bkept⟩ := s.retryBase_parts c
    have hseg : ((s.retryBase c).cage c).bus.seg = .connected := by rwa [bbus]
    obtain ⟨inewest, icage, iwho, -, -⟩ := s.postSeq_newest (s.retryBase c) c .txAll hseg bnow belapsed
    obtain ⟨-, idata, iloc⟩ := (s.retryBase c).accessItem_disables c (.inr rfl)
    rw [bmap] at iloc
    obtain ⟨bstate, bstage, bretry, bknown, buse, blearn, boutage, bpoll⟩ := bkept
    rw [State.retryLink_eq] at honly ⊢
    refine ⟨_, rfl, honly, ?_⟩
    rw [(State.postSeq_parts _ c .txAll hseg).1]
    exact ⟨bstate, bstage, bretry, bknown, buse, blearn, boutage, bpoll, _, inewest, icage, iwho, idata, iloc⟩

end Sys2Proof.Proofs
end

section
/-! Events that change one record (R89, R95, R125, R138, R153): what each makes of its record, and that an update which
leaves its record leaves the state. -/

namespace Sys2Proof.Machine

/-! ### Updates told by what they make of the record they find -/

section
variable (s : State)

theorem State.modCage_congr {c : CageNo} {f g : Cage → Cage} (h : f (s.cage c) = g (s.cage c)) :
    s.modCage c f = s.modCage c g := by
  unfold State.cage at h
  rw [State.modCage, State.modCage, h]

/-- An update that leaves the cage it finds leaves the state. -/
theorem State.modCage_unchanged {c : CageNo} {f : Cage → Cage} (h : f (s.cage c) = s.cage c) : s.modCage c f = s := by
  unfold State.cage at h
  rw [State.modCage, h]
  simp

theorem State.modRlm_congr {c : CageNo} {f g : Rlm → Rlm} (h : f (s.cage c).rlm = g (s.cage c).rlm) :
    s.modRlm c f = s.modRlm c g :=
  s.modCage_congr (congrArg (fun r => { s.cage c with rlm := r }) h)

theorem State.modRlm_unchanged {c : CageNo} {f : Rlm → Rlm} (h : f (s.cage c).rlm = (s.cage c).rlm) :
    s.modRlm c f = s :=
  s.modCage_unchanged (congrArg (fun r => { s.cage c with rlm := r }) h)

theorem State.modEngine_congr {e : EngineNo} {f g : Engine → Engine} (h : f (s.engine e) = g (s.engine e)) :
    s.modEngine e f = s.modEngine e g := by
  unfold State.engine at h
  rw [State.modEngine, State.modEngine, h]

/-- A change of the item an engine carries. -/
theorem State.modCarry_current {e : EngineNo} {k : Carry} (h : (s.engine e).current = some k) (f : Carry → Carry) :
    s.modCarry e f = s.modEngine e fun g => { g with current := some (f k) } :=
  s.modEngine_congr (by rw [h]; rfl)

end

/-! ### The events -/

/-- R125: the lapse of a last inrush record is told by its time. -/
theorem Inrush.lapse_eq (r : Inrush) (now : Stamp) : r.lapse now = r.after now := by
  cases r <;> rfl

theorem exec_inrushRecordLapse (s : State) (r : Option GroupNo) :
    exec (.inrushRecordLapse r) s =
      .next
        (match r with
         | none => { s with deviceLast := s.deviceLast.after s.now }
         | some g => s.modGroup g fun x => { x with last := x.last.after s.now }) := by
  simp only [← Inrush.lapse_eq]
  cases r <;> rfl

/-- R138: what a pending basis gives way to. -/
theorem Rlm.basisDue_pending {r : Rlm} {p : PendingBasis} (hp : r.pending = some p) (now : Stamp) :
    r.basisDue now =
      if 50 ≤ (now - p.since).toNat then { r with basis := some p.value, pending := none } else r := by
  simp only [Rlm.basisDue, hp]
  rfl

section
variable {s : State}

/-- R95. -/
theorem exec_blankingWindowEnd (hr : s.inReset = false) {c : CageNo} {b : Blank} (hb : (s.cage c).seq.blank = some b) :
    exec (.blankingWindowEnd c) s =
      .next (if b.stop ≤ (s.now - b.datapath).toNat then s.modSeq c fun q => { q with blank := none } else s) := by
  have hx : exec (.blankingWindowEnd c) s = execBlankingWindowEnd c s := rfl
  rw [hx, execBlankingWindowEnd, event_awake hr]
  simp only [hb, Blank.over, decide_eq_true_eq]
  rfl

/-- R138. -/
theorem exec_pendingBasisDue (hr : s.inReset = false) {c : CageNo} {p : PendingBasis}
    (hp : (s.cage c).rlm.pending = some p) :
    exec (.pendingBasisDue c) s =
      .next
        (if 50 ≤ (s.now - p.since).toNat then s.modRlm c fun r => { r with basis := some p.value, pending := none }
         else s) := by
  have hx : exec (.pendingBasisDue c) s = execPendingBasisDue c s := rfl
  rw [hx, execPendingBasisDue, event_awake hr]
  have hdue := Rlm.basisDue_pending hp s.now
  split
  · next h => exact congrArg Host.Outcome.next (s.modRlm_congr (hdue.trans (if_pos h)))
  · next h => exact congrArg Host.Outcome.next (s.modRlm_unchanged (hdue.trans (if_neg h)))

/-- R153: the clock of a transaction that runs is marked held low at the present time. -/
theorem exec_clockHeldLow (hr : s.inReset = false) {e : EngineNo} {k : Carry} (hk : (s.engine e).current = some k)
    (hrun : k.inTransaction = true) :
    exec (.clockHeldLow e) s =
      .next (s.modEngine e fun g => { g with current := some { k with clockLow := some s.now } }) := by
  have hx : exec (.clockHeldLow e) s = execClockHeldLow e s := rfl
  rw [hx, execClockHeldLow, event_awake hr, State.clockLow, s.modCarry_current hk, if_pos hrun]

/-- R153. -/
theorem exec_clockReleased (hr : s.inReset = false) {e : EngineNo} {k : Carry} (hk : (s.engine e).current = some k) :
    exec (.clockReleased e) s =
      .next (s.modEngine e fun g => { g with current := some { k with clockLow := none } }) := by
  have hx : exec (.clockReleased e) s = execClockReleased e s := rfl
  rw [hx, execClockReleased, event_awake hr, State.clockFree, s.modCarry_current hk]

/-- R89. -/
theorem exec_linkStreamRunDiscard (hr : s.inReset = false) :
    exec .linkStreamRunDiscard s = .next { s with lsr := { s.lsr with reception := none } } := by
  have hx : exec .linkStreamRunDiscard s = execLinkStreamRunDiscard s := rfl
  rw [hx, execLinkStreamRunDiscard, event_awake hr]

end

end Sys2Proof.Machine

namespace Sys2Proof.Proofs

open Sys2Proof.Machine

/-- Settles O38: each event by the one record it finds. -/
theorem localRecordsChange : Obligations.LocalRecordsChange := by
  intro s
  refine ⟨exec_inrushRecordLapse s, fun hr => ⟨fun _ _ => exec_blankingWindowEnd hr, fun _ _ => exec_pendingBasisDue hr,
    fun e k hk hpause hhold hclock => ?_, fun _ _ => exec_clockReleased hr, exec_linkStreamRunDiscard hr⟩⟩
  exact exec_clockHeldLow hr hk (by simp [Carry.inTransaction, hpause, hhold, hclock])

end Sys2Proof.Proofs
end

section
/-! The end of a group feed fault (R110, R129): the feed-clear timer of each GROUP_FEED cage of the group starts. -/

namespace Sys2Proof.Machine

section
variable (s : State) (g : GroupNo) (c : CageNo)

/-- The start of a feed-clear timer touches the sequencer context only. -/
theorem State.startFeedClear_rest :
    s.SameDevice (s.startFeedClear c) ∧ (∀ h, (s.startFeedClear c).group h = s.group h) ∧
      (∀ e, (s.startFeedClear c).engine e = s.engine e) ∧ ∀ p, (s.startFeedClear c).port p = s.port p := by
  unfold State.startFeedClear
  split
  · exact ⟨by constructor <;> rfl, fun _ => rfl, fun _ => rfl, fun p => by cases p <;> rfl⟩
  · exact ⟨.refl s, fun _ => rfl, fun _ => rfl, fun _ => rfl⟩

/-- R110: the feed-clear timer of a cage that is FAULTED with GROUP_FEED starts. -/
theorem State.startFeedClear_cage :
    (s.startFeedClear c).cage c =
      if (s.cage c).seq.state = .faulted ∧ (s.cage c).seq.reason = some .groupFeed then
        { s.cage c with
          seq :=
            { (s.cage c).seq with
              stage := .feedClearing
              timers := { (s.cage c).seq.timers with feedClear := some ⟨s.now, 1000⟩ } } }
      else s.cage c := by
  simp only [State.startFeedClear, Ctx.feedFaulted, Bool.and_eq_true, decide_eq_true_eq]
  split
  · rw [State.modSeq, State.modCage_cage_self]
    rfl
  · rfl

/-- R129: the pin and the level of the group are INACTIVE. -/
def State.clearBase : State :=
  (s.modGroup g fun x => { x with feedPin := false }).modGroup g fun x => { x with feedActive := false }

/-- R129: the group with its cages. -/
def State.feedCleared : State := (s.clearBase g).each (cagesOf g) fun c s => s.startFeedClear c

theorem State.clearBase_group :
    (s.clearBase g).group g = { s.group g with feedPin := false, feedActive := false } ∧
      ∀ h, h ≠ g → (s.clearBase g).group h = s.group h := by
  unfold State.clearBase
  refine ⟨by simp only [State.modGroup_group_self], fun h hh => ?_⟩
  rw [State.modGroup_group_ne _ _ _ _ hh, State.modGroup_group_ne _ _ _ _ hh]

/-- R129: besides the cages and the level of the group everything stays. -/
theorem State.feedCleared_rest :
    s.SameDevice (s.feedCleared g) ∧ (∀ h, (s.feedCleared g).group h = (s.clearBase g).group h) ∧
      (∀ e, (s.feedCleared g).engine e = s.engine e) ∧ ∀ p, (s.feedCleared g).port p = s.port p := by
  obtain ⟨hdevice, hgroups, hengines, hports⟩ := State.each_keeps (f := fun c s => s.startFeedClear c)
    (R := fun s t => s.SameDevice t ∧ (∀ h, t.group h = s.group h) ∧ (∀ e, t.engine e = s.engine e) ∧
      ∀ p, t.port p = s.port p)
    (fun s => ⟨.refl s, fun _ => rfl, fun _ => rfl, fun _ => rfl⟩)
    (fun a b => ⟨a.1.trans b.1, fun h => (b.2.1 h).trans (a.2.1 h), fun e => (b.2.2.1 e).trans (a.2.2.1 e),
      fun p => (b.2.2.2 p).trans (a.2.2.2 p)⟩)
    (cagesOf g) (fun d _ s => s.startFeedClear_rest d) (s.clearBase g)
  have hbase : s.SameDevice (s.clearBase g) := by constructor <;> rfl
  exact ⟨hbase.trans hdevice, hgroups, hengines, fun p => (hports p).trans (by cases p <;> rfl)⟩

theorem confined_startFeedClear (d : CageNo) (s : State) : (confined d).To s (s.startFeedClear d) :=
  (confined d).startFeedClear s

/-- R110: each cage of the group that is FAULTED with GROUP_FEED starts its timer, and no other cage changes. -/
theorem State.feedCleared_cage :
    (s.feedCleared g).cage c =
      if groupOf c = g ∧ (s.cage c).seq.state = .faulted ∧ (s.cage c).seq.reason = some .groupFeed then
        { s.cage c with
          seq :=
            { (s.cage c).seq with
              stage := .feedClearing
              timers := { (s.cage c).seq.timers with feedClear := some ⟨s.now, 1000⟩ } } }
      else s.cage c := by
  by_cases hc : groupOf c = g
  · obtain ⟨t, ht, hu⟩ := State.each_beside confined_startFeedClear (nodup_cagesOf g) (mem_cagesOf.mpr hc) (s.clearBase g)
    have hcage : t.cage c = s.cage c := ht.cage
    have hnow : t.now = s.now := ht.device.now
    rw [State.feedCleared, hu.cage, State.startFeedClear_cage, hcage, hnow]
    simp only [hc, true_and]
  · rw [if_neg (fun h => hc h.1)]
    exact (State.each_beside_of_notMem confined_startFeedClear (fun hm => hc (mem_cagesOf.mp hm)) (s.clearBase g)).cage

end

section
variable {s : State} {g : GroupNo}

theorem exec_groupFeedFaultInactive (hr : s.inReset = false) (hp : (s.group g).feedPin = true) :
    exec (.groupFeedFaultInactive g) s = .next (s.feedCleared g).settle := by
  simp only [exec, execGroupFeedFaultInactive, feedChange, hp, hr]
  rfl

/-- R129: a level that the input has already is no change. -/
theorem exec_groupFeedFaultInactive_same (hp : (s.group g).feedPin = false) :
    exec (.groupFeedFaultInactive g) s = .next s := by
  simp only [exec, execGroupFeedFaultInactive, feedChange, hp, if_true]

end

end Sys2Proof.Machine

namespace Sys2Proof.Proofs

open Sys2Proof.Machine

/-- Settles O30: the part as a whole by `feedCleared_rest`, each cage by `feedCleared_cage`. -/
theorem feedFaultClears : Obligations.FeedFaultClears := by
  intro s g
  refine ⟨exec_groupFeedFaultInactive_same, fun hr hp => ?_⟩
  obtain ⟨hdevice, hgroups, hengines, hports⟩ := s.feedCleared_rest g
  obtain ⟨hgroup, hothers⟩ := s.clearBase_group g
  exact ⟨_, exec_groupFeedFaultInactive hr hp, hdevice, ⟨fun p => by rw [hports], fun p => by rw [hports]⟩,
    fun p => by rw [hports], (hgroups g).trans hgroup, fun h hh => (hgroups h).trans (hothers h hh), hengines,
    fun c => s.feedCleared_cage g c⟩

end Sys2Proof.Proofs
end

section
/-! RESET_CAGE (R112 to R115): the states each scope is taken in, and what a cage that is reset becomes. -/

namespace Sys2Proof.Machine

/-! ### The states the scopes are taken in (R112) -/

theorem SeqState.resequences_iff (st : SeqState) :
    st.resequences = true ↔ st = .inService ∨ st = .degraded ∨ st = .linkWait := by
  cases st <;> simp [SeqState.resequences]

theorem Cage.reidentifies_iff (k : Cage) :
    k.reidentifies = true ↔
      k.seq.state = .inService ∨ k.seq.state = .degraded ∨ k.seq.state = .parked ∧ k.ciu.lines.rail = true ∨
        k.seq.state = .faulted ∧ k.seq.powerFaulted ≠ true := by
  unfold Cage.reidentifies Ctx.moduleFaulted
  cases k.seq.state <;> simp

theorem Cage.powerCycles_iff (k : Cage) :
    k.powerCycles = true ↔
      k.ciu.presence = .present ∧ k.seq.state ≠ .empty ∧ k.seq.state ≠ .draining ∧ k.seq.powerFaulted ≠ true := by
  simp only [Cage.powerCycles, Bool.and_eq_true, decide_eq_true_eq, Bool.not_eq_true', Bool.not_eq_true]
  tauto

/-! ### RESEQUENCE (R113) -/

/-- R113: from `s` to `u` the cage writes its lane settings again from LANE_MAP: the all-set tx-disable write waits. -/
structure State.Resequenced (s u : State) (c : CageNo) : Prop where
  only : s.OnlyCage u c
  lists : s.SameLists u
  state : (u.cage c).seq.state = .configure ∧ (u.cage c).seq.stage = .laneMap
  fresh : (u.cage c).seq.reason = none ∧ (u.cage c).seq.retry = 0 ∧ (u.cage c).seq.inUse = true ∧
    (u.cage c).seq.restoreNotice = true
  kept : (u.cage c).seq.cls = (s.cage c).seq.cls ∧ (u.cage c).ciu = (s.cage c).ciu ∧
    (u.cage c).image = (s.cage c).image ∧ (u.cage c).outage = (s.cage c).outage
  item : ∃ i, (u.engine (engineOf c)).waiting.getLast? = some i ∧ i.cage = c ∧ i.who = .seq ∧ i.data = [0xFF] ∧
    (⟨i.page, i.offset⟩ : Loc) = (s.mapOf c).txDisable

/-- R113: the cage at LANE_MAP, before the first write. -/
def State.laneMapBase (s : State) (c : CageNo) : State :=
  ((s.stopWork c).modSeq c fun q =>
    { q with
      reason := none
      retry := 0
      inUse := true
      restoreNotice := true
      learning := false
      learned := [] }).enter c .configure .laneMap

theorem State.resequence_eq (s : State) (c : CageNo) : s.resequence c = (s.laneMapBase c).postSeq c .txFirst := rfl

section
variable {s u : State} {c : CageNo}

theorem State.resequence_spec (hb : (s.cage c).bus.seg = .connected) : s.Resequenced (s.resequence c) c := by
  have hseg : ((s.laneMapBase c).cage c).bus.seg = .connected := by simpa [State.laneMapBase] using hb
  obtain ⟨hcage, -, hport, -, -⟩ := (s.laneMapBase c).postSeq_parts c .txFirst hseg
  obtain ⟨hlast, hitem, hwho, -, -⟩ := s.postSeq_newest (s.laneMapBase c) c .txFirst hseg
    (by simp [State.laneMapBase]) (by simp [State.laneMapBase])
  obtain ⟨-, hdata, hloc⟩ := (s.laneMapBase c).accessItem_disables c (.inl rfl)
  have hmap : (s.laneMapBase c).mapOf c = s.mapOf c :=
    State.mapOf_congr (by simp [State.laneMapBase]) (by simp [State.laneMapBase])
  have honly : s.OnlyCage (s.resequence c) c := (only c).resequence s
  rw [State.resequence_eq] at honly ⊢
  refine ⟨honly, fun p => ?_, ?_, ?_, ?_, _, hlast, hitem, hwho, hdata, hloc.trans (by rw [hmap])⟩
  · rw [hport]
    cases p <;> simp [State.laneMapBase, State.port]
  all_goals
    rw [hcage]
    simp [State.laneMapBase, Ctx.entered, SeqState.quiets, SeqState.frees]

theorem State.Resequenced.slots {f g : Port → Option (List Byte) × ReplySlot} (h : s.Resequenced u c) :
    (s.slots f).Resequenced (u.slots g) c :=
  { h with only := h.only.slots, lists := h.lists.slots }

theorem State.resequence_mute (s : State) (c : CageNo) : mute.To s (s.resequence c) :=
  (((s.stopWork_mute c).trans (State.modSeq_mute _ c _)).trans (State.enter_mute _ c _ _)).trans
    (State.postSeq_mute _ c _)

/-! ### REIDENTIFY (R114) -/

/-- R114: from `s` to `u` the cage is identified afresh: low power, an image that starts over, a CONNECTED segment, and no
timer but the init timer. -/
structure State.Reidentified (s u : State) (c : CageNo) : Prop where
  only : s.OnlyCage u c
  lists : s.SameLists u
  state : (u.cage c).seq.state = .identify ∧ (u.cage c).seq.stage = .find
  cleared : (u.cage c).seq.cls = none ∧ (u.cage c).seq.inUse = false
  power : (u.cage c).ciu.lines.lp = true ∧ (u.cage c).ciu.lines.rail = (s.cage c).ciu.lines.rail ∧
    (u.cage c).charge = min (s.cage c).charge 1500
  seg : (u.cage c).bus.seg = .connected
  image : (u.cage c).image = { Machine.emptyImage with state := .identifying }
  slot : ∀ t, (s.cage c).seq.table = some t → (u.cage c).seq.topSlot = max t.bus t.ready
  timers : (u.cage c).seq.timers = { init := some ⟨s.now, (s.profile c).initTimeout⟩ }

/-- R47, R61, R114: on a segment that takes items, an entry to IDENTIFY at FIND leaves lines, charge and segment. -/
theorem State.enterFind_cage (hb : (s.cage c).bus.seg = .connected) :
    ((s.enterFind c).cage c).ciu = (s.cage c).ciu ∧ ((s.enterFind c).cage c).charge = (s.cage c).charge ∧
      ((s.enterFind c).cage c).bus = (s.cage c).bus ∧
      ((s.enterFind c).cage c).image =
        { (s.cage c).image with
          state := if (s.cage c).image.state = .empty then .identifying else (s.cage c).image.state } ∧
      ((s.enterFind c).cage c).seq =
        { (s.cage c).seq.entered .identify .find with
          timers := { (s.cage c).seq.timers with init := some ⟨s.now, (s.profile c).initTimeout⟩ }
          access := .ident } := by
  unfold State.enterFind State.startIdentPoll
  dsimp only
  generalize ht : (State.modImage (State.modTimers _ c _) c _ : State) = t
  have hseg : (t.cage c).bus.seg = .connected := by simpa [← ht] using hb
  obtain ⟨hcage, -⟩ := t.postSeq_parts c .ident hseg
  rw [hcage, ← ht]
  simp [Ctx.entered]

/-- R114: the cage at low power with an EMPTY image and a CONNECTED segment, before its identification. -/
def State.findBase (s : State) (c : CageNo) : State :=
  let s1 := ((s.stopWork c).modSeq c fun q =>
    { q.clearRestore with
      inUse := false
      learnPending := false
      adopted := false
      parkAs := none
      topSlot := (q.table.map SlotTable.last).getD q.topSlot }).lpAssert c
  ((if (s.cage c).seq.state = .faulted then s1.resetRelease c else s1).emptyImage c).connect c

theorem State.reidentify_eq (s : State) (c : CageNo) : s.reidentify c = (s.findBase c).enterFind c := rfl

theorem State.findBase_parts (s : State) (c : CageNo) :
    let k := (s.findBase c).cage c
    k.ciu.lines.lp = true ∧ k.ciu.lines.rail = (s.cage c).ciu.lines.rail ∧ k.charge = min (s.cage c).charge 1500 ∧
      k.bus.seg = .connected ∧ k.image = Machine.emptyImage ∧ k.profile = (s.cage c).profile ∧
      k.seq.cls = none ∧ k.seq.inUse = false ∧ k.seq.timers = {} ∧
      k.seq.topSlot = ((s.cage c).seq.table.map SlotTable.last).getD (s.cage c).seq.topSlot ∧
      (s.findBase c).now = s.now ∧ (s.findBase c).portA = s.portA ∧ (s.findBase c).portB = s.portB := by
  unfold State.findBase
  split
  · cases hr : (s.cage c).ciu.lines.rail <;> simp [hr, Ctx.clearRestore, lowPowerCharge]
  · simp [Ctx.clearRestore, lowPowerCharge]

theorem State.reidentify_spec (s : State) (c : CageNo) : s.Reidentified (s.reidentify c) c := by
  obtain ⟨hlp, hrail, hcharge, hseg, himage, hprofile, hcls, huse, htimers, hslot, hnow, hA, hB⟩ :=
    s.findBase_parts c
  obtain ⟨hciu, hcharge', hbus, himage', hseq⟩ := State.enterFind_cage hseg
  obtain ⟨hlists, -⟩ := State.enterFind_spec hseg
  have honly : s.OnlyCage (s.reidentify c) c := (only c).reidentify s
  rw [State.reidentify_eq] at honly ⊢
  refine ⟨honly, fun p => (hlists p).trans ?_, ?_, ?_, ?_, by rw [hbus, hseg], ?_, fun t ht => ?_, ?_⟩
  · cases p
    · exact congrArg PortState.list hA
    · exact congrArg PortState.list hB
  · rw [hseq]
    exact ⟨rfl, rfl⟩
  · rw [hseq]
    simp [Ctx.entered, hcls, huse]
  · rw [hciu, hcharge']
    exact ⟨hlp, hrail, hcharge⟩
  · rw [himage', himage]
    rfl
  · rw [hseq]
    simp [Ctx.entered, hslot, ht, SlotTable.last]
  · rw [hseq, htimers, hnow, State.profile, hprofile]
    rfl

theorem State.Reidentified.slots {f g : Port → Option (List Byte) × ReplySlot} (h : s.Reidentified u c) :
    (s.slots f).Reidentified (u.slots g) c :=
  { h with only := h.only.slots, lists := h.lists.slots }

theorem State.findBase_mute (s : State) (c : CageNo) : mute.To s (s.findBase c) := by
  obtain ⟨-, -, -, -, -, -, -, -, -, -, -, hports⟩ := s.findBase_parts c
  exact mute_of_ports hports

theorem State.reidentify_mute (s : State) (c : CageNo) : mute.To s (s.reidentify c) :=
  (s.findBase_mute c).trans (State.enterFind_mute _ c)

/-! ### POWER_CYCLE (R115) -/

theorem State.powerCycle_powered (hr : (s.cage c).ciu.lines.rail = true) :
    s.powerCycle c = s.startDrain c .admitWait none := by
  simp [State.powerCycle, hr]

theorem State.powerCycle_waits (hr : (s.cage c).ciu.lines.rail = false) (hs : (s.cage c).seq.state = .admitWait) :
    s.powerCycle c = s := by
  simp [State.powerCycle, hr, hs]

theorem State.powerCycle_asks (hr : (s.cage c).ciu.lines.rail = false) (hs : (s.cage c).seq.state ≠ .admitWait) :
    s.powerCycle c = s.enterAdmit c := by
  simp [State.powerCycle, hr, hs]

end

/-! ### The requests (R112) -/

section
variable {s : State} {q : Req} {c : CageNo}

/-- R112: the state in which a RESET_CAGE request of a scope has been taken. -/
def State.takeScope (s : State) (q : Req) (d : Byte) : State :=
  s.take q.port 0x08 q.target (recordOf q (scopeShape d))

theorem State.takeScope_cage (d : Byte) : (s.takeScope q d).cage c = s.cage c := s.take_cage ..

/-- R112: a scope that the cage takes is carried out and answered OK, one that it does not take is answered STATE. -/
theorem event_scope (h : s.TakesFor q 1 0 c) (d : Byte) (taken : Cage → Bool) (f : CageNo → State → State) :
    (event s fun s => s.serveCage q (scopeShape d) fun c s =>
        if taken (s.cage c) then (f c s).done q.port .ok [] else s.answer q.port .state []) =
      .next (if taken (s.cage c) then ((f c (s.takeScope q d)).answer q.port .ok []).settle
        else s.replied q 0x08 .state []) := by
  rw [event_awake h.takes.awake, State.serveCage_takes h rfl rfl rfl, State.take_cage, State.take_answer]
  rfl

theorem exec_resetCageResequence (h : s.TakesFor q 1 0 c) :
    exec (.resetCageResequence q) s =
      .next (if (s.cage c).seq.state.resequences then (((s.takeScope q 0).resequence c).answer q.port .ok []).settle
        else s.replied q 0x08 .state []) :=
  event_scope h 0 (fun k => k.seq.state.resequences) fun c s => s.resequence c

theorem exec_resetCageReidentify (h : s.TakesFor q 1 0 c) :
    exec (.resetCageReidentify q) s =
      .next (if (s.cage c).reidentifies then (((s.takeScope q 1).reidentify c).answer q.port .ok []).settle
        else s.replied q 0x08 .state []) :=
  event_scope h 1 Cage.reidentifies fun c s => s.reidentify c

theorem exec_resetCagePowerCycle (h : s.TakesFor q 1 0 c) :
    exec (.resetCagePowerCycle q) s =
      .next (if (s.cage c).powerCycles then (((s.takeScope q 2).powerCycle c).answer q.port .ok []).settle
        else s.replied q 0x08 .state []) :=
  event_scope h 2 Cage.powerCycles fun c s => s.powerCycle c

/-- R113, R174: RESEQUENCE between the taking of the request and its answer. -/
theorem State.takeScope_resequence (hb : (s.cage c).bus.seg = .connected) :
    let u := ((s.takeScope q 0).resequence c).answer q.port .ok []
    s.Resequenced u c ∧ s.Answered u q 0x08 .ok [] :=
  ⟨s.take_answer_slots q _ _ (P := fun s u => (s.cage c).bus.seg = .connected → s.Resequenced u c)
    (fun s => s.resequence c) _ _ (fun h hb => (h hb).slots) (fun _ hb => State.resequence_spec hb) hb,
    s.take_answered q _ _ (State.resequence_mute _ c) _ _⟩

/-- R114, R174: REIDENTIFY between the taking of the request and its answer. -/
theorem State.takeScope_reidentify :
    let u := ((s.takeScope q 1).reidentify c).answer q.port .ok []
    s.Reidentified u c ∧ s.Answered u q 0x08 .ok [] :=
  ⟨s.take_answer_slots q _ _ (P := fun s u => s.Reidentified u c) (fun s => s.reidentify c) _ _ (fun h => h.slots)
    fun s => s.reidentify_spec c, s.take_answered q _ _ (State.reidentify_mute _ c) _ _⟩

/-- R115, R174: POWER_CYCLE of a powered cage. -/
theorem State.takeScope_drains (hr : (s.cage c).ciu.lines.rail = true) (hn : s.NoPass q.port) :
    let u := ((s.takeScope q 2).powerCycle c).answer q.port .ok []
    s.Draining u c .admitWait none ∧ (u.port q.port).reply = .answered .ok 0x08 q.target [] := by
  rw [State.powerCycle_powered (by rwa [State.takeScope_cage])]
  exact ⟨s.take_answer_slots q _ _ (P := fun s u => s.Draining u c .admitWait none)
    (fun s => s.startDrain c .admitWait none) _ _ (fun h => h.slots) fun s => s.startDrain_spec c _ _,
    State.take_startDrain_reply hn _ _ _ c _ _ _ _⟩

/-- R115, R174: POWER_CYCLE of a cage in ADMIT_WAIT. -/
theorem State.takeScope_waits (hr : (s.cage c).ciu.lines.rail = false) (hs : (s.cage c).seq.state = .admitWait) :
    ((s.takeScope q 2).powerCycle c).answer q.port .ok [] = s.replied q 0x08 .ok [] := by
  rw [State.powerCycle_waits (by rwa [State.takeScope_cage]) (by rwa [State.takeScope_cage])]
  exact s.take_answer ..

/-- R115, R174: POWER_CYCLE of any other unpowered cage. -/
theorem State.takeScope_asks (hr : (s.cage c).ciu.lines.rail = false) (hs : (s.cage c).seq.state ≠ .admitWait) :
    let u := ((s.takeScope q 2).powerCycle c).answer q.port .ok []
    s.AsksAdmission u c (s.cage c).image ∧ s.Answered u q 0x08 .ok [] := by
  rw [State.powerCycle_asks (by rwa [State.takeScope_cage]) (by rwa [State.takeScope_cage])]
  exact ⟨s.take_answer_slots q _ _ (P := fun s u => s.AsksAdmission u c (s.cage c).image)
    (fun s => s.enterAdmit c) _ _ (fun h => h.slots) fun s => s.enterAdmit_asks c,
    s.take_answered q _ _ (State.enterAdmit_mute _ c) _ _⟩

end

end Sys2Proof.Machine

namespace Sys2Proof.Proofs

open Sys2Proof.Machine

/-- Settles O46: each scope by whether the cage takes it, POWER_CYCLE also by the rail and by ADMIT_WAIT. -/
theorem cagesAreReset : Obligations.CagesAreReset := by
  intro s q c h
  dsimp only
  rw [exec_resetCageResequence h, exec_resetCageReidentify h, exec_resetCagePowerCycle h, ← Ctx.powerFaulted_iff]
  have hseq := (s.cage c).seq.state.resequences_iff
  have hid := (s.cage c).reidentifies_iff
  have hcyc := (s.cage c).powerCycles_iff
  refine ⟨fun hn => ?_, fun ht hb => ?_, fun hn => ?_, fun ht => ?_, fun hn => ?_, fun ht => ?_⟩
  · rw [if_neg fun hx => hn (hseq.mp hx)]
  · obtain ⟨hre, hans⟩ := State.takeScope_resequence (s := s) (q := q) hb
    obtain ⟨hstate, hstage⟩ := hre.state
    obtain ⟨hreason, hretry, huse, hnotice⟩ := hre.fresh
    obtain ⟨hcls, hciu, himage, houtage⟩ := hre.kept
    rw [if_pos (hseq.mpr ht)]
    exact ⟨_, rfl, hre.only, hans, hre.lists, hstate, hstage, hreason, hretry, huse, hnotice, hcls, hciu, himage,
      houtage, hre.item⟩
  · rw [if_neg fun hx => hn (hid.mp hx)]
  · obtain ⟨hre, hans⟩ := State.takeScope_reidentify (s := s) (q := q) (c := c)
    obtain ⟨hstate, hstage⟩ := hre.state
    obtain ⟨hcls, huse⟩ := hre.cleared
    obtain ⟨hlp, hrail, hcharge⟩ := hre.power
    rw [if_pos (hid.mpr ht)]
    exact ⟨_, rfl, hre.only, hans, hre.lists, hstate, hstage, hcls, huse, hlp, hrail, hcharge, hre.seg, hre.image,
      hre.slot, hre.timers⟩
  · rw [if_neg fun hx => hn (hcyc.mp hx)]
  · rw [if_pos (hcyc.mpr ht)]
    refine ⟨fun hr hp => ?_, fun hr hs => ?_, fun hr hs => ?_⟩
    · exact ⟨_, rfl, State.takeScope_drains hr hp⟩
    · rw [State.takeScope_waits hr hs]
    · exact ⟨_, rfl, State.takeScope_asks hr hs⟩

end Sys2Proof.Proofs
end

section
/-! LOAD_FIELD_MAP (R161, R162, R111): what a legal record is, and what becomes of the cages that wait for it. -/

namespace Sys2Proof.Machine

/-! ### The record (R159, R162) -/

theorem FieldMap.clamp_eq (m : FieldMap) :
    m.clamp = { m with laneCount := heldTo 1 8 m.laneCount, holdOff := heldTo 0 50 m.holdOff } := by
  rw [FieldMap.clamp, clampNat_eq (by decide), min_eq_heldTo]

theorem inWindow_iff (o : Byte) (n : Nat) : inWindow o n = true ↔ OneWindow o n := by
  unfold inWindow OneWindow
  split <;> simp only [decide_eq_true_eq] <;> omega

/-- R159: the located fields of a map are those it places. -/
theorem FieldMap.mem_fields (m : FieldMap) (l : Loc) (n : Nat) : (l, n) ∈ m.fields ↔ m.Places l n := by
  simp only [FieldMap.fields, FieldMap.Places, List.mem_append, List.mem_cons, List.not_mem_nil, List.mem_map,
    Option.mem_toList, Prod.mk.injEq, or_false]
  grind

/-- R162: a field lies in one window, and does not cover the page-select byte. -/
def FieldMap.Clear (m : FieldMap) (l : Loc) (n : Nat) : Prop :=
  OneWindow l.offset n ∧
    (l.offset.toNat < 128 → ¬(l.offset.toNat ≤ m.pageSel.toNat ∧ m.pageSel.toNat < l.offset.toNat + n))

theorem FieldMap.clear_iff (m : FieldMap) (l : Loc) (n : Nat) :
    (inWindow l.offset n && !(decide (l.offset.toNat < 128) && covers l.offset n m.pageSel)) = true ↔ m.Clear l n := by
  rw [Bool.and_eq_true, inWindow_iff]
  refine and_congr_right fun _ => ?_
  simp only [covers, Bool.not_eq_true', Bool.and_eq_false_imp, decide_eq_true_eq, decide_eq_false_iff_not,
    not_and]

theorem FieldMap.fields_clear_iff (m : FieldMap) :
    (m.fields.all fun f =>
        inWindow f.1.offset f.2 && !(decide (f.1.offset.toNat < 128) && covers f.1.offset f.2 m.pageSel)) = true ↔
      ∀ l n, m.Places l n → m.Clear l n := by
  simp only [List.all_eq_true, m.clear_iff, Prod.forall, m.mem_fields]

/-- R162 check 2: what a legal record is. -/
theorem FieldMap.legal_iff (m : FieldMap) :
    m.legal = true ↔
      (m.burst = 4 ∨ m.burst = 8) ∧ (1 ≤ m.pageSel.toNat ∧ m.pageSel.toNat ≤ 127) ∧
        (∀ l n, m.Places l n → m.Clear l n) ∧ (1 ≤ m.statusLen ∧ m.statusLen ≤ 16) ∧
        (m.lossPos < m.statusLen ∧ m.alertPos < m.statusLen ∧ m.tempPos + 1 < m.statusLen) ∧
        m.ready.bit ≤ 7 ∧ m.hpEnable.bit ≤ 7 ∧ m.hpDone.bit ≤ 7 ∧ m.alertBit ≤ 7 := by
  simp only [FieldMap.legal, Bool.and_eq_true, Bool.or_eq_true, decide_eq_true_eq, m.fields_clear_iff, and_assoc]

/-! ### The checks of a load (R162) -/

section
variable {s : State} {p : Port} {body : List Byte} {i : Fin 8} {raw : FieldMap}

theorem State.loadMap_unread (h : fieldMapOf body = none) : s.loadMap p body i = s.answer p .invalid [] := by
  simp only [State.loadMap, h]

theorem State.loadMap_illegal (h : fieldMapOf body = some raw) (hl : raw.clamp.legal = false) :
    s.loadMap p body i = s.answer p .invalid [] := by
  simp only [State.loadMap, h, hl, if_true]

theorem State.loadMap_duplicate (h : fieldMapOf body = some raw) (hl : raw.clamp.legal = true)
    (hd : s.duplicateIdent i raw.ident = true) : s.loadMap p body i = s.answer p .duplicate [] := by
  have hident : s.duplicateIdent i raw.clamp.ident = true := hd
  simp only [State.loadMap, h, hl, hident, if_true, Bool.true_eq_false, if_false]

theorem State.loadMap_collision (h : fieldMapOf body = some raw) (hl : raw.clamp.legal = true)
    (hd : s.duplicateIdent i raw.ident = false) (hh : s.entryHeld i = true) :
    s.loadMap p body i = s.answer p .collision [] := by
  have hident : s.duplicateIdent i raw.clamp.ident = false := hd
  simp only [State.loadMap, h, hl, hident, hh, if_true, Bool.true_eq_false, Bool.false_eq_true, if_false]

theorem State.loadMap_stores (h : fieldMapOf body = some raw) (hl : raw.clamp.legal = true)
    (hd : s.duplicateIdent i raw.ident = false) (hh : s.entryHeld i = false) :
    s.loadMap p body i = (s.storeMap i raw.clamp).done p (if raw.clamp = raw then .ok else .clamped) [] := by
  have hident : s.duplicateIdent i raw.clamp.ident = false := hd
  simp only [State.loadMap, h, hl, hident, hh, Bool.true_eq_false, Bool.false_eq_true, if_false]

end

/-! ### The stored record and the cages that wait for it (R161, R111) -/

/-- R161: the state with a record in an entry of the field map table. -/
def State.withMap (s : State) (i : Fin 8) (m : FieldMap) : State :=
  { s with fieldMaps := s.fieldMaps.set i (some m) }

/-- R111: the cages that are parked for a map of an identifier, lowest first. -/
def State.waitsForMap (s : State) (ident : Byte) : List CageNo :=
  allCages.filter fun c => (s.cage c).wantsMap ident

section
variable {s : State} {i : Fin 8} {m : FieldMap} {c : CageNo}

theorem State.storeMap_eq :
    s.storeMap i m = (s.withMap i m).each (s.waitsForMap m.ident) fun c s => s.resume c := rfl

theorem State.mem_waitsForMap {ident : Byte} : c ∈ s.waitsForMap ident ↔ (s.cage c).wantsMap ident = true := by
  simp [State.waitsForMap, allCages]

theorem State.nodup_waitsForMap {ident : Byte} : (s.waitsForMap ident).Nodup := (List.nodup_finRange 32).filter _

theorem Cage.wantsMap_iff (k : Cage) (ident : Byte) :
    k.wantsMap ident = true ↔
      k.seq.state = .parked ∧ k.seq.reason = some .noFieldMap ∧ k.image.identity.ident = some ident := by
  simp [Cage.wantsMap, and_assoc]

/-- R111, R161: from `s` to `u` a record has been stored in an entry: the powered cages that are parked for its identifier
look for their map again, and a cage that is not parked for it stays. -/
structure State.MapStored (s u : State) (i : Fin 8) (m : FieldMap) : Prop where
  table : u.fieldMaps = s.fieldMaps.set i (some m)
  others : ∀ c, (s.cage c).wantsMap m.ident = false → u.cage c = s.cage c
  finds : ∀ c, (s.cage c).wantsMap m.ident = true → (s.cage c).ciu.lines.rail = true →
    (s.cage c).bus.seg = .connected →
    (u.cage c).seq.state = .identify ∧ (u.cage c).seq.stage = .find ∧ (u.cage c).seq.reason = none

theorem confined_resume (d : CageNo) (s : State) : (confined d).To s (s.resume d) := (confined d).resume s

theorem State.storeMap_spec (s : State) (i : Fin 8) (m : FieldMap) : s.MapStored (s.storeMap i m) i m := by
  rw [State.storeMap_eq]
  refine ⟨?_, fun c hw => ?_, fun c hw hr hb => ?_⟩
  · have hdevice := State.each_keeps (R := State.SameDevice) (f := fun c s => s.resume c) .refl (fun a b => a.trans b)
      (s.waitsForMap m.ident) (fun d _ t => (confined_resume d t).only.device) (s.withMap i m)
    exact hdevice.fieldMaps
  · have hnot : c ∉ s.waitsForMap m.ident := fun hm => by
      rw [State.mem_waitsForMap, hw] at hm
      cases hm
    exact (State.each_beside_of_notMem confined_resume hnot (s.withMap i m)).cage
  · obtain ⟨t, ht, hu⟩ := State.each_beside confined_resume State.nodup_waitsForMap (State.mem_waitsForMap.mpr hw)
      (s.withMap i m)
    have hcage : t.cage c = s.cage c := ht.cage
    obtain ⟨-, hreason, -⟩ := ((s.cage c).wantsMap_iff m.ident).mp hw
    obtain ⟨-, hstate, hstage, hcleared, -⟩ := State.resume_finds (s := t) (c := c) (by rwa [hcage]) (by rwa [hcage])
      (by rwa [hcage])
    rw [hu.cage]
    exact ⟨hstate, hstage, hcleared⟩

theorem State.storeMap_mute (s : State) (i : Fin 8) (m : FieldMap) : mute.To s (s.storeMap i m) :=
  Rel.To.trans (t := s.withMap i m) (mute_of_ports ⟨rfl, rfl⟩)
    (State.each_keeps (R := mute.To) mute.refl (fun a b => a.trans b) _ (fun c _ s => s.resume_mute c) _)

theorem State.MapStored.slots {u : State} {f g : Port → Option (List Byte) × ReplySlot} (h : s.MapStored u i m) :
    (s.slots f).MapStored (u.slots g) i m :=
  { h with }

end

/-! ### LOAD_FIELD_MAP -/

section
variable {s : State} {q : Req} {i : Fin 8} {raw : FieldMap}

/-- R162: the state in which a LOAD_FIELD_MAP request has been taken. -/
def State.takeLoad (s : State) (q : Req) : State := s.take q.port 0x0F q.target (recordOf q (plain 0x0F 50))

theorem State.takeLoad_duplicateIdent (ident : Byte) :
    (s.takeLoad q).duplicateIdent i ident = s.duplicateIdent i ident := by
  obtain ⟨x, hx⟩ := s.take_slots q.port 0x0F q.target (recordOf q (plain 0x0F 50))
  rw [State.takeLoad, hx]
  rfl

theorem State.takeLoad_entryHeld : (s.takeLoad q).entryHeld i = s.entryHeld i := by
  simp only [State.entryHeld, State.takeLoad, State.take_cage]

theorem exec_loadFieldMap (h : s.Takes q 0 50) (ht : q.target.toNat = i.val) :
    exec (.loadFieldMap q) s = .next ((s.takeLoad q).loadMap q.port q.body i) := by
  have hx : exec (.loadFieldMap q) s =
    event s fun s => s.serveEntry q (plain 0x0F 50) fun i s => s.loadMap q.port q.body i := rfl
  rw [hx, event_awake h.awake, State.serveEntry_takes h ht rfl rfl rfl]
  rfl

theorem State.takeLoad_answer (st : ReplyStatus) : (s.takeLoad q).answer q.port st [] = s.replied q 0x0F st [] :=
  s.take_answer ..

/-- R161, R174: a record is stored between the taking of the request and its answer. -/
theorem State.takeLoad_stores (m : FieldMap) (st : ReplyStatus) :
    let u := ((s.takeLoad q).storeMap i m).answer q.port st []
    s.MapStored u i m ∧ s.Answered u q 0x0F st [] :=
  ⟨s.take_answer_slots q _ _ (P := fun s u => s.MapStored u i m) (fun s => s.storeMap i m) _ _ (fun h => h.slots)
    fun s => s.storeMap_spec i m, s.take_answered q _ _ (State.storeMap_mute _ i m) _ _⟩

end

end Sys2Proof.Machine

namespace Sys2Proof.Proofs

open Sys2Proof.Machine

/-- Settles O48: a legal record by `FieldMap.legal_iff`, the checks of a load in their order, and an accepted record by
`storeMap_spec`. -/
theorem fieldMapsAreLoaded : Obligations.FieldMapsAreLoaded := by
  refine ⟨fun m => ⟨m.clamp_eq, m.legal_iff⟩, fun s q i h ht => ?_⟩
  rw [exec_loadFieldMap h ht]
  refine ⟨fun hnone => ?_, fun raw hraw => ⟨fun hl => ?_, fun hl => ⟨fun hd => ?_, fun hd hh => ?_, fun hd hh => ?_⟩⟩⟩
  · rw [State.loadMap_unread hnone, State.takeLoad_answer]
  · rw [State.loadMap_illegal hraw hl, State.takeLoad_answer]
  · rw [State.loadMap_duplicate hraw hl (by rwa [State.takeLoad_duplicateIdent]), State.takeLoad_answer]
  · rw [State.loadMap_collision hraw hl (by rwa [State.takeLoad_duplicateIdent]) (by rwa [State.takeLoad_entryHeld]),
      State.takeLoad_answer]
  · obtain ⟨hstored, hans⟩ := State.takeLoad_stores (s := s) (q := q) (i := i) raw.clamp
      (if raw.clamp = raw then .ok else .clamped)
    rw [State.loadMap_stores hraw hl (by rwa [State.takeLoad_duplicateIdent]) (by rwa [State.takeLoad_entryHeld])]
    exact ⟨_, rfl, hstored.table, hans, fun c => ⟨hstored.others c, hstored.finds c⟩⟩

end Sys2Proof.Proofs
end

section
/-! R137 as an invariant: a cage's monitor stands as its rail enable does. An update of the part leaves both the level and
the monitor, or moves the monitor under one level, or is one of the two rail changes and the resets, which set both. -/

namespace Sys2Proof.Machine

/-! ### One cage's monitor -/

/-- R137: how the monitor of a cage stands under a level of its rail enable. -/
def Rlm.Stands (r : Rlm) (rail : Bool) : Prop :=
  (rail = true → r.basis ≠ none ∧ r.pg ≠ .off) ∧
    (rail = false → r.pg = .off ∧ r.basis = none ∧ r.pending = none ∧ r.window = [])

theorem State.monitorHolds_iff (s : State) :
    s.MonitorHolds ↔ ∀ c, (s.cage c).rlm.Stands (s.cage c).ciu.lines.rail := Iff.rfl

theorem Rlm.stands_on (r : Rlm) : r.Stands true ↔ r.basis ≠ none ∧ r.pg ≠ .off := by simp [Rlm.Stands]

theorem Rlm.stands_off (r : Rlm) :
    r.Stands false ↔ r.pg = .off ∧ r.basis = none ∧ r.pending = none ∧ r.window = [] := by simp [Rlm.Stands]

section
variable {r : Rlm} {rail : Bool}

/-- R138: a monitor without a limit basis follows no target. -/
theorem Rlm.follow_of_none (h : r.basis = none) (target : Nat) (now : Stamp) : r.follow target now = r := by
  simp [Rlm.follow, h]

/-- R138: a limit basis is moved by its target, not cleared. -/
theorem Rlm.follow_basis (h : r.basis ≠ none) (target : Nat) (now : Stamp) : (r.follow target now).basis ≠ none := by
  obtain ⟨b, hb⟩ := Option.ne_none_iff_exists'.mp h
  simp only [Rlm.follow, hb]
  split
  · exact h
  · split
    · simp
    · split <;> simp

theorem Rlm.Stands.chargeChange (h : r.Stands rail) (charge : Nat) (now : Stamp) :
    (r.chargeChange charge now).Stands rail := by
  cases rail with
  | true =>
    obtain ⟨hbasis, hpg⟩ := r.stands_on.mp h
    refine (Rlm.stands_on _).mpr ⟨Rlm.follow_basis (r := { r with reset18 := false }) hbasis charge now, ?_⟩
    rwa [(r.chargeChange_sameJudged charge now).pg]
  | false =>
    have ⟨_, hbasis, _, _⟩ := r.stands_off.mp h
    rw [Rlm.chargeChange, Rlm.follow_of_none (r := { r with reset18 := false }) hbasis]
    exact h

theorem Rlm.Stands.endReset18 (h : r.Stands rail) (charge : Nat) (now : Stamp) :
    (r.endReset18 charge now).Stands rail := by
  unfold Rlm.endReset18
  split
  · exact h.chargeChange charge now
  · exact h

/-- R138: a monitor under a rail that is off has no pending basis that could fall due. -/
theorem Rlm.Stands.basisDue (h : r.Stands rail) (now : Stamp) : (r.basisDue now).Stands rail := by
  cases hp : r.pending with
  | none => simpa [Rlm.basisDue, hp] using h
  | some p =>
    rw [Rlm.basisDue_pending hp]
    split
    · cases rail with
      | true => exact (Rlm.stands_on _).mpr ⟨by simp, (r.stands_on.mp h).2⟩
      | false =>
        obtain ⟨-, -, hpending, -⟩ := r.stands_off.mp h
        rw [hp] at hpending
        cases hpending
    · exact h

/-- R136, R140: a judged pair leaves the limit basis, and moves power-good among the states of a rail that is on. -/
theorem Rlm.Stands.judge (h : r.Stands true) (vc : BitVec 10) (power margin : Nat) :
    (r.judge vc power margin).rlm.Stands true := by
  obtain ⟨hbasis, hpg⟩ := r.stands_on.mp h
  rw [Rlm.judge_eq, Rlm.judgeRun_keeps]
  refine (Rlm.stands_on _).mpr ⟨hbasis, ?_⟩
  simp only [Rlm.judgeBase]
  split
  · simp
  · split
    · simp
    · exact hpg

theorem Rlm.railOn_stands (r : Rlm) (charge : Nat) : (r.railOn charge).Stands true := by
  simp [Rlm.stands_on, Rlm.railOn]

theorem Rlm.railOff_stands (r : Rlm) : r.railOff.Stands false := by simp [Rlm.stands_off, Rlm.railOff]

theorem Rlm.Stands.assertReset (h : r.Stands rail) : r.assertReset.Stands rail := by
  cases rail with
  | true => exact (Rlm.stands_on _).mpr (r.stands_on.mp h)
  | false =>
    obtain ⟨hpg, hbasis, hpending, -⟩ := r.stands_off.mp h
    exact (Rlm.stands_off _).mpr ⟨hpg, hbasis, hpending, rfl⟩

/-- R143: a release sets the monitor by the level it finds. -/
theorem Rlm.releaseReset_stands (r : Rlm) (rail : Bool) : (r.releaseReset rail).Stands rail := by
  cases rail <;> simp [Rlm.Stands, Rlm.releaseReset]

end

/-! ### One cage's operations -/

/-- An operation on one cage keeps R137 where that cage's monitor stands after it. -/
theorem State.OnlyCage.monitorHolds {s t : State} {c : CageNo} (ho : s.OnlyCage t c)
    (hc : (s.cage c).rlm.Stands (s.cage c).ciu.lines.rail → (t.cage c).rlm.Stands (t.cage c).ciu.lines.rail) :
    s.MonitorHolds → t.MonitorHolds := by
  intro hs
  refine t.monitorHolds_iff.mpr fun d => ?_
  by_cases hd : d = c
  · subst hd
    exact hc (hs d)
  · rw [ho.cages d hd]
    exact hs d

/-- An operation on one cage that leaves its rail enable and its monitor keeps R137. -/
theorem State.OnlyCage.monitorHolds_same {s t : State} {c : CageNo} (ho : s.OnlyCage t c)
    (h : (t.cage c).ciu.lines.rail = (s.cage c).ciu.lines.rail ∧ (t.cage c).rlm = (s.cage c).rlm) :
    s.MonitorHolds → t.MonitorHolds := by
  obtain ⟨hrail, hrlm⟩ := h
  exact ho.monitorHolds fun hs => by rwa [hrail, hrlm]

/-- What leaves the cages keeps R137. -/
theorem State.MonitorHolds.congr {s t : State} (h : ∀ c, t.cage c = s.cage c) (hs : s.MonitorHolds) :
    t.MonitorHolds :=
  t.monitorHolds_iff.mpr fun c => h c ▸ hs c

/-- A change of one cage that leaves its rail enable and its monitor keeps R137. -/
theorem State.MonitorHolds.modCage {s : State} {c : CageNo} {f : Cage → Cage}
    (hf : ∀ k, (f k).ciu = k.ciu ∧ (f k).rlm = k.rlm) : s.MonitorHolds → (s.modCage c f).MonitorHolds :=
  (s.modCage_only c f).monitorHolds_same (by simp [hf])

/-- A change of one cage's monitor that leaves it standing keeps R137. -/
theorem State.MonitorHolds.modRlm {s : State} {c : CageNo} {f : Rlm → Rlm}
    (hf : (s.cage c).rlm.Stands (s.cage c).ciu.lines.rail → (f (s.cage c).rlm).Stands (s.cage c).ciu.lines.rail) :
    s.MonitorHolds → (s.modRlm c f).MonitorHolds :=
  (s.modRlm_only c f).monitorHolds (by simpa using hf)

/-- R137: RAIL_ON sets the monitor with the rail. -/
theorem State.railOn_stands {s : State} {c : CageNo} (h : (s.cage c).rlm.Stands (s.cage c).ciu.lines.rail) :
    ((s.railOn c).cage c).rlm.Stands ((s.railOn c).cage c).ciu.lines.rail := by
  cases hl : (s.cage c).ciu.lines.rail with
  | true => simpa [hl] using h
  | false => simpa [hl] using Rlm.railOn_stands _ _

/-- R137: RAIL_OFF clears the monitor with the rail. -/
theorem State.railOff_stands {s : State} {c : CageNo} (h : (s.cage c).rlm.Stands (s.cage c).ciu.lines.rail) :
    ((s.railOff c).cage c).rlm.Stands ((s.railOff c).cage c).ciu.lines.rail := by
  cases hl : (s.cage c).ciu.lines.rail with
  | true => simpa [hl] using Rlm.railOff_stands _
  | false => simpa [hl] using h

theorem State.putDown_rlm (s : State) (e : EngineNo) (k : Carry) (o : Ending) (c : CageNo) :
    ((s.putDown e k o).cage c).rlm = (s.cage c).rlm := by
  unfold State.putDown State.modBus
  rw [State.modCage_cage]
  split
  · next hc => subst hc; rfl
  · rfl

/-! ### Every command -/

/-- R137 is kept across every operation on a cage. -/
def State.MonitorHolds.closed (c : CageNo) : Closed c where
  R := fun s t => s.MonitorHolds → t.MonitorHolds
  refl' := fun _ h => h
  trans' := fun a b h => b (a h)
  modSeq := fun s f => ((only c).modSeq s f).monitorHolds_same (by simp)
  modOutage := fun s f => ((only c).modOutage s f).monitorHolds_same (by simp)
  modImage := fun s f => ((only c).modImage s f).monitorHolds_same (by simp)
  modBus := fun s f => ((only c).modBus s f).monitorHolds_same (by simp)
  modCiu := fun s f hf => ((only c).modCiu s f hf).monitorHolds_same (by simp [hf])
  nextPoll := fun s f => ((only c).nextPoll s f).monitorHolds_same (by simp)
  learned := fun s u l => ((only c).learned s u l).monitorHolds_same (by simp)
  setCharge := fun s n => ((only c).setCharge s n).monitorHolds fun h => by
    obtain ⟨hciu, -, -, -, -, hrlm, -⟩ := s.setCharge_parts c n
    rw [hciu, hrlm]
    split
    · exact h
    · exact h.chargeChange n s.now
  railOn := fun s => ((only c).railOn s).monitorHolds State.railOn_stands
  railOff := fun s => ((only c).railOff s).monitorHolds State.railOff_stands
  resetAssert := fun s => ((only c).resetAssert s).monitorHolds_same (by simp)
  resetRelease := fun s => ((only c).resetRelease s).monitorHolds_same (by
    cases hl : (s.cage c).ciu.lines.rail <;> simp [hl])
  lpLine := fun s => ((only c).lpLine s).monitorHolds_same (by simp)
  lpRelease := fun s => ((only c).lpRelease s).monitorHolds_same (by simp)
  settleBasis := fun s => ((only c).settleBasis s).monitorHolds fun h => by
    obtain ⟨hciu, -, -, -, -, hrlm, -⟩ := s.settleBasis_parts c
    rw [hciu, hrlm]
    split
    · exact h.endReset18 _ s.now
    · exact h
  queue := fun s f hf => ((only c).queue s f hf).monitorHolds_same (by simp)
  cancel := fun s w => ((only c).cancel s w).monitorHolds_same (by simp)
  endPass := fun s st p =>
    have ended := (s.endPass_spec c st p).1.cage
    ((only c).endPass s st p).monitorHolds_same ⟨by rw [ended.ciu], ended.rlm⟩
  cutCarried := fun s =>
    have ended := (s.cutCarried_spec c).cage
    ((only c).cutCarried s).monitorHolds_same ⟨by rw [ended.ciu], ended.rlm⟩
  abortCarried := fun s => ((only c).abortCarried s).monitorHolds_same (by simp [State.abortCarried])
  putAway := fun s k hk hc => ((only c).putAway s k hk hc).monitorHolds_same (by simp)
  giveBack := fun s k o p hk hc hw => ((only c).giveBack s k o p hk hc hw).monitorHolds_same (by
    rw [State.answer_cage, State.putDown_lines, State.putDown_rlm]
    exact ⟨rfl, rfl⟩)
  addItem := fun s i hi hw => ((only c).addItem s i hi hw).monitorHolds_same (by simp [State.addItem])
  postTo := fun s p k => ((only c).postTo s p k).monitorHolds_same (by simp [State.postTo])
  postDeviceTo := fun s p k => ((only c).postDeviceTo s p k).monitorHolds_same (by simp [State.postDeviceTo])

/-- R137 is kept by every command. -/
def State.MonitorHolds.stable : Stable where
  I := State.MonitorHolds
  cage := State.MonitorHolds.closed
  keeps := fun h => h
  same := fun h => .congr fun c => by simp [State.cage, h.cages]
  latest := fun s c vc ic => .modRlm fun h => h
  scan := fun s c => (s.modCage_only c _).monitorHolds fun h => by
    rw [State.modCage_cage_self]
    exact h
  judged := fun s c vc power margin hr => .modRlm fun h => by
    rw [hr] at h ⊢
    exact h.judge vc power margin
  basisDue := fun s c now => .modRlm fun h => h.basisDue now
  replace := fun s c body new _ => .modCage fun _ => ⟨rfl, rfl⟩
  invalidate := fun s c => .modCage fun _ => ⟨rfl, rfl⟩
  group := fun s g f _ => .congr fun _ => rfl
  budget := fun s g v => .congr fun _ => rfl
  carry := fun s e f _ => .congr fun _ => rfl
  pass := fun s i => .congr fun _ => rfl
  start := fun s e i _ _ hs => .modCage (fun _ => ⟨rfl, rfl⟩) (.congr (s := s) (fun _ => rfl) hs)
  putDown := fun s e k o _ hs => State.monitorHolds_iff _ |>.mpr fun c => by
    rw [State.putDown_lines, State.putDown_rlm]
    exact hs c
  fetch := fun s p l _ => .congr fun c => by simp
  masks := fun s p c d => .congr fun c => by simp
  deviceSpacing := fun s v => .congr fun _ => rfl
  groupSpacing := fun s v => .congr fun _ => rfl
  debounce := fun s v => .congr fun _ => rfl
  pollInterval := fun s v => .congr fun _ => rfl
  reseatWindow := fun s v => .congr fun _ => rfl
  poweredOn := fun s _ => s.poweredOn.monitorHolds_iff.mpr fun c => by
    rw [s.poweredOn_cage]
    simp [powerOnCage, powerOnCiu, offRlm, Rlm.stands_off]
  assertReset := fun s hs => s.assertReset.monitorHolds_iff.mpr fun c => by
    rw [s.assertReset_cage]
    exact Rlm.Stands.assertReset (hs c)
  release := fun s cause _ => State.monitorHolds_iff _ |>.mpr fun c => by
    rw [s.releaseBase_cage]
    exact Rlm.releaseReset_stands _ _

end Sys2Proof.Machine

namespace Sys2Proof.Proofs

open Sys2Proof.Machine

/-- Settles O9: R137 is kept by every plain update of the part, and so by every step. -/
theorem monitorFollowsRail : Obligations.MonitorFollowsRail :=
  fun s t hs h => State.MonitorHolds.stable.step s t hs h

end Sys2Proof.Proofs
end

section
/-! R145 as an invariant: an engine has the segment of its current item selected, and no other. What moves an engine marks
or puts down what it carries, drops waiting items or adds one of its own cages, or starts one that waits; everything else
leaves the engines. -/

namespace Sys2Proof.Machine

/-! ### One engine -/

/-- R145 for one engine: it has the segment of its current item selected, and all it holds is for its cages. -/
structure Engine.Selects (x : Engine) (e : EngineNo) : Prop where
  selected : x.selected = x.current.map fun k => k.item.cage
  carried : ∀ k, x.current = some k → engineOf k.item.cage = e
  waiting : ∀ i ∈ x.waiting, engineOf i.cage = e

theorem State.enginesHold_iff (s : State) : s.EnginesHold ↔ ∀ e, (s.engine e).Selects e :=
  forall_congr' fun _ => ⟨fun ⟨hs, hc, hw⟩ => ⟨hs, hc, hw⟩, fun h => ⟨h.selected, h.carried, h.waiting⟩⟩

theorem idleEngine_selects (e : EngineNo) : idleEngine.Selects e :=
  ⟨rfl, fun _ hk => (nomatch hk), fun _ hi => (nomatch hi)⟩

section
variable {x : Engine} {e : EngineNo}

/-- R145: a carried item that is marked or worked on keeps its segment selected. -/
theorem Engine.Selects.mark (h : x.Selects e) {f : Carry → Carry} (hf : ∀ k, (f k).item = k.item) :
    ({ x with current := x.current.map f } : Engine).Selects e where
  selected := by simp [h.selected, Function.comp_def, hf]
  carried := fun _ hk => by
    obtain ⟨y, hy, hyk⟩ := exists_item_of_map hf hk
    exact hyk ▸ h.carried y hy
  waiting := h.waiting

/-- R145: an item that is put down leaves no segment selected. -/
theorem Engine.Selects.putAway (h : x.Selects e) : ({ x with current := none, selected := none } : Engine).Selects e :=
  ⟨rfl, fun _ hk => (nomatch hk), h.waiting⟩

theorem Engine.Selects.drop (h : x.Selects e) (p : Item → Bool) :
    ({ x with waiting := x.waiting.filter p } : Engine).Selects e :=
  ⟨h.selected, h.carried, fun i hi => h.waiting i (List.mem_of_mem_filter hi)⟩

theorem Engine.Selects.cancel (h : x.Selects e) (c : CageNo) (w : Requester) : (x.cancel c w).Selects e :=
  (h.drop fun i => !i.isOf c w).mark fun k => by split <;> rfl

/-- R145: an item of one of the engine's cages joins those that wait. -/
theorem Engine.Selects.join (h : x.Selects e) {i : Item} (hi : engineOf i.cage = e) :
    ({ x with waiting := x.waiting ++ [i] } : Engine).Selects e where
  selected := h.selected
  carried := h.carried
  waiting := fun j hj => by
    rcases List.mem_append.mp hj with hj | hj
    · exact h.waiting j hj
    · rw [List.mem_singleton.mp hj]
      exact hi

/-- R145: a waiting item that is started has its segment selected. -/
theorem Engine.Selects.start (h : x.Selects e) {i : Item} (hi : i ∈ x.waiting) (shadow : Option Byte) (m : FieldMap)
    (served : Option Port) :
    Engine.Selects ⟨some (beginCarry i shadow m), some i.cage, x.waiting.erase i, served⟩ e where
  selected := rfl
  carried := fun k hk => by
    cases hk
    exact h.waiting i hi
  waiting := fun j hj => h.waiting j (List.mem_of_mem_erase hj)

end

/-! ### The plain updates -/

/-- What leaves the engines keeps R145. -/
theorem State.EnginesHold.congr {s t : State} (h : ∀ e, t.engine e = s.engine e) (hs : s.EnginesHold) :
    t.EnginesHold :=
  fun e => h e ▸ hs e

/-- A change of one engine keeps R145 where it keeps it for that engine. -/
theorem State.EnginesHold.modEngine {s : State} {e : EngineNo} {f : Engine → Engine}
    (hf : (s.engine e).Selects e → (f (s.engine e)).Selects e) (hs : s.EnginesHold) :
    (s.modEngine e f).EnginesHold := by
  refine (State.enginesHold_iff _).mpr fun d => ?_
  rw [State.modEngine_engine]
  split
  · next hd =>
    subst hd
    exact hf (s.enginesHold_iff.mp hs d)
  · exact s.enginesHold_iff.mp hs d

theorem State.EnginesHold.modBus {s : State} (hs : s.EnginesHold) (c : CageNo) (f : Bus → Bus) :
    (s.modBus c f).EnginesHold := hs.congr fun _ => rfl

theorem State.EnginesHold.answer {s : State} (hs : s.EnginesHold) (p : Port) (st : ReplyStatus) (data : List Byte) :
    (s.answer p st data).EnginesHold := hs.congr (s.answer_engine p st data)

theorem State.EnginesHold.addItem {s : State} (hs : s.EnginesHold) (i : Item) : (s.addItem i).EnginesHold :=
  hs.modEngine fun h => h.join rfl

theorem State.EnginesHold.putDown {s : State} (hs : s.EnginesHold) (e : EngineNo) (k : Carry) (o : Ending) :
    (s.putDown e k o).EnginesHold :=
  .modBus (.modEngine (fun h => h.putAway) hs) _ _

/-- R155: an engine starts only what waits at it. -/
theorem State.EnginesHold.startItem {s : State} (hs : s.EnginesHold) {e : EngineNo} {i : Item}
    (hi : i ∈ (s.engine e).waiting) : (s.startItem e i).EnginesHold :=
  .modBus (.modEngine (fun h => h.start hi _ _ _) hs) _ _

theorem State.EnginesHold.endPass {s : State} (hs : s.EnginesHold) (c : CageNo) (st : ReplyStatus) (p : Port) :
    (s.endPass c st p).EnginesHold := by
  unfold State.endPass
  split
  · exact .answer (.modBus (.modEngine (fun h => h.drop _) hs) _ _) _ _ _
  · exact hs

/-- R106: a cut puts down the carried item of its cage, whoever is to be told. -/
theorem State.EnginesHold.cutCarried {s : State} (hs : s.EnginesHold) (c : CageNo) : (s.cutCarried c).EnginesHold := by
  have away : (s.modEngine (engineOf c) fun x => { x with current := none, selected := none }).EnginesHold :=
    hs.modEngine fun h => h.putAway
  unfold State.cutCarried
  split
  · split
    · dsimp only
      split
      · exact away.answer _ _ _
      · exact away
    · exact hs
  · exact hs

/-! ### Every command -/

/-- R145 is kept across every operation on a cage. -/
def State.EnginesHold.closed (c : CageNo) : Closed c where
  R := fun s t => s.EnginesHold → t.EnginesHold
  refl' := fun _ h => h
  trans' := fun a b h => b (a h)
  modSeq := fun _ _ => .congr fun _ => rfl
  modOutage := fun _ _ => .congr fun _ => rfl
  modImage := fun _ _ => .congr fun _ => rfl
  modBus := fun _ _ => .congr fun _ => rfl
  modCiu := fun _ _ _ => .congr fun _ => rfl
  nextPoll := fun _ _ => .congr fun _ => rfl
  learned := fun _ _ _ => .congr fun _ => rfl
  setCharge := fun _ _ => .congr fun _ => rfl
  railOn := fun _ => .congr fun _ => by unfold State.railOn; split <;> rfl
  railOff := fun _ => .congr fun _ => by unfold State.railOff; split <;> rfl
  resetAssert := fun _ => .congr fun _ => rfl
  resetRelease := fun _ => .congr fun _ => rfl
  lpLine := fun _ => .congr fun _ => rfl
  lpRelease := fun _ => .congr fun _ => rfl
  settleBasis := fun _ => .congr fun _ => by unfold State.settleBasis; split <;> rfl
  queue := fun _ _ _ => .congr fun _ => rfl
  cancel := fun _ w => .modEngine fun h => h.cancel c w
  endPass := fun _ st p hs => hs.endPass c st p
  cutCarried := fun _ hs => hs.cutCarried c
  abortCarried := fun _ => .modEngine fun h => h.mark fun k => by split <;> rfl
  putAway := fun _ _ _ _ => .modEngine fun h => h.putAway
  giveBack := fun _ k o p _ _ _ hs => (hs.putDown _ k o).answer p _ _
  addItem := fun _ i _ _ hs => hs.addItem i
  postTo := fun _ p _ => .congr fun _ => by cases p <;> rfl
  postDeviceTo := fun _ p _ => .congr fun _ => by cases p <;> rfl

/-- A release of the reset leaves the engines until feeds in fault are cut. -/
theorem State.releaseBase_engine (s : State) (cause : ResetCause) (e : EngineNo) :
    (s.releaseBase cause).engine e = s.engine e := by
  unfold State.releaseBase
  rw [foldl_keeps (get := fun t : State => t.engine e) fun t g => by simp [State.releaseGroup]]
  rfl

/-- R145 is kept by every command. -/
def State.EnginesHold.stable : Stable where
  I := State.EnginesHold
  cage := State.EnginesHold.closed
  keeps := fun h => h
  same := fun h => .congr fun e => by simp [State.engine, h.engines]
  latest := fun _ _ _ _ => .congr fun _ => rfl
  scan := fun _ _ => .congr fun _ => rfl
  judged := fun _ _ _ _ _ _ => .congr fun _ => rfl
  basisDue := fun _ _ _ => .congr fun _ => rfl
  replace := fun _ _ _ _ _ => .congr fun _ => rfl
  invalidate := fun _ _ => .congr fun _ => rfl
  group := fun _ _ _ _ => .congr fun _ => rfl
  budget := fun _ _ _ => .congr fun _ => rfl
  carry := fun _ _ _ hf => .modEngine fun h => h.mark hf
  pass := fun _ i hs => hs.addItem i
  start := fun _ _ _ hi _ hs => hs.startItem hi
  putDown := fun _ e k o _ hs => hs.putDown e k o
  fetch := fun _ _ _ _ => .congr fun _ => by simp
  masks := fun _ _ _ _ => .congr fun _ => by simp
  deviceSpacing := fun _ _ => .congr fun _ => rfl
  groupSpacing := fun _ _ => .congr fun _ => rfl
  debounce := fun _ _ => .congr fun _ => rfl
  pollInterval := fun _ _ => .congr fun _ => rfl
  reseatWindow := fun _ _ => .congr fun _ => rfl
  poweredOn := fun s _ => s.poweredOn.enginesHold_iff.mpr fun e => s.poweredOn_engine e ▸ idleEngine_selects e
  assertReset := fun s _ => s.assertReset.enginesHold_iff.mpr fun e => s.assertReset_engine e ▸ idleEngine_selects e
  release := fun s cause => .congr (s.releaseBase_engine cause)

end Sys2Proof.Machine

namespace Sys2Proof.Proofs

open Sys2Proof.Machine

/-- Settles O12: R145 is kept by every plain update of the part, and so by every step. -/
theorem enginesSelectCurrent : Obligations.EnginesSelectCurrent :=
  fun s t hs h => State.EnginesHold.stable.step s t hs h

end Sys2Proof.Proofs
end

section
/-! MODULE_READ and MODULE_WRITE (R156, R157): the checks in their order, and the item of a request that passes them. -/

namespace Sys2Proof.Machine

/-! ### The checks of a read (R156) -/

section
variable {s : State} {p : Port} {page off len flag : Byte} {c : CageNo}

theorem State.moduleRead_badFlag (hf : 2 ≤ flag.toNat) :
    s.moduleRead p [page, off, len, flag] c = s.answer p .badRequest [] := if_pos hf

theorem State.moduleRead_badLength (hf : flag.toNat < 2)
    (hl : len = 0 ∨ 64 < len.toNat ∨ inWindow off len.toNat = false) :
    s.moduleRead p [page, off, len, flag] c = s.answer p .badLength [] := by
  have hflag : ¬1 < num8 [page, off, len, flag] 3 := Nat.not_lt.mpr (Nat.le_of_lt_succ hf)
  unfold State.moduleRead
  dsimp only
  rw [if_neg hflag]
  by_cases hn : num8 [page, off, len, flag] 2 = 0 ∨ 64 < num8 [page, off, len, flag] 2
  · rw [if_pos hn]
  · rcases hl with rfl | hl | hl
    · exact absurd (.inl rfl) hn
    · exact absurd (.inr hl) hn
    · rw [if_neg hn]
      exact if_pos hl

/-- R156: a range that passes the checks leaves the presence, then the segment, to be judged. -/
theorem State.moduleRead_ranged (hf : flag.toNat < 2) (hlo : 1 ≤ len.toNat) (hhi : len.toNat ≤ 64)
    (hw : inWindow off len.toNat = true) :
    s.moduleRead p [page, off, len, flag] c =
      if (s.cage c).ciu.presence ≠ .present then s.answer p .absent []
      else if (s.cage c).bus.seg ≠ .connected then s.answer p .state []
      else s.postPass (passRead p c [page, off, len, flag] s.now s.elapsed) := by
  have hflag : ¬1 < num8 [page, off, len, flag] 3 := Nat.not_lt.mpr (Nat.le_of_lt_succ hf)
  have hn : ¬(num8 [page, off, len, flag] 2 = 0 ∨ 64 < num8 [page, off, len, flag] 2) :=
    not_or.mpr ⟨Nat.ne_of_gt hlo, Nat.not_lt.mpr hhi⟩
  have hwin : ¬inWindow (byteAt [page, off, len, flag] 1) (num8 [page, off, len, flag] 2) = false :=
    ne_false_of_eq_true hw
  unfold State.moduleRead
  dsimp only
  rw [if_neg hflag, if_neg hn, if_neg hwin]

/-- R156: the item of a read holds the bytes of the request. -/
theorem passRead_eq (now : Stamp) (joined : Nat) :
    passRead p c [page, off, len, flag] now joined =
      ⟨c, page, off, len.toNat, false, [], .port p, now, decide (flag = 1), joined⟩ := by
  have hflag : flag.toNat = 1 ↔ flag = 1 := BitVec.toNat_inj (y := 1)
  simpa [passRead, byteAt, num8] using hflag

/-! ### The checks of a write (R157) -/

variable {data : List Byte}

theorem State.moduleWrite_badLength (hl : data = [] ∨ 8 < data.length ∨ inWindow off data.length = false) :
    s.moduleWrite p (page :: off :: data) c = s.answer p .badLength [] := by
  unfold State.moduleWrite
  dsimp only
  by_cases hn : ((page :: off :: data).drop 2).length = 0 ∨ 8 < ((page :: off :: data).drop 2).length
  · rw [if_pos hn]
  · rcases hl with rfl | hl | hl
    · exact absurd (.inl rfl) hn
    · exact absurd (.inr hl) hn
    · rw [if_neg hn]
      exact if_pos hl

/-- R157: a range that passes the checks leaves the sequencer state, then the segment, to be judged. -/
theorem State.moduleWrite_ranged (hlo : 1 ≤ data.length) (hhi : data.length ≤ 8)
    (hw : inWindow off data.length = true) :
    s.moduleWrite p (page :: off :: data) c =
      if (s.cage c).takesWrite = false then s.answer p .state []
      else if (s.cage c).bus.seg ≠ .connected then s.answer p .state []
      else s.postPass (passWrite p c (page :: off :: data) s.now s.elapsed) := by
  have hn : ¬(((page :: off :: data).drop 2).length = 0 ∨ 8 < ((page :: off :: data).drop 2).length) :=
    not_or.mpr ⟨Nat.ne_of_gt hlo, Nat.not_lt.mpr hhi⟩
  have hwin : ¬inWindow (byteAt (page :: off :: data) 1) ((page :: off :: data).drop 2).length = false :=
    ne_false_of_eq_true hw
  unfold State.moduleWrite
  dsimp only
  rw [if_neg hn, if_neg hwin]

/-- R157: the item of a write holds the bytes of the request. -/
theorem passWrite_eq (now : Stamp) (joined : Nat) :
    passWrite p c (page :: off :: data) now joined =
      ⟨c, page, off, data.length, true, data, .port p, now, false, joined⟩ := rfl

end

/-- R157 check 3: a write is taken in the states in which R114 takes REIDENTIFY. -/
theorem Cage.takesWrite_eq (k : Cage) : k.takesWrite = k.reidentifies := rfl

theorem Cage.takesWrite_iff (k : Cage) :
    k.takesWrite = true ↔
      k.seq.state = .inService ∨ k.seq.state = .degraded ∨ k.seq.state = .parked ∧ k.ciu.lines.rail = true ∨
        k.seq.state = .faulted ∧ k.seq.reason ≠ some .railFail ∧ k.seq.reason ≠ some .overdraw ∧
          k.seq.reason ≠ some .groupFeed := by
  rw [k.takesWrite_eq, k.reidentifies_iff, Ne, k.seq.powerFaulted_iff]
  tauto

/-! ### The requests -/

section
variable {s : State} {q : Req} {c : CageNo}

/-- R174: the state in which a MODULE_READ request has been taken. -/
def State.takeRead (s : State) (q : Req) : State := s.take q.port 0x0D q.target (recordOf q (plain 0x0D 4))

/-- R174, R177: the row of MODULE_WRITE: page, offset and at least no data byte. -/
def writeShape : Shape := ⟨0x0E, [], bothPorts, fun n => decide (2 ≤ n)⟩

/-- R174: the state in which a MODULE_WRITE request has been taken. -/
def State.takeWrite (s : State) (q : Req) : State := s.take q.port 0x0E q.target (recordOf q writeShape)

theorem exec_moduleRead (h : s.TakesFor q 0 4 c) :
    exec (.moduleRead q) s = .next ((s.takeRead q).moduleRead q.port q.body c) := by
  have hx : exec (.moduleRead q) s =
    event s fun s => s.serveCage q (plain 0x0D 4) fun c s => s.moduleRead q.port q.body c := rfl
  rw [hx, event_awake h.takes.awake, State.serveCage_takes h rfl rfl rfl]
  rfl

theorem exec_moduleWrite {n : Nat} (h : s.TakesFor q 0 n c) (hn : 2 ≤ n) :
    exec (.moduleWrite q) s = .next ((s.takeWrite q).moduleWrite q.port q.body c) := by
  have hx : exec (.moduleWrite q) s =
    event s fun s => s.serveCage q writeShape fun c s => s.moduleWrite q.port q.body c := rfl
  rw [hx, event_awake h.takes.awake, State.serveCage_takes h rfl rfl (by simpa [writeShape] using hn)]
  rfl

theorem State.takeRead_cage : (s.takeRead q).cage c = s.cage c := s.take_cage ..

theorem State.takeWrite_cage : (s.takeWrite q).cage c = s.cage c := s.take_cage ..

theorem State.takeRead_answer (st : ReplyStatus) : (s.takeRead q).answer q.port st [] = s.replied q 0x0D st [] :=
  s.take_answer ..

theorem State.takeWrite_answer (st : ReplyStatus) : (s.takeWrite q).answer q.port st [] = s.replied q 0x0E st [] :=
  s.take_answer ..

/-- R145, R174: an item that joins its engine as its request is taken: nothing else moves but the port's own slots. -/
theorem State.take_addItem (s : State) (q : Req) {sh : Shape} (hs : sh.selector = []) (i : Item) :
    s.PassPosted ((s.take q.port sh.code q.target (recordOf q sh)).addItem i) q i.cage sh.code i where
  device := by constructor <;> simp [State.addItem, State.take]
  cages := fun d => s.take_cage q.port _ _ _ d
  groups := fun g => by simp [State.addItem, State.take]
  port := by simp [State.addItem, State.take, recordOf, hs]
  other := by
    rw [State.addItem, State.modEngine_port, State.take_port_ne]
    cases q.port <;> decide
  engines := fun e => by
    rw [State.addItem, State.modEngine_engine]
    simp only [State.take, State.modPort_engine]
    split
    · next he => rw [he]
    · rfl

theorem State.take_elapsed (s : State) (p : Port) (code target : Byte) (r : List Byte) :
    (s.take p code target r).elapsed = s.elapsed := State.modPort_elapsed ..

/-- R156, R174: a read that passes the checks is posted with its reply PENDING. -/
theorem State.takeRead_posts (page off len flag : Byte) :
    ∃ u, (s.takeRead q).postPass
        (passRead q.port c [page, off, len, flag] (s.takeRead q).now (s.takeRead q).elapsed) = u.settle ∧
      s.PassPosted u q c 0x0D
        ⟨c, page, off, len.toNat, false, [], .port q.port, s.now, decide (flag = 1), s.elapsed⟩ := by
  rw [passRead_eq, State.takeRead, State.take_now, State.take_elapsed]
  exact ⟨_, rfl, s.take_addItem q rfl _⟩

/-- R157, R174: a write that passes the checks is posted with its reply PENDING. -/
theorem State.takeWrite_posts (page off : Byte) (data : List Byte) :
    ∃ u, (s.takeWrite q).postPass
        (passWrite q.port c (page :: off :: data) (s.takeWrite q).now (s.takeWrite q).elapsed) = u.settle ∧
      s.PassPosted u q c 0x0E
        ⟨c, page, off, data.length, true, data, .port q.port, s.now, false, s.elapsed⟩ := by
  rw [passWrite_eq, State.takeWrite, State.take_now, State.take_elapsed]
  exact ⟨_, rfl, s.take_addItem q rfl _⟩

/-- R156: what becomes of a read whose range passes the checks. -/
theorem exec_moduleRead_ranged (h : s.TakesFor q 0 4 c) {page off len flag : Byte}
    (hb : q.body = [page, off, len, flag]) (hf : flag.toNat < 2) (hlo : 1 ≤ len.toNat) (hhi : len.toNat ≤ 64)
    (hw : inWindow off len.toNat = true) :
    ((s.cage c).ciu.presence ≠ .present → exec (.moduleRead q) s = .next (s.replied q 0x0D .absent [])) ∧
      ((s.cage c).ciu.presence = .present → (s.cage c).bus.seg ≠ .connected →
        exec (.moduleRead q) s = .next (s.replied q 0x0D .state [])) ∧
      ((s.cage c).ciu.presence = .present → (s.cage c).bus.seg = .connected →
        ∃ u, exec (.moduleRead q) s = .next u.settle ∧
          s.PassPosted u q c 0x0D
            ⟨c, page, off, len.toNat, false, [], .port q.port, s.now, decide (flag = 1), s.elapsed⟩) := by
  rw [exec_moduleRead h, hb, State.moduleRead_ranged hf hlo hhi hw, State.takeRead_cage, State.takeRead_answer,
    State.takeRead_answer]
  refine ⟨fun hp => ?absent, fun hp hs => ?unconnected, fun hp hs => ?posted⟩
  case absent => rw [if_pos hp]
  case unconnected => rw [if_neg (not_not.mpr hp), if_pos hs]
  case posted =>
    rw [if_neg (not_not.mpr hp), if_neg (not_not.mpr hs)]
    obtain ⟨u, hu, hpost⟩ := s.takeRead_posts (q := q) (c := c) page off len flag
    exact ⟨u, by rw [hu], hpost⟩

/-- R157: what becomes of a write whose range passes the checks. -/
theorem exec_moduleWrite_ranged {n : Nat} (h : s.TakesFor q 0 n c) (hn : 2 ≤ n) {page off : Byte} {data : List Byte}
    (hb : q.body = page :: off :: data) (hlo : 1 ≤ data.length) (hhi : data.length ≤ 8)
    (hw : inWindow off data.length = true) :
    ((s.cage c).takesWrite ≠ true ∨ (s.cage c).bus.seg ≠ .connected →
        exec (.moduleWrite q) s = .next (s.replied q 0x0E .state [])) ∧
      ((s.cage c).takesWrite = true → (s.cage c).bus.seg = .connected →
        ∃ u, exec (.moduleWrite q) s = .next u.settle ∧
          s.PassPosted u q c 0x0E
            ⟨c, page, off, data.length, true, data, .port q.port, s.now, false, s.elapsed⟩) := by
  rw [exec_moduleWrite h hn, hb, State.moduleWrite_ranged hlo hhi hw, State.takeWrite_cage, State.takeWrite_answer]
  refine ⟨fun hr => ?refused, fun ht hs => ?posted⟩
  case refused =>
    by_cases ht : (s.cage c).takesWrite = false
    · rw [if_pos ht]
    · rw [if_neg ht, if_pos (hr.resolve_left fun hn => ht (Bool.eq_false_of_not_eq_true hn))]
  case posted =>
    rw [if_neg (ne_false_of_eq_true ht), if_neg (not_not.mpr hs)]
    obtain ⟨u, hu, hpost⟩ := s.takeWrite_posts (q := q) (c := c) page off data
    exact ⟨u, by rw [hu], hpost⟩

end

end Sys2Proof.Machine

namespace Sys2Proof.Proofs

open Sys2Proof.Machine

/-- Settles O47: the checks of a read and of a write in their order, the item of one that passes them by `take_addItem`. -/
theorem passthroughsArePosted : Obligations.PassthroughsArePosted := by
  intro s q c
  refine ⟨fun h page off len flag hb => ⟨fun hf => ?_, fun hf hl => ?_, exec_moduleRead_ranged h hb⟩,
    fun page off data hb h => ?_⟩
  · rw [exec_moduleRead h, hb, State.moduleRead_badFlag hf, State.takeRead_answer]
  · rw [exec_moduleRead h, hb, State.moduleRead_badLength hf hl, State.takeRead_answer]
  · have hn : 2 ≤ q.body.length := by simp [hb]
    dsimp only
    rw [← (s.cage c).takesWrite_iff]
    refine ⟨fun hl => ?_, exec_moduleWrite_ranged h hn hb⟩
    rw [exec_moduleWrite h hn, hb, State.moduleWrite_badLength hl, State.takeWrite_answer]

end Sys2Proof.Proofs
end

section
/-! The poll schedule of one cage (R168, R169): a next poll time stands exactly in the states of the polled set. A state
outside the set takes the time away wherever the cage comes from, and only the entry to LINK_WAIT joins the set; from
then on the cage moves within the set, by the end of its restore and by the link it follows. -/

namespace Sys2Proof.Machine

/-- R168, R169: the cage has a next poll time exactly in a state of the polled set. -/
def Cage.Polls (k : Cage) : Prop := k.nextPoll.isSome = k.seq.state.polled

theorem State.pollsHold_iff (s : State) : s.PollsHold ↔ ∀ c, (s.cage c).Polls := Iff.rfl

/-- The cage stays in its state and keeps its next poll time. Reducible, so that a lemma that states it is a pair of
rewrite rules for `simp`. -/
@[simp] abbrev Cage.Stays (k k' : Cage) : Prop := k'.seq.state = k.seq.state ∧ k'.nextPoll = k.nextPoll

/-- From `s` to `t` the schedule of one cage stays right. -/
def polling (c : CageNo) : Rel where
  R := fun s t => (s.cage c).Polls → (t.cage c).Polls
  refl' := fun _ => id
  trans' := fun a b => b ∘ a

/-! ### Rules -/

theorem Cage.polls_of_none {k : Cage} {st : SeqState} (hs : k.seq.state = st) (hn : k.nextPoll = none)
    (h : st.polled = false) : k.Polls := by
  rw [Cage.Polls, hs, hn, h]
  rfl

section
variable {c : CageNo} {s t u : State}

theorem polling_of_polls (h : (t.cage c).Polls) : (polling c).To s t := fun _ => h

/-- A cage that stays inside or outside the polled set and keeps its next poll time. -/
theorem polling_within (hs : (t.cage c).seq.state.polled = (s.cage c).seq.state.polled)
    (hn : (t.cage c).nextPoll = (s.cage c).nextPoll) : (polling c).To s t := fun h => by
  rw [Cage.Polls, hn, hs]
  exact h

theorem polling_same (h : (s.cage c).Stays (t.cage c)) : (polling c).To s t := polling_within (by rw [h.1]) h.2

/-- What follows updates that leave the state and the next poll time. -/
theorem polling_after (h : (s.cage c).Stays (t.cage c)) (k : (polling c).To t u) : (polling c).To s u :=
  (polling_same h).trans k

/-- R169: a state outside the polled set takes the cage out of it, whatever has become of the cage before. -/
theorem polling_leave {st : SeqState} (h : st.polled = false) (stage : Stage) :
    (polling c).To s (u.enter c st stage) :=
  polling_of_polls (Cage.polls_of_none (st := st) (by simp [Ctx.entered]) (by simp [h]) h)

end

section
variable {c : CageNo} (s : State)

theorem State.modSeq_polling (f : Ctx → Ctx) (h : ∀ q, (f q).state = q.state := by intro; rfl) :
    (polling c).To s (s.modSeq c f) := polling_same (by simp [h])

theorem State.modTimers_polling (f : Timers → Timers) : (polling c).To s (s.modTimers c f) := s.modSeq_polling _

theorem State.modCiu_polling (f : Ciu → Ciu) : (polling c).To s (s.modCiu c f) := polling_same (by simp)

theorem State.settleBasis_polling : (polling c).To s (s.settleBasis c) := polling_same (by simp)

theorem State.post_polling (k : CageKind) : (polling c).To s (s.post c k) := polling_same ⟨rfl, rfl⟩

theorem State.modImage_polling (f : Image → Image) : (polling c).To s (s.modImage c f) := polling_same (by simp)

theorem State.closeRecord_polling (r : Result) (w : Option Reason) : (polling c).To s (s.closeRecord c r w) :=
  polling_same (by simp)

/-- A move within the polled set keeps the next poll time. -/
theorem State.enter_polling {st : SeqState} (stage : Stage) (hs : (s.cage c).seq.state.polled = true)
    (h : st.polled = true) : (polling c).To s (s.enter c st stage) :=
  polling_within (by simp [Ctx.entered, hs, h]) (by simp [h])

/-! ### What leaves the state and the next poll time -/

theorem State.PassesEnded.stays {s u : State} {c : CageNo} (h : s.PassesEnded u c) : (s.cage c).Stays (u.cage c) :=
  ⟨by rw [h.cage.seq], h.cage.nextPoll⟩

@[simp] theorem State.endPasses_stays (st : ReplyStatus) : (s.cage c).Stays ((s.endPasses c st).cage c) :=
  (s.endPasses_spec c st).1.stays

@[simp] theorem State.disconnect_stays : (s.cage c).Stays ((s.disconnect c).cage c) :=
  (s.disconnect_spec c).1.stays

@[simp] theorem State.startDrainSlot_stays (n : Nat) : (s.cage c).Stays ((s.startDrainSlot c n).cage c) := by
  unfold State.startDrainSlot
  dsimp only
  generalize ht : s.modSeq c _ = t
  have undone := t.undoSlot_spec c n
  have hseq := undone.seq
  exact ⟨by rw [hseq, ← ht]; simp, by rw [undone.nextPoll, ← ht]; simp⟩

@[simp] theorem State.abortCarried_stays : (s.cage c).Stays ((s.abortCarried c).cage c) := ⟨rfl, rfl⟩

@[simp] theorem State.pollFailed_stays : (s.cage c).Stays ((s.pollFailed c).cage c) := by
  unfold State.pollFailed
  dsimp only
  split <;> simp

@[simp] theorem State.postPoll_stays : (s.cage c).Stays ((s.postPoll c).cage c) := by
  unfold State.postPoll
  split
  · exact ⟨rfl, rfl⟩
  · split
    · exact ⟨rfl, rfl⟩
    · simp
    · exact ⟨rfl, rfl⟩

@[simp] theorem State.offerLatch_stays : (s.cage c).Stays ((s.offerLatch c).cage c) := by
  unfold State.offerLatch
  split <;> simp

@[simp] theorem State.noticeRestored_stays : (s.cage c).Stays ((s.noticeRestored c).cage c) := by
  unfold State.noticeRestored
  split <;> simp

@[simp] theorem State.overcommit_stays (g : GroupNo) (d : CageNo) : (s.cage d).Stays ((s.overcommit g).cage d) := by
  unfold State.overcommit
  split <;> exact ⟨rfl, rfl⟩

@[simp] theorem State.recordA_stays : (s.cage c).Stays ((s.recordA c).cage c) := by
  unfold State.recordA
  split <;> simp [State.recordRemoval]

@[simp] theorem State.recordB_stays : (s.cage c).Stays ((s.recordB c).cage c) := by
  simp [State.recordB]

@[simp] theorem State.recordC_stays : (s.cage c).Stays ((s.recordC c).cage c) := by
  unfold State.recordC
  split <;> simp

@[simp] theorem State.slotSteps_stays (n : Nat) : (s.cage c).Stays ((s.slotSteps c n).cage c) := by
  unfold State.slotSteps State.startInit
  dsimp only
  split <;> split <;> split <;> simp

@[simp] theorem State.cutBase_stays : (s.cage c).Stays ((s.cutBase c).cage c) := by
  have ended := (s.cutBus_ended c).stays
  simpa [State.cutBase] using ended

@[simp] theorem State.laneDone_stays (k : Nat) : (s.cage c).Stays ((s.laneDone c k).cage c) := by
  unfold State.laneDone
  dsimp only
  split <;> simp

/-! ### Parks, admissions, faults and drains -/

theorem State.parkNow_polling (r : Reason) (stage : Stage) (src : Option Source) :
    (polling c).To s (s.parkNow c r stage src) :=
  have parked := s.parkNow_spec c r stage src
  polling_of_polls (Cage.polls_of_none parked.state.1 parked.polls rfl)

theorem State.moduleFault_polling (r : Reason) : (polling c).To s (s.moduleFault c r) :=
  have faulted := s.moduleFault_spec c r
  polling_of_polls (Cage.polls_of_none faulted.state.1 faulted.polls rfl)

theorem State.enterEmpty_polling : (polling c).To s (s.enterEmpty c) :=
  have emptied := s.enterEmpty_spec c
  polling_of_polls (Cage.polls_of_none emptied.state.1 emptied.polls rfl)

theorem polling_startDrain {s u : State} (dest : Dest) (r : Option Reason) :
    (polling c).To s (u.startDrain c dest r) :=
  have draining := u.startDrain_spec c dest r
  polling_of_polls (Cage.polls_of_none draining.state.1 draining.polls rfl)

theorem State.enterPowerFault_polling (r : Reason) (stage : Stage) :
    (polling c).To s (s.enterPowerFault c r stage) :=
  ((polling_leave rfl _).trans (State.modSeq_polling _ _)).trans (State.closeRecord_polling _ _ _)

theorem State.enqueue_polling (k : QueueKind) (n : Nat) (stage : Stage) :
    (polling c).To s (s.enqueue c k n stage) := by
  unfold State.enqueue
  exact .ite (s.parkNow_polling _ _ _) (polling_same ⟨rfl, rfl⟩)

theorem State.enterAdmit_polling : (polling c).To s (s.enterAdmit c) :=
  ((polling_leave rfl _).trans (State.modSeq_polling _ _)).trans (State.enqueue_polling _ _ _ _)

theorem State.readmit_polling : (polling c).To s (s.readmit c) :=
  polling_after (by simp) (State.enterAdmit_polling _)

theorem State.endDrain_polling : (polling c).To s (s.endDrain c) := by
  unfold State.endDrain
  split
  · exact s.readmit_polling
  · exact polling_after (by simp) (State.enterPowerFault_polling _ _ _)
  · exact .ite s.readmit_polling (polling_after (by simp) (State.enterEmpty_polling _))

theorem State.powerFault_polling (r : Reason) : (polling c).To s (s.powerFault c r) := by
  unfold State.powerFault
  refine .ite ?_ ((polling c).refl s)
  split
  · split
    · exact polling_same (by simp)
    · exact (polling c).refl s
  · exact polling_startDrain _ _

theorem State.enterGroupFeed_polling : (polling c).To s (s.enterGroupFeed c) := by
  unfold State.enterGroupFeed
  have faulted := s.enterPowerFault_polling (c := c) .groupFeed .feedActive
  exact .ite faulted (faulted.trans (State.modSeq_polling _ _))

theorem State.cutGoes_polling (q : Ctx) : (polling c).To s (s.cutGoes c q) := by
  unfold State.cutGoes
  split
  · split
    · exact polling_after (by simp) (State.enterGroupFeed_polling _)
    · exact s.endDrain_polling
  · exact s.enterGroupFeed_polling
  · exact polling_after (by simp) (State.enterGroupFeed_polling _)

theorem State.cut_polling : (polling c).To s (s.cut c) := by
  rw [State.cut_eq]
  exact polling_after (by simp) (State.cutGoes_polling _ _)

theorem State.drainRelease_polling : (polling c).To s (s.drainRelease c) := by
  unfold State.drainRelease State.nextDrainSlot
  exact .ite (.ite (polling_same (by simp)) (polling_same (by simp))) ((polling c).refl s)

theorem State.postSeq_polling (a : Access) : (polling c).To s (s.postSeq c a) := by
  unfold State.postSeq
  split
  · exact polling_same (by simp [State.addItem])
  · exact s.moduleFault_polling _
  · exact s.modSeq_polling _

/-! ### The link -/

theorem State.learnLane_polling (k : Nat) : (polling c).To s (s.learnLane c k) := by
  unfold State.learnLane State.storeLearned State.abandonLearning
  exact .ite (s.postSeq_polling _) (polling_same (by simp))

/-- R92, R96: a restore ends in service from LINK_WAIT, so the cage stays in the polled set. -/
theorem State.restoreUp_polling (h : (s.cage c).seq.state.polled = true) : (polling c).To s (s.restoreUp c) := by
  unfold State.restoreUp State.startLearning
  refine (s.enter_polling (st := .inService) .none h rfl).trans (.ite ?_ (polling_same (by simp)))
  exact polling_after (by simp) (State.learnLane_polling _ _)

theorem State.restoreDegraded_polling (r : Reason) (k : Option Summary) (h : (s.cage c).seq.state.polled = true) :
    (polling c).To s (s.restoreDegraded c r k) :=
  (s.enter_polling (st := .degraded) .none h rfl).trans (polling_same (by simp [State.restoreDegraded]))

theorem serviceState_polled (x : Summary) : (serviceState x).1.polled = true := by cases x <;> rfl

/-- R94: a cage that follows its link stays in service, and so in the polled set. -/
theorem State.followLink_polling (h : (s.cage c).seq.state.polled = true) : (polling c).To s (s.followLink c) := by
  have followed : (polling c).To s (s.modSeq c fun q =>
      { q with
        state := (serviceState (s.summary c)).1
        reason := (serviceState (s.summary c)).2
        lastKnown := some (s.summary c) }) :=
    polling_within (by simp [serviceState_polled, h]) (by simp)
  unfold State.followLink
  refine .ite ((polling c).refl s) (.ite ((polling c).refl s) ?_)
  exact (followed.trans (.ite (State.post_polling _ _) ((polling c).refl _))).trans
    (.ite (polling_same (by simp)) ((polling c).refl _))

theorem State.evalLink_polling : (polling c).To s (s.evalLink c) := by
  unfold State.evalLink
  split
  · next h => exact .ite (s.restoreUp_polling (by rw [h]; rfl)) ((polling c).refl s)
  · next h => exact s.followLink_polling (by rw [h]; rfl)
  · next h => exact s.followLink_polling (by rw [h]; rfl)
  · exact (polling c).refl s

/-- R168: an entry to LINK_WAIT sets the next poll time, whatever has become of the cage before. -/
theorem polling_enterLinkWait {s u : State} (n : Option Nat) : (polling c).To s (u.enterLinkWait c n) := by
  unfold State.enterLinkWait State.joinPolls
  exact (polling_of_polls (by simp [Cage.Polls, Ctx.entered, SeqState.polled])).trans (State.evalLink_polling _)

theorem State.retryLink_polling : (polling c).To s (s.retryLink c) :=
  ((polling_leave rfl _).trans (State.modSeq_polling _ _)).trans (State.postSeq_polling _ _)

/-- R93, R190: the link timer expires in LINK_WAIT. -/
theorem State.linkExpired_polling (h : (s.cage c).seq.state.polled = true) : (polling c).To s (s.linkExpired c) := by
  unfold State.linkExpired State.recordSummary
  split
  · exact s.restoreDegraded_polling _ _ h
  · exact s.restoreDegraded_polling _ _ h
  · split
    · exact s.restoreDegraded_polling _ _ h
    · exact .ite (polling_after (by simp) (State.retryLink_polling _))
        (polling_after (by simp) (State.moduleFault_polling _ _))
  · exact s.restoreUp_polling h

/-! ### Decisions -/

theorem State.parkFromDecide_polling (r : Reason) (src : Option Source) :
    (polling c).To s (s.parkFromDecide c r src) := by
  unfold State.parkFromDecide
  exact .ite (polling_after (by simp) (State.postSeq_polling _ _)) (s.parkNow_polling _ _ _)

/-- R59: a decision is left for CONFIGURE, LINK_WAIT or HP_WAIT. -/
theorem State.proceed_polling (d : Decision) (src : Source) : (polling c).To s (s.proceed c d src) := by
  unfold State.proceed
  refine .ite ?_ ((polling_leave rfl _).trans (State.enqueue_polling _ _ _ _))
  cases d with
  | restore => exact (polling_leave rfl _).trans (State.postSeq_polling _ _)
  | adoptNew => exact polling_enterLinkWait _

theorem State.waitDecision_polling (w : Bool) : (polling c).To s (s.waitDecision c w) :=
  (s.modSeq_polling _).trans (State.post_polling _ _)

theorem State.decideEval_polling : (polling c).To s (s.decideEval c) := by
  unfold State.decideEval
  dsimp only
  refine Rel.To.trans (t := (s.modTimers c fun t => { t with window := none }).recordClass c (s.classify c))
    (polling_same (by simp [State.recordClass])) ?_
  split
  · exact State.parkFromDecide_polling _ _ _
  · exact State.proceed_polling _ _ _
  · exact State.waitDecision_polling _ _
  · exact State.waitDecision_polling _ _

theorem State.enterDecide_polling : (polling c).To s (s.enterDecide c) :=
  ((polling_leave rfl _).trans (State.modImage_polling _ _)).trans (State.decideEval_polling _)

theorem State.startIdentPoll_polling : (polling c).To s (s.startIdentPoll c) :=
  (s.modImage_polling _).trans (State.postSeq_polling _ _)

theorem polling_enterFind {s u : State} : (polling c).To s (u.enterFind c) :=
  ((polling_leave rfl _).trans (State.modSeq_polling _ _)).trans (State.startIdentPoll_polling _)

theorem State.resume_polling : (polling c).To s (s.resume c) := by
  unfold State.resume
  exact .ite (polling_after (by simp) (State.enterAdmit_polling _))
    (.ite polling_enterFind ((polling_leave rfl _).trans (State.decideEval_polling _)))

/-! ### Outcomes of items -/

theorem State.pollAgain_polling (a : Access) : (polling c).To s (s.pollAgain c a) := s.modSeq_polling _

theorem State.tookField_polling (f : IdField) (data : List Byte) : (polling c).To s (s.tookField c f data) := by
  unfold State.tookField State.identityDone
  dsimp only
  split
  · exact polling_after (by simp) (State.postSeq_polling _ _)
  · exact .ite (polling_after (by simp) (State.postSeq_polling _ _))
      (polling_after (by simp) (State.enterDecide_polling _))

theorem State.tookIdent_polling (b : Byte) : (polling c).To s (s.tookIdent c b) := by
  unfold State.tookIdent State.writeIdent
  dsimp only
  split
  · exact polling_after (by simp) (State.postSeq_polling _ _)
  · exact polling_after (by simp) (State.parkNow_polling _ _ _ _)
  · exact polling_after (by simp) (State.postSeq_polling _ _)
  · exact polling_after (by simp) (State.parkNow_polling _ _ _ _)

theorem State.tookReady_polling (b : Byte) : (polling c).To s (s.tookReady c b) := by
  unfold State.tookReady
  exact .ite (polling_after (by simp) (State.postSeq_polling _ _)) (s.pollAgain_polling _)

theorem State.tookHpDone_polling (b : Byte) : (polling c).To s (s.tookHpDone c b) := by
  unfold State.tookHpDone
  exact .ite (polling_after (by simp) (State.postSeq_polling _ _)) (s.pollAgain_polling _)

theorem polling_adoptMatched {s u : State} : (polling c).To s (u.adoptMatched c) := by
  unfold State.adoptMatched
  exact polling_enterLinkWait _

theorem State.adoptDone_polling (b : Byte) : (polling c).To s (s.adoptDone c b) := by
  unfold State.adoptDone
  dsimp only
  split
  · exact polling_adoptMatched
  · exact polling_after (by split <;> simp) (State.enterDecide_polling _)

theorem State.writeLane_polling (k : Nat) : (polling c).To s (s.writeLane c k) := by
  unfold State.writeLane State.enterHostSide
  exact .ite (s.postSeq_polling _) (polling_same (by simp [State.postTo]))

theorem State.enterDatapath_polling : (polling c).To s (s.enterDatapath c) := by
  unfold State.enterDatapath
  dsimp only
  split
  · exact polling_after (by simp) (State.postSeq_polling _ _)
  · exact polling_after (by simp) (State.postSeq_polling _ _)

theorem State.parkAdopted_polling : (polling c).To s (s.parkAdopted c) := by
  unfold State.parkAdopted
  split
  · exact s.parkNow_polling _ _ _
  · exact (polling c).refl s

/-- A change of the context that stays in the state, and the access then posted. -/
theorem State.modSeq_postSeq_polling (f : Ctx → Ctx) (a : Access)
    (h : ∀ q, (f q).state = q.state := by intro; rfl) :
    (polling c).To s ((s.modSeq c f).postSeq c a) := (s.modSeq_polling f h).trans (State.postSeq_polling _ _)

theorem State.seqOk_polling (a : Access) (data : List Byte) : (polling c).To s (s.seqOk c a data) := by
  cases a with
  | none => exact (polling c).refl s
  | ident => exact s.tookIdent_polling _
  | readyFlag => exact s.tookReady_polling _
  | identity f => exact s.tookField_polling _ _
  | adoptHp | adoptTx | hpWrite => exact s.modSeq_postSeq_polling _ _
  | adoptBreakout => exact s.adoptDone_polling _
  | txFirst => exact .ite (s.postSeq_polling _) (s.postSeq_polling _)
  | hpDone => exact s.tookHpDone_polling _
  | breakout => exact (s.modImage_polling _).trans (State.modSeq_postSeq_polling _ _ _)
  | txAll => exact s.writeLane_polling 0
  | laneAmp k => exact polling_after (by simp) (State.writeLane_polling _ _)
  | txDisable => exact polling_enterLinkWait _
  | learnAmp k eq => exact (s.modSeq_polling _).trans (State.learnLane_polling _ _)
  | hpOffWrite => exact s.parkAdopted_polling
  | hpRead | laneEq | squelch | learnEq | hpOffRead => exact s.postSeq_polling _

theorem State.seqNoResponse_polling (a : Access) : (polling c).To s (s.seqNoResponse c a) := by
  cases a with
  | none => exact (polling c).refl s
  | ident | readyFlag | hpDone => exact s.pollAgain_polling _
  | learnEq | learnAmp => exact s.modSeq_polling _
  | _ => exact s.moduleFault_polling _

theorem State.seqOutcome_polling (o : Ending) : (polling c).To s (s.seqOutcome c o) := by
  unfold State.seqOutcome
  refine (s.modSeq_polling fun q => { q with access := .none }).trans ?_
  cases o with
  | ok data => exact State.seqOk_polling _ _ _
  | noResponse => exact State.seqNoResponse_polling _ _
  | busStuck => exact .ite ((polling c).refl _) (State.moduleFault_polling _ _)
  | absent | state => exact (polling c).refl _

theorem State.pollTaken_polling (m : FieldMap) (data : List Byte) : (polling c).To s (s.pollTaken c m data) := by
  unfold State.pollTaken
  exact ((s.modImage_polling _).trans (.ite (State.post_polling _ _) ((polling c).refl _))).trans
    (.ite (State.post_polling _ _) ((polling c).refl _))

theorem State.pollOutcome_polling (m : FieldMap) (o : Ending) : (polling c).To s (s.pollOutcome c m o) := by
  cases o with
  | ok data => exact s.pollTaken_polling _ _
  | noResponse | busStuck => exact polling_same (by simp [State.pollOutcome])
  | absent | state => exact (polling c).refl s

theorem State.stickPoll_polling : (polling c).To s (s.stickPoll c) := by
  unfold State.stickPoll
  exact .ite (polling_same (by simp)) ((polling c).refl s)

theorem State.stickSeq_polling : (polling c).To s (s.stickSeq c) := by
  unfold State.stickSeq
  exact .ite (s.moduleFault_polling _) ((polling c).refl s)

/-! ### Presence -/

theorem State.removed_polling : (polling c).To s (s.removed c) := by
  unfold State.removed State.tearDown State.removedUnpowered
  exact .ite (polling_startDrain _ _) (.ite (polling_same (by simp [Ctx.clearRestore]))
    (polling_after (by simp) (State.enterEmpty_polling _)))

theorem State.inserted_polling (t : Stamp) : (polling c).To s (s.inserted c t) := by
  unfold State.inserted
  split
  · exact polling_after (by simp) (State.enterAdmit_polling _)
  · exact s.modSeq_polling _
  · exact (polling c).refl s

theorem State.acceptDue_polling : (polling c).To s (s.acceptDue c) := by
  unfold State.acceptDue State.accept
  split
  · refine .ite (.ite ?_ ?_) ((polling c).refl s)
    · exact polling_after (by simp [State.recordInsertion])
        ((State.inserted_polling _ _).trans (State.post_polling _ _))
    · exact polling_after (by simp [State.recordRemoval]) ((State.removed_polling _).trans (State.post_polling _ _))
  · exact (polling c).refl s

theorem State.noticeA_polling (w : Bool) : (polling c).To s (s.noticeA c w) := by
  unfold State.noticeA
  exact .ite (s.post_polling _) ((polling c).refl s)

theorem State.drainAdoption_polling (d : Dest) : (polling c).To s (s.drainAdoption c d) := by
  unfold State.drainAdoption
  exact (polling_startDrain d none).trans (State.modTimers_polling _ _)

theorem State.startReading_polling : (polling c).To s (s.startReading c) :=
  (s.modSeq_polling _).trans (State.startIdentPoll_polling _)

theorem State.adoptionRow_polling (b : Bool) : (polling c).To s (s.adoptionRow c b) := by
  unfold State.adoptionRow State.adopt
  refine .ite (.ite ?_ (.ite ?_ (.ite ?_ ?_))) (Rel.To.trans (.ite ?_ ?_) (State.noticeA_polling _ _))
  · exact polling_after (by simp) (State.enterAdmit_polling _)
  · exact polling_after (by simp) (State.drainAdoption_polling _ _)
  · exact polling_after (by simp) (State.startReading_polling _)
  · exact polling_same (by simp)
  · exact polling_after (by simp) (State.drainAdoption_polling _ _)
  · exact polling_after (by simp) (State.enterEmpty_polling _)

theorem State.adoptionLate_polling (b : Bool) : (polling c).To s (s.adoptionLate c b) := by
  unfold State.adoptionLate
  exact .ite (.ite (polling_same (by simp)) (polling_same (by simp)))
    ((polling_after (by simp) (State.removed_polling _)).trans (State.noticeA_polling _ _))

theorem State.endSettle_polling : (polling c).To s (s.endSettle c) := by
  unfold State.endSettle State.adoptionPresence
  exact (s.modCiu_polling _).trans
    (.ite (State.adoptionRow_polling _ _) ((State.adoptionLate_polling _ _).trans (State.settleBasis_polling _)))

theorem State.latchEdge_polling : (polling c).To s (s.latchEdge c) := by
  unfold State.latchEdge
  refine .ite ?_ ((polling c).refl s)
  split
  · exact (polling c).refl s
  · exact polling_same (by simp)

/-! ### Timed events of the sequencer -/

theorem State.startSlot_polling (n : Nat) : (polling c).To s (s.startSlot c n) := by
  unfold State.startSlot State.endPowering
  exact .ite (((polling_leave rfl _).trans (State.modSeq_polling _ _)).trans (State.startIdentPoll_polling _))
    (polling_same (by simp))

theorem State.slotOver_polling : (polling c).To s (s.slotOver c) := by
  unfold State.slotOver
  exact .ite (s.modSeq_polling _) (s.startSlot_polling _)

theorem State.powerGood_polling : (polling c).To s (s.powerGood c) := by
  have held :
      (polling c).To s (s.modSeq c fun q => { q with pgHeld := true, timers := { q.timers with pgLimit := none } }) :=
    s.modSeq_polling _
  unfold State.powerGood
  dsimp only
  split
  · exact .ite (held.trans (State.startSlot_polling _ 1)) held
  · exact .ite (held.trans (State.startReading_polling _)) held
  · exact (polling c).refl s

theorem State.adoptionLimit_polling : (polling c).To s (s.adoptionLimit c) :=
  (s.modSeq_polling _).trans (State.powerFault_polling _ _)

theorem State.windowOver_polling : (polling c).To s (s.windowOver c) := by
  unfold State.windowOver
  dsimp only
  split
  · exact polling_after (by simp) (State.proceed_polling _ _ _)
  · exact polling_after (by simp) (State.parkFromDecide_polling _ _ _)

theorem State.hostSideOver_polling : (polling c).To s (s.hostSideOver c) :=
  polling_after (by simp) (State.enterDatapath_polling _)

/-- R168: the next poll time advances, so that there is one after as before. -/
theorem State.pollTimeReached_polling : (polling c).To s (s.pollTimeReached c) := by
  intro h
  simpa [State.pollTimeReached, Cage.Polls] using h

/-! ### Feed faults and requests -/

theorem State.feedFault_polling : (polling c).To s (s.feedFault c) := by
  unfold State.feedFault State.stopFeedClear
  exact .ite s.cut_polling (.ite (s.modSeq_polling _) ((polling c).refl s))

theorem State.startFeedClear_polling : (polling c).To s (s.startFeedClear c) := by
  unfold State.startFeedClear
  exact .ite (s.modSeq_polling _) ((polling c).refl s)

theorem State.neverFit_polling (g : GroupNo) (e : Entry) : (polling e.cage).To s (s.neverFit g e) := by
  unfold State.neverFit
  exact .ite (polling_after (by simp) (State.parkNow_polling _ _ _ _)) ((polling _).refl s)

theorem State.resequence_polling : (polling c).To s (s.resequence c) :=
  (polling_leave rfl _).trans (State.postSeq_polling _ _)

theorem State.powerCycle_polling : (polling c).To s (s.powerCycle c) := by
  unfold State.powerCycle
  exact .ite (polling_startDrain _ _) (.ite ((polling c).refl s) s.enterAdmit_polling)

theorem State.profileChanged_polling (p : Port) : (polling c).To s (s.profileChanged p c) := by
  unfold State.profileChanged
  have posted : (polling c).To s (s.postTo p.other c .profileChanged) := polling_same (by simp [State.postTo])
  exact posted.trans (.ite (State.decideEval_polling _) ((polling c).refl _))

end

end Sys2Proof.Machine
end

section
/-! Every command keeps the poll schedule of every cage (R168, R169): what it does to one cage by the lemmas on that
cage's operations, what it does to the other parts by leaving the cages. -/

namespace Sys2Proof.Machine

/-- From `s` to `t` the schedule of every cage stays right. -/
def pollsKept : Rel where
  R := fun s t => s.PollsHold → t.PollsHold
  refl' := fun _ => id
  trans' := fun a b => b ∘ a

/-- What leaves the states and the next poll times of all cages keeps the schedules. -/
theorem pollsKept_of_stays {s t : State} (h : ∀ c, (s.cage c).Stays (t.cage c)) : pollsKept.To s t :=
  fun hs => t.pollsHold_iff.mpr fun c => polling_same (h c) (s.pollsHold_iff.mp hs c)

theorem pollsKept_of_cages {s t : State} (h : ∀ c, t.cage c = s.cage c) : pollsKept.To s t :=
  pollsKept_of_stays fun c => by simp [h c]

/-- An operation on one cage keeps the schedules where it keeps that cage's. -/
theorem State.OnlyCage.pollsKept {s t : State} {c : CageNo} (ho : s.OnlyCage t c) (h : (polling c).To s t) :
    pollsKept.To s t := fun hs => t.pollsHold_iff.mpr fun d => by
  by_cases hd : d = c
  · subst hd
    exact h (hs d)
  · rw [ho.cages d hd]
    exact hs d

/-- The schedules stay right from a state to every next state of an outcome. -/
def EndsPolling (s : State) (o : Out) : Prop := ∀ t, o = .next t → pollsKept.To s t

theorem endsPolling_next {s t : State} (h : pollsKept.To s t) : EndsPolling s (.next t) := by
  rintro u ⟨⟩
  exact h

section
variable (s : State)

theorem pollsKept_each (f : CageNo → State → State) (h : ∀ c s, pollsKept.To s (f c s)) (l : List CageNo) :
    pollsKept.To s (s.each l f) := by
  induction l generalizing s with
  | nil => exact pollsKept.refl s
  | cons c l ih => exact (h c s).trans (ih _)

theorem pollsKept_foldl {β : Type} (f : State → β → State) (h : ∀ s b, pollsKept.To s (f s b)) (l : List β) :
    pollsKept.To s (l.foldl f s) := by
  induction l generalizing s with
  | nil => exact pollsKept.refl s
  | cons b l ih => exact (h s b).trans (ih _)

/-! ### Engines -/

theorem State.modBus_pollsKept (c : CageNo) (f : Bus → Bus) : pollsKept.To s (s.modBus c f) :=
  (s.modBus_only c f).pollsKept (polling_same (by simp))

theorem State.modRlm_pollsKept (c : CageNo) (f : Rlm → Rlm) : pollsKept.To s (s.modRlm c f) :=
  (s.modRlm_only c f).pollsKept (polling_same (by simp))

theorem State.modEngine_pollsKept (e : EngineNo) (f : Engine → Engine) : pollsKept.To s (s.modEngine e f) :=
  pollsKept_of_cages fun _ => rfl

theorem State.modCarry_pollsKept (e : EngineNo) (f : Carry → Carry) : pollsKept.To s (s.modCarry e f) :=
  s.modEngine_pollsKept e _

theorem State.chooseNext_pollsKept (e : EngineNo) : pollsKept.To s (s.chooseNext e) := by
  unfold State.chooseNext
  split
  · exact pollsKept.refl s
  · split
    · unfold State.startItem
      exact (s.modEngine_pollsKept e _).trans (State.modBus_pollsKept _ _ _)
    · exact pollsKept.refl s

theorem State.answer_pollsKept (p : Port) (st : ReplyStatus) (data : List Byte) :
    pollsKept.To s (s.answer p st data) := pollsKept_of_cages (s.answer_cage p st data)

theorem State.putDown_pollsKept (e : EngineNo) (k : Carry) (o : Ending) : pollsKept.To s (s.putDown e k o) := by
  unfold State.putDown
  exact (s.modEngine_pollsKept e _).trans (State.modBus_pollsKept _ _ _)

theorem State.seqOutcome_pollsKept (c : CageNo) (o : Ending) : pollsKept.To s (s.seqOutcome c o) :=
  ((only c).seqOutcome s o).pollsKept (s.seqOutcome_polling o)

theorem State.pollOutcome_pollsKept (c : CageNo) (m : FieldMap) (o : Ending) : pollsKept.To s (s.pollOutcome c m o) :=
  ((only c).pollOutcome s m o).pollsKept (s.pollOutcome_polling m o)

theorem State.handOver_pollsKept (k : Carry) (o : Ending) : pollsKept.To s (s.handOver k o) := by
  unfold State.handOver
  split
  · exact s.answer_pollsKept _ _ _
  · exact .ite (pollsKept.refl s) (s.seqOutcome_pollsKept _ o)
  · exact .ite (pollsKept.refl s) (s.pollOutcome_pollsKept _ _ o)

theorem State.drainRelease_pollsKept (c : CageNo) : pollsKept.To s (s.drainRelease c) :=
  ((only c).drainRelease s).pollsKept s.drainRelease_polling

theorem State.endItem_pollsKept (e : EngineNo) (o : Ending) : pollsKept.To s (s.endItem e o) := by
  unfold State.endItem
  split
  · exact pollsKept.refl s
  · exact ((s.putDown_pollsKept _ _ _).trans (State.handOver_pollsKept _ _ _)).trans (State.drainRelease_pollsKept _ _)

theorem State.burstsDone_pollsKept (e : EngineNo) (k : Carry) : pollsKept.To s (s.burstsDone e k) := by
  unfold State.burstsDone
  split
  · exact s.modCarry_pollsKept e _
  · exact s.endItem_pollsKept e _

theorem State.burstDone_pollsKept (e : EngineNo) (k : Carry) (data : List Byte) :
    pollsKept.To s (s.burstDone e k data) := by
  unfold State.burstDone
  exact .ite (.ite (s.modCarry_pollsKept e _) (s.modCarry_pollsKept e _))
    ((s.modCarry_pollsKept e _).trans (State.burstsDone_pollsKept _ e _))

theorem State.transactionDone_pollsKept (e : EngineNo) (data : List Byte) :
    pollsKept.To s (s.transactionDone e data) := by
  unfold State.transactionDone
  split
  · exact pollsKept.refl s
  · refine .ite (.ite (s.endItem_pollsKept e _) ?_) (pollsKept.refl s)
    split
    · exact (s.modBus_pollsKept _ _).trans (State.modCarry_pollsKept _ e _)
    · exact .ite (s.burstDone_pollsKept e _ data) (pollsKept.refl s)
    · exact s.endItem_pollsKept e _

theorem State.transactionFailed_pollsKept (e : EngineNo) (k : Carry) : pollsKept.To s (s.transactionFailed e k) := by
  unfold State.transactionFailed
  split
  · exact (s.endItem_pollsKept e _).trans (State.modBus_pollsKept _ _ _)
  · exact s.endItem_pollsKept e _
  · exact s.endItem_pollsKept e _

theorem State.addressNacked_pollsKept (e : EngineNo) : pollsKept.To s (s.addressNacked e) := by
  unfold State.addressNacked
  split
  · exact pollsKept.refl s
  · exact .ite (.ite (s.endItem_pollsKept e _) (.ite (s.transactionFailed_pollsKept e _) (s.modCarry_pollsKept e _)))
      (pollsKept.refl s)

theorem State.retryBurst_pollsKept (e : EngineNo) : pollsKept.To s (s.retryBurst e) := by
  unfold State.retryBurst
  split
  · exact pollsKept.refl s
  · split
    · exact pollsKept.refl s
    · exact .ite (.ite (s.endItem_pollsKept e _) (s.modCarry_pollsKept e _)) (pollsKept.refl s)

theorem State.dataNacked_pollsKept (e : EngineNo) : pollsKept.To s (s.dataNacked e) := by
  unfold State.dataNacked
  split
  · exact pollsKept.refl s
  · exact .ite (.ite (s.endItem_pollsKept e _) (s.transactionFailed_pollsKept e _)) (pollsKept.refl s)

/-- R153: a stuck clock ends the carried item, and then the waiting ones of its cage. -/
theorem State.stick_pollsKept (e : EngineNo) : pollsKept.To s (s.stick e) := by
  have ended : ∀ (s : State) (c : CageNo),
      pollsKept.To s (((((s.endPasses c .busStuck).stickPoll c).stickSeq c).drainRelease c)) := fun s c =>
    State.OnlyCage.pollsKept (c := c)
      ((((only c).endPasses s _).trans ((only c).stickPoll _)).trans ((only c).stickSeq _) |>.trans
        ((only c).drainRelease _))
      ((polling_after (by simp) (State.stickPoll_polling _)).trans (State.stickSeq_polling _) |>.trans
        (State.drainRelease_polling _))
  unfold State.stick
  split
  · exact pollsKept.refl s
  · split
    · exact pollsKept.refl s
    · exact .ite ((((s.putDown_pollsKept e _ _).trans (State.modBus_pollsKept _ _ _)).trans
        (State.handOver_pollsKept _ _ _)).trans (ended _ _)) (pollsKept.refl s)

theorem State.endAtBoundary_pollsKept (e : EngineNo) : pollsKept.To s (s.endAtBoundary e) := by
  unfold State.endAtBoundary
  split
  · exact pollsKept.refl s
  · exact .ite (s.endItem_pollsKept e _) (pollsKept.refl s)

theorem State.holdOver_pollsKept (c : CageNo) : pollsKept.To s (s.holdOver c) := by
  unfold State.holdOver State.resumeWrite
  refine (s.modBus_pollsKept c fun b => { b with hold := if dueTimer b.hold s.now then none else b.hold }).trans ?_
  dsimp only
  split
  · exact pollsKept.refl _
  · exact .ite (.ite (State.endItem_pollsKept _ _ _) (State.modCarry_pollsKept _ _ _)) (pollsKept.refl _)

/-! ### The end of a step -/

theorem State.takeHead_pollsKept (g : GroupNo) : pollsKept.To s (s.takeHead g) := pollsKept_of_cages fun _ => rfl

/-- R42: a low-power grant takes the cage to POWERING, outside the polled set. -/
theorem State.grantLow_pollsKept (g : GroupNo) (c : CageNo) : pollsKept.To s (s.grantLow g c) := by
  unfold State.grantLow
  refine (s.takeHead_pollsKept g).trans (State.OnlyCage.pollsKept (c := c) ?_ ?_)
  · exact (((((only c).setCharge _ _).trans ((only c).modSeq _ _)).trans ((only c).enter _ _ _)).trans
      ((only c).railOn _)).trans ((only c).lpAssert _)
  · refine polling_of_polls (Cage.polls_of_none (st := .powering) ?_ ?_ rfl)
    · simp [Ctx.entered]
    · simp [SeqState.polled]

/-- R79: a high-power grant takes the cage to CONFIGURE, outside the polled set. -/
theorem State.grantHigh_pollsKept (g : GroupNo) (c : CageNo) (n : Nat) : pollsKept.To s (s.grantHigh g c n) := by
  unfold State.grantHigh
  refine (s.takeHead_pollsKept g).trans (State.OnlyCage.pollsKept (c := c) ?_ ?_)
  · exact ((((only c).setCharge _ _).trans ((only c).lpRelease _)).trans ((only c).enter _ _ _)).trans
      ((only c).postSeq _ _)
  · exact (polling_leave rfl _).trans (State.postSeq_polling _ _)

theorem State.settle_pollsKept : pollsKept.To s s.settle := by
  refine Rel.To.trans (t := s.pauTest) ?_ (pollsKept_foldl _ _ State.chooseNext_pollsKept _)
  unfold State.pauTest State.grant
  split
  · split
    · exact s.grantLow_pollsKept _ _
    · exact s.grantHigh_pollsKept _ _ _
  · exact pollsKept.refl s

/-! ### Outcomes -/

variable {s}

theorem endsPolling_event {f : State → State} (h : pollsKept.To s (f s)) : EndsPolling s (event s f) :=
  endsPolling_next (.ite (pollsKept.refl s) h)

theorem endsPolling_act {f : State → State} (h : pollsKept.To s (f s)) : EndsPolling s (act s f) :=
  endsPolling_event (h.trans (State.settle_pollsKept _))

/-- An expiry is taken where its guard holds. -/
theorem endsPolling_expiry {g : Bool} {f : State → State} (h : g = true → pollsKept.To s (f s)) :
    EndsPolling s (expiry s g f) := by
  unfold Machine.expiry
  split
  · next hg => exact endsPolling_act (h hg)
  · exact endsPolling_next (pollsKept.refl s)

/-- An expiry that is an operation on one cage. -/
theorem endsPolling_expiryAt {g : Bool} {f : State → State} {c : CageNo} (ho : s.OnlyCage (f s) c)
    (h : (polling c).To s (f s)) : EndsPolling s (expiry s g f) := endsPolling_expiry fun _ => ho.pollsKept h

/-! ### Requests -/

theorem State.overrun_pollsKept (s : State) (p : Port) : pollsKept.To s (s.overrun p) :=
  pollsKept_of_cages fun c => by simp [State.overrun, State.postDeviceTo]

theorem State.take_pollsKept (s : State) (p : Port) (a b : Byte) (raw : List Byte) :
    pollsKept.To s (s.take p a b raw) := pollsKept_of_cages (s.take_cage p a b raw)

theorem endsPolling_serve {q : Req} {sh : Shape} {f : State → State} (h : ∀ s, pollsKept.To s (f s)) :
    EndsPolling s (event s fun s => s.serve q sh f) := by
  refine endsPolling_event ?_
  unfold State.serve
  exact .ite (s.overrun_pollsKept _) ((s.take_pollsKept _ _ _ _).trans
    (.ite (State.answer_pollsKept _ _ _ _) (.ite (State.answer_pollsKept _ _ _ _) (h _))))

theorem endsPolling_serveCage {q : Req} {sh : Shape} {f : CageNo → State → State}
    (h : ∀ c s, pollsKept.To s (f c s)) : EndsPolling s (event s fun s => s.serveCage q sh f) :=
  endsPolling_serve fun s => by
    split
    · exact h _ s
    · exact s.answer_pollsKept _ _ _

theorem endsPolling_serveGroup {q : Req} {sh : Shape} {f : GroupNo → State → State}
    (h : ∀ g s, pollsKept.To s (f g s)) : EndsPolling s (event s fun s => s.serveGroup q sh f) :=
  endsPolling_serve fun s => by
    split
    · exact h _ s
    · exact s.answer_pollsKept _ _ _

theorem endsPolling_serveEntry {q : Req} {sh : Shape} {f : Fin 8 → State → State}
    (h : ∀ i s, pollsKept.To s (f i s)) : EndsPolling s (event s fun s => s.serveEntry q sh f) :=
  endsPolling_serve fun s => by
    split
    · exact h _ s
    · exact s.answer_pollsKept _ _ _

theorem State.done_pollsKept (s : State) (p : Port) (st : ReplyStatus) (data : List Byte) :
    pollsKept.To s (s.done p st data) := (s.answer_pollsKept p st data).trans (State.settle_pollsKept _)

/-- An operation on a cage and its answer. -/
theorem pollsKept_doneAt {s t : State} {c : CageNo} (ho : s.OnlyCage t c) (h : (polling c).To s t) (p : Port)
    (st : ReplyStatus) (data : List Byte) : pollsKept.To s (t.done p st data) :=
  (ho.pollsKept h).trans (t.done_pollsKept p st data)

/-- A request that is taken under a condition and does its work on one cage, and is refused otherwise. -/
theorem pollsKept_guarded {s t : State} {b : Prop} [Decidable b] {c : CageNo} (ho : s.OnlyCage t c)
    (h : (polling c).To s t) (p : Port) (st refused : ReplyStatus) (data data' : List Byte) :
    pollsKept.To s (if b then t.done p st data else s.answer p refused data') :=
  .ite (pollsKept_doneAt ho h p st data) (s.answer_pollsKept p refused data')

variable (s)

theorem State.clearFault_pollsKept (p : Port) (c : CageNo) : pollsKept.To s (s.clearFault p c) := by
  unfold State.clearFault
  exact .ite (.ite (s.answer_pollsKept _ _ _) (pollsKept_doneAt ((only c).readmit s) s.readmit_polling _ _ _))
    (pollsKept_guarded ((only c).startDrain s _ _) (polling_startDrain _ _) _ _ _ _ _)

theorem State.postPass_pollsKept (i : Item) : pollsKept.To s (s.postPass i) :=
  Rel.To.trans (t := s.addItem i) (pollsKept_of_cages fun _ => rfl) (State.settle_pollsKept _)

theorem State.moduleRead_pollsKept (p : Port) (body : List Byte) (c : CageNo) :
    pollsKept.To s (s.moduleRead p body c) := by
  unfold State.moduleRead
  exact .ite (s.answer_pollsKept _ _ _) (.ite (s.answer_pollsKept _ _ _) (.ite (s.answer_pollsKept _ _ _)
    (.ite (s.answer_pollsKept _ _ _) (.ite (s.answer_pollsKept _ _ _) (s.postPass_pollsKept _)))))

theorem State.moduleWrite_pollsKept (p : Port) (body : List Byte) (c : CageNo) :
    pollsKept.To s (s.moduleWrite p body c) := by
  unfold State.moduleWrite
  exact .ite (s.answer_pollsKept _ _ _) (.ite (s.answer_pollsKept _ _ _) (.ite (s.answer_pollsKept _ _ _)
    (.ite (s.answer_pollsKept _ _ _) (s.postPass_pollsKept _))))

theorem State.resume_pollsKept (c : CageNo) : pollsKept.To s (s.resume c) :=
  ((only c).resume s).pollsKept s.resume_polling

theorem State.loadMap_pollsKept (p : Port) (body : List Byte) (i : Fin 8) : pollsKept.To s (s.loadMap p body i) := by
  unfold State.loadMap State.storeMap
  split
  · exact s.answer_pollsKept _ _ _
  · refine .ite (s.answer_pollsKept _ _ _) (.ite (s.answer_pollsKept _ _ _) (.ite (s.answer_pollsKept _ _ _) ?_))
    refine Rel.To.trans (Rel.To.trans ?_ (pollsKept_each _ _ (fun c s => s.resume_pollsKept c) _))
      (State.done_pollsKept _ _ _ _)
    exact pollsKept_of_cages fun _ => rfl

theorem State.overcommit_pollsKept (g : GroupNo) : pollsKept.To s (s.overcommit g) :=
  pollsKept_of_stays fun c => s.overcommit_stays g c

theorem State.setBudget_pollsKept (p : Port) (body : List Byte) (g : GroupNo) :
    pollsKept.To s (s.setBudget p body g) := by
  unfold State.setBudget State.changeBudget
  refine Rel.To.trans (Rel.To.trans (t := s.modGroup g fun x => { x with budget := (storeBudget (num16 body 0)).1 })
    (pollsKept_of_cages fun _ => rfl) ?_) (State.done_pollsKept _ _ _ _)
  refine Rel.To.trans ?_ ((pollsKept_each _ _ (fun c s => s.resume_pollsKept c) _).trans
    (State.overcommit_pollsKept _ g))
  exact pollsKept_foldl _ _ (fun s e => ((only e.cage).neverFit s g e rfl).pollsKept (s.neverFit_polling g e)) _

theorem State.fetch_pollsKept (p : Port) : pollsKept.To s (s.fetch p) := by
  unfold State.fetch
  split
  · exact s.answer_pollsKept _ _ _
  · exact Rel.To.trans (pollsKept_of_cages fun c => by simp) (State.answer_pollsKept _ _ _ _)

/-- R30, R31: a profile that a request changes, and what its change sets off. -/
theorem State.modProfile_pollsKept (c : CageNo) (f : Profile → Profile) (p : Port) (st : ReplyStatus)
    (data : List Byte) : pollsKept.To s (((s.modProfile c f).profileChanged p c).done p st data) :=
  ((s.modCage_only c _).pollsKept (polling_same (by simp))).trans
    (pollsKept_doneAt ((only c).profileChanged _ p) (State.profileChanged_polling _ p) _ _ _)

theorem State.writeProfile_pollsKept (p : Port) (body : List Byte) (c : CageNo) :
    pollsKept.To s (s.writeProfile p body c) := by
  unfold State.writeProfile
  split
  · exact s.answer_pollsKept _ _ _
  · exact .ite (s.answer_pollsKept _ _ _) (.ite (s.answer_pollsKept _ _ _) (s.modProfile_pollsKept c _ p _ _))

theorem State.invalidate_pollsKept (p : Port) (body : List Byte) (c : CageNo) :
    pollsKept.To s (s.invalidate p body c) := by
  unfold State.invalidate
  exact .ite (s.answer_pollsKept _ _ _) (.ite (s.answer_pollsKept _ _ _) (s.modProfile_pollsKept c _ p _ _))

/-! ### Resets (R186) -/

theorem State.poweredOn_pollsKept : pollsKept.To s s.poweredOn := fun _ => (State.pollsHold_iff _).mpr fun c => by
  rw [s.poweredOn_cage]
  rfl

theorem State.assertReset_pollsKept : pollsKept.To s s.assertReset := fun _ => (State.pollsHold_iff _).mpr fun c => by
  rw [s.assertReset_cage]
  rfl

theorem State.releaseReset_pollsKept (cause : ResetCause) : pollsKept.To s (s.releaseReset cause) := by
  have based : pollsKept.To s (s.releaseBase cause) := fun _ => (State.pollsHold_iff _).mpr fun c => by
    rw [s.releaseBase_cage]
    rfl
  have held : pollsKept.To s (s.releaseHeld cause) := based.trans (pollsKept_foldl _ _ State.overcommit_pollsKept _)
  rw [s.releaseReset_eq cause]
  exact held.trans (pollsKept_each _ _
    (fun c s => .ite (((only c).cut s).pollsKept s.cut_polling) (pollsKept.refl s)) _)

/-! ### The rail monitor and the link stream -/

theorem State.evaluatePair_pollsKept (c : CageNo) (vc ic : BitVec 10) : pollsKept.To s (s.evaluatePair c vc ic) := by
  unfold State.evaluatePair
  dsimp only
  generalize (s.cage c).rlm.judge vc (pairPower vc ic) (s.profile c).overdraw = j
  refine (s.modRlm_pollsKept c fun _ => j.rlm).trans ?_
  generalize (s.modRlm c fun _ => j.rlm) = s1
  refine Rel.To.trans (t := if j.good then s1.powerGood c else s1)
    (.ite (((only c).powerGood s1).pollsKept s1.powerGood_polling) (pollsKept.refl s1)) ?_
  cases j.fault with
  | some r => exact ((only c).powerFault _ _).pollsKept (State.powerFault_polling _ _)
  | none => exact pollsKept.refl _

theorem State.advanceScan_pollsKept : pollsKept.To s s.advanceScan :=
  Rel.To.trans (t := { s with scanCage := nextCage s.scanCage }) (pollsKept_of_cages fun _ => rfl)
    ((State.modCage_only _ _ _).pollsKept (polling_same (by simp)))

theorem State.pairDone_pollsKept (vc ic : BitVec 10) : pollsKept.To s (s.pairDone vc ic) := by
  unfold State.pairDone
  refine ((s.modRlm_pollsKept s.scanCage fun r => r.latest vc ic).trans ?_).trans (State.advanceScan_pollsKept _)
  exact .ite (State.evaluatePair_pollsKept _ _ _ _) (pollsKept.refl _)

theorem State.evalLinks_pollsKept (l : List CageNo) : pollsKept.To s (s.each l fun c s => s.evalLink c) :=
  pollsKept_each _ _ (fun c s => ((only c).evalLink s).pollsKept s.evalLink_polling) _

theorem State.lsr_pollsKept (l : Lsr) : pollsKept.To s { s with lsr := l } := pollsKept_of_cages fun _ => rfl

theorem State.postDevice_pollsKept (k : DeviceKind) : pollsKept.To s (s.postDevice k) := pollsKept_of_cages fun _ => rfl

theorem State.frameClosed_pollsKept (run : List Bool) : pollsKept.To s (s.frameClosed run) := by
  unfold State.frameClosed State.frameLive State.frameStale
  refine .ite (.ite ?_ ?_) (pollsKept.refl _)
  · exact (s.lsr_pollsKept _).trans (State.evalLinks_pollsKept _ _)
  · exact ((s.lsr_pollsKept _).trans (State.postDevice_pollsKept _ _)).trans (State.evalLinks_pollsKept _ _)

theorem State.marker_pollsKept (bits : List Bool) : pollsKept.To s (s.marker bits) := by
  unfold State.marker
  refine (s.lsr_pollsKept { s.lsr with reception := some [] }).trans ?_
  dsimp only
  split
  · exact pollsKept.refl _
  · exact State.frameClosed_pollsKept _ _

theorem State.streamLost_pollsKept : pollsKept.To s s.streamLost :=
  ((s.lsr_pollsKept _).trans (State.postDevice_pollsKept _ _)).trans (State.evalLinks_pollsKept _ _)

/-! ### Feeds and settings -/

variable {s}

theorem endsPolling_feedChange {g : GroupNo} {b : Bool} {f : State → State} (h : ∀ s, pollsKept.To s (f s)) :
    EndsPolling s (feedChange g b f s) := by
  have moved : pollsKept.To s (s.modGroup g fun x => { x with feedPin := b }) := pollsKept_of_cages fun _ => rfl
  unfold Machine.feedChange
  dsimp only
  split
  · exact endsPolling_next (pollsKept.refl s)
  · split
    · exact endsPolling_next moved
    · exact endsPolling_next ((moved.trans (h _)).trans (State.settle_pollsKept _))

theorem endsPolling_setTiming {q : Req} {sh : Shape} {sel lo hi step : Nat} {f : Nat → State → State}
    (h : ∀ v s, pollsKept.To s (f v s)) :
    EndsPolling s (event s fun s => s.serve q sh fun s => s.setTiming q sel lo hi step f) :=
  endsPolling_serve fun s => (h _ s).trans (State.done_pollsKept _ _ _ _)

/-! ### Every command -/

variable (s)

/-- Every command keeps the schedules. -/
theorem exec_endsPolling (i : Instr) : EndsPolling s (exec i s) := by
  cases i <;> unfold exec <;> dsimp only
  case powerOn => exact endsPolling_next s.poweredOn_pollsKept
  case resetPinAssert =>
    exact endsPolling_next (.ite (pollsKept.refl s) (s.assertReset_pollsKept.trans (pollsKept_of_cages fun _ => rfl)))
  case resetPinRelease =>
    refine endsPolling_next (.ite ?_ (pollsKept.refl s))
    refine Rel.To.trans (t := { s with inReset := false }) (pollsKept_of_cages fun _ => rfl) ?_
    exact (State.releaseReset_pollsKept _ _).trans (State.settle_pollsKept _)
  case restart q =>
    exact endsPolling_serve fun s =>
      (s.assertReset_pollsKept.trans (State.releaseReset_pollsKept _ _)).trans (State.settle_pollsKept _)
  case presentLineChange c l =>
    have moved : ∀ f, pollsKept.To s (s.modCiu c f) := fun f => (s.modCiu_only c f).pollsKept (s.modCiu_polling f)
    exact endsPolling_next (.ite (pollsKept.refl s) (.ite (moved _) (moved _)))
  case candidateAccepted c =>
    unfold execCandidateAccepted
    split
    · exact endsPolling_act (((only c).acceptDue s).pollsKept s.acceptDue_polling)
    · exact endsPolling_next (pollsKept.refl s)
  case settleIntervalEnd c =>
    unfold execSettleIntervalEnd
    split
    · exact endsPolling_act (((only c).endSettle s).pollsKept s.endSettle_polling)
    · exact endsPolling_next (pollsKept.refl s)
  case attentionEdge c l =>
    have moved : pollsKept.To s (s.modCiu c fun k => { k with attentionPin := l }) :=
      (s.modCiu_only c _).pollsKept (s.modCiu_polling _)
    unfold execAttentionEdge
    dsimp only
    split
    · exact endsPolling_next moved
    · split
      · exact endsPolling_next ((moved.trans (((only c).latchEdge _).pollsKept (State.latchEdge_polling _))).trans
          (State.settle_pollsKept _))
      · exact endsPolling_next moved
  case lowPowerGrant g =>
    unfold execLowPowerGrant
    split
    · exact endsPolling_act (s.grantLow_pollsKept _ _)
    · exact endsPolling_next (pollsKept.refl s)
  case highPowerGrant g =>
    unfold execHighPowerGrant
    split
    · exact endsPolling_act (s.grantHigh_pollsKept _ _ _)
    · exact endsPolling_next (pollsKept.refl s)
  case spacingBoundReached => exact endsPolling_event s.settle_pollsKept
  case inrushRecordLapse r => cases r <;> exact endsPolling_next (pollsKept_of_cages fun _ => rfl)
  case groupFeedFaultActive g =>
    exact endsPolling_feedChange fun s => Rel.To.trans (pollsKept_of_cages fun _ => rfl)
      (pollsKept_each (s.modGroup g fun x => { x with feedActive := true }) _
        (fun c s => ((only c).feedFault s).pollsKept s.feedFault_polling) _)
  case groupFeedFaultInactive g =>
    exact endsPolling_feedChange fun s => Rel.To.trans (pollsKept_of_cages fun _ => rfl)
      (pollsKept_each (s.modGroup g fun x => { x with feedActive := false }) _
        (fun c s => ((only c).startFeedClear s).pollsKept s.startFeedClear_polling) _)
  case bringUpSlotStart c => exact endsPolling_expiryAt ((only c).slotOver s) s.slotOver_polling
  case powerGoodLimitExpiry c => exact endsPolling_expiryAt ((only c).powerFault s _) (s.powerFault_polling _)
  case adoptionPgLimitExpiry c => exact endsPolling_expiryAt ((only c).adoptionLimit s) s.adoptionLimit_polling
  case seqPollTimerExpiry c => exact endsPolling_expiryAt ((only c).pollDue s) (s.modSeq_postSeq_polling _ _)
  case initTimerExpiry c => exact endsPolling_expiryAt ((only c).moduleFault s _) (s.moduleFault_polling _)
  case adoptionInitTimeout c => exact endsPolling_expiryAt ((only c).moduleFault s _) (s.moduleFault_polling _)
  case decisionWindowExpiry c => exact endsPolling_expiryAt ((only c).windowOver s) s.windowOver_polling
  case hpSettleTimeout c => exact endsPolling_expiryAt ((only c).moduleFault s _) (s.moduleFault_polling _)
  case hostSideWindowExpiry c => exact endsPolling_expiryAt ((only c).hostSideOver s) s.hostSideOver_polling
  case linkTimerExpiry c =>
    refine endsPolling_expiry fun hg => ((only c).linkExpired s).pollsKept (s.linkExpired_polling ?_)
    have waits : (s.cage c).seq.state = .linkWait := of_decide_eq_true (Bool.and_eq_true_iff.mp hg).1
    rw [waits]
    rfl
  case blankingWindowEnd c =>
    refine endsPolling_event ?_
    split
    · exact .ite ((s.modSeq_only c _).pollsKept (s.modSeq_polling _)) (pollsKept.refl s)
    · exact pollsKept.refl s
  case drainSlotStart c =>
    exact endsPolling_expiryAt ((only c).nextDrainSlot s) (polling_same (by simp [State.nextDrainSlot]))
  case drainEnd c => exact endsPolling_expiryAt ((only c).endDrain s) s.endDrain_polling
  case feedClearTimerExpiry c => exact endsPolling_expiryAt ((only c).readmit s) s.readmit_polling
  case nextPollTimeReached c => exact endsPolling_expiryAt ((only c).pollTimeReached s) s.pollTimeReached_polling
  case readProfile | readStatus | readImageIdentity | readImageApplied | readImageStatus | readOutage
    | decideBadDecision | resetCageBadScope | readImageBadSection =>
    exact endsPolling_serveCage fun _ s => s.answer_pollsKept _ _ _
  case writeProfile q => exact endsPolling_serveCage fun c s => s.writeProfile_pollsKept _ _ c
  case invalidateProfile q => exact endsPolling_serveCage fun c s => s.invalidate_pollsKept _ _ c
  case decideRestore q =>
    exact endsPolling_serveCage fun c s =>
      .ite (pollsKept_guarded ((only c).proceed s _ _) (s.proceed_polling _ _) _ _ _ _ _) (s.answer_pollsKept _ _ _)
  case decideAdoptNew q =>
    exact endsPolling_serveCage fun c s => pollsKept_guarded ((only c).proceed s _ _) (s.proceed_polling _ _) _ _ _ _ _
  case decidePark q =>
    exact endsPolling_serveCage fun c s =>
      pollsKept_guarded ((only c).parkFromDecide s _ _) (s.parkFromDecide_polling _ _) _ _ _ _ _
  case release q =>
    exact endsPolling_serveCage fun c s => pollsKept_guarded ((only c).resume s) s.resume_polling _ _ _ _ _
  case hostSideDone q =>
    exact endsPolling_serveCage fun c s =>
      pollsKept_guarded ((only c).enterDatapath s) s.enterDatapath_polling _ _ _ _ _
  case clearFault q => exact endsPolling_serveCage fun c s => s.clearFault_pollsKept _ c
  case resetCageResequence q =>
    exact endsPolling_serveCage fun c s => pollsKept_guarded ((only c).resequence s) s.resequence_polling _ _ _ _ _
  case resetCageReidentify q =>
    exact endsPolling_serveCage fun c s => pollsKept_guarded ((only c).reidentify s) polling_enterFind _ _ _ _ _
  case resetCagePowerCycle q =>
    exact endsPolling_serveCage fun c s => pollsKept_guarded ((only c).powerCycle s) s.powerCycle_polling _ _ _ _ _
  case readGroup q => exact endsPolling_serveGroup fun _ s => s.answer_pollsKept _ _ _
  case moduleRead q => exact endsPolling_serveCage fun c s => s.moduleRead_pollsKept _ _ c
  case moduleWrite q => exact endsPolling_serveCage fun c s => s.moduleWrite_pollsKept _ _ c
  case loadFieldMap q => exact endsPolling_serveEntry fun i s => s.loadMap_pollsKept _ _ i
  case readFieldMap q => exact endsPolling_serveEntry fun _ s => s.answer_pollsKept _ _ _
  case fetchAttention q => exact endsPolling_serve fun s => s.fetch_pollsKept _
  case setMask q =>
    exact endsPolling_serve fun s => Rel.To.trans (pollsKept_of_cages fun c => by simp) (State.answer_pollsKept _ _ _ _)
  case setBudget q => exact endsPolling_serveGroup fun g s => s.setBudget_pollsKept _ _ g
  case setTimingDeviceSpacing | setTimingGroupSpacing | setTimingPollInterval | setTimingReseatWindow =>
    exact endsPolling_setTiming fun _ _ => pollsKept_of_cages fun _ => rfl
  case setTimingDebounceTime q =>
    exact endsPolling_setTiming fun v s => Rel.To.trans (pollsKept_of_cages fun _ => rfl)
      (pollsKept_each (s.modSettings fun x => { x with debounce := v }) _
        (fun c s => ((only c).acceptDue s).pollsKept s.acceptDue_polling) _)
  case readDevice | setTimingBadSelector => exact endsPolling_serve fun s => s.answer_pollsKept _ _ _
  case unknownRequest p raw =>
    exact endsPolling_event (.ite (pollsKept.refl s) (.ite (s.overrun_pollsKept p)
      ((s.take_pollsKept _ _ _ _).trans (State.answer_pollsKept _ _ _ _))))
  case portOverrun p => exact endsPolling_event (.ite (s.overrun_pollsKept p) (pollsKept.refl s))
  case busTransactionComplete e data => exact endsPolling_act (s.transactionDone_pollsKept e data)
  case addressNack e => exact endsPolling_act (s.addressNacked_pollsKept e)
  case nackRetryExpiry e => exact endsPolling_act (s.retryBurst_pollsKept e)
  case dataNack e => exact endsPolling_act (s.dataNacked_pollsKept e)
  case clockHeldLow e => exact endsPolling_event (s.modCarry_pollsKept e _)
  case clockReleased e => exact endsPolling_event (s.modCarry_pollsKept e _)
  case stuckLimitExpiry e => exact endsPolling_act (s.stick_pollsKept e)
  case holdOffExpiry c => exact endsPolling_act (s.holdOver_pollsKept c)
  case itemEndAtByteBoundary e => exact endsPolling_act (s.endAtBoundary_pollsKept e)
  case pairComplete vc ic => exact endsPolling_act (s.pairDone_pollsKept vc ic)
  case pendingBasisDue c => exact endsPolling_event (s.modRlm_pollsKept c _)
  case linkStreamFrame bits => exact endsPolling_act (s.marker_pollsKept bits)
  case linkStreamRunDiscard => exact endsPolling_event (s.lsr_pollsKept _)
  case streamStaleTimeout => exact endsPolling_expiry fun _ => s.streamLost_pollsKept

/-- Every step keeps the schedules. -/
theorem step_pollsKept {s t : State} (h : step s = .next t) : pollsKept.To s t := by
  unfold step at h
  split at h
  · cases h
    exact pollsKept_of_cages fun _ => rfl
  · next i rest _ =>
    exact Rel.To.trans (t := { s with pending := rest }) (pollsKept_of_cages fun _ => rfl) (exec_endsPolling _ i t h)

end

end Sys2Proof.Machine

namespace Sys2Proof.Proofs

open Sys2Proof.Machine

/-- Settles O13: a state outside the polled set takes the next poll time away, the entry to LINK_WAIT sets it, and every
step moves each cage by such entries. -/
theorem pollScheduleFollowsState : Obligations.PollScheduleFollowsState :=
  fun _ _ hs h => step_pollsKept h hs

end Sys2Proof.Proofs
end

section
/-! R182 as an invariant: an attention list holds one entry for a cage and one for DEVICE, none without a kind. A posting
adds a kind to the entry that is there or appends the first one, a fetch takes the head, a reset clears the list, and
every other operation leaves the lists. -/

namespace Sys2Proof.Machine

/-! ### One list -/

/-- R182: a posting leaves the owners of the entries, or appends an owner that was not there. -/
theorem addKind_who (l : List AttEntry) (w : Option CageNo) (k : BitVec 16) (r : Option ResetCause) :
    (addKind l w k r).map AttEntry.who =
      if w ∈ l.map AttEntry.who then l.map AttEntry.who else l.map AttEntry.who ++ [w] := by
  induction l with
  | nil => rfl
  | cons a l ih =>
    by_cases h : a.who = w
    · simp [addKind, h]
    · simp only [addKind_cons_ne a l h, List.map_cons, ih, List.mem_cons, Ne.symm h, false_or]
      split <;> rfl

/-- An entry of a list after a posting is an old one, the new one, or an old one with the kind added. -/
theorem mem_addKind {l : List AttEntry} {w : Option CageNo} {k : BitVec 16} {r : Option ResetCause} {a : AttEntry}
    (h : a ∈ addKind l w k r) : a ∈ l ∨ ∃ b : BitVec 16, a.kinds = b ||| k := by
  induction l with
  | nil =>
    have ha : a = ⟨w, k, r⟩ := by simpa [addKind] using h
    exact .inr ⟨0, by simp [ha]⟩
  | cons e l ih =>
    unfold addKind at h
    split at h
    · rcases List.mem_cons.mp h with rfl | h
      · exact .inr ⟨e.kinds, rfl⟩
      · exact .inl (List.mem_cons_of_mem e h)
    · rcases List.mem_cons.mp h with rfl | h
      · exact .inl List.mem_cons_self
      · exact (ih h).imp_left (List.mem_cons_of_mem e)

/-- R182: a posting of a kind keeps the form of a list. -/
theorem ListForm.addKind {l : List AttEntry} (h : ListForm l) (w : Option CageNo) {k : BitVec 16} (hk : k ≠ 0)
    (r : Option ResetCause) : ListForm (addKind l w k r) := by
  obtain ⟨hone, hkinds⟩ := h
  constructor
  · rw [addKind_who]
    split
    · exact hone
    · next hw => exact List.nodup_append.mpr ⟨hone, List.nodup_singleton w, fun a ha b hb => by
        rintro rfl
        exact hw (List.mem_singleton.mp hb ▸ ha)⟩
  · intro a ha
    rcases mem_addKind ha with ha | ⟨b, hb⟩
    · exact hkinds a ha
    · exact hb ▸ fun hz => hk (BitVec.or_eq_zero_iff.mp hz).2

/-- R183: what a fetch leaves of a list keeps its form. -/
theorem ListForm.suffix {l m : List AttEntry} (h : ListForm l) (hm : m <:+ l) : ListForm m :=
  ⟨h.1.sublist (hm.sublist.map AttEntry.who), fun a ha => h.2 a (hm.subset ha)⟩

theorem listForm_nil : ListForm [] := ⟨List.nodup_nil, by simp⟩

/-- R186: RESTARTED alone. -/
theorem listForm_restarted (cause : ResetCause) : ListForm [restartedEntry cause] :=
  ⟨List.nodup_singleton _, by simp [restartedEntry]⟩

theorem DeviceKind.bit_ne_zero (k : DeviceKind) : k.bit ≠ 0 := by cases k <;> decide

/-! ### Both lists -/

theorem State.listsHold_iff (s : State) : s.ListsHold ↔ ∀ p, ListForm (s.port p).list :=
  ⟨fun ⟨hA, hB⟩ p => match p with
    | .A => hA
    | .B => hB, fun h => ⟨h .A, h .B⟩⟩

/-- What leaves the lists keeps their form. -/
theorem State.ListsHold.congr {s t : State} (h : s.SameLists t) (hs : s.ListsHold) : t.ListsHold :=
  t.listsHold_iff.mpr fun p => h p ▸ s.listsHold_iff.mp hs p

/-- What leaves the ports keeps the form of their lists. -/
theorem State.ListsHold.of_ports {s t : State} (h : t.portA = s.portA ∧ t.portB = s.portB) (hs : s.ListsHold) :
    t.ListsHold := by
  unfold State.ListsHold
  rw [h.1, h.2]
  exact hs

/-- A change of one port keeps the form of both lists where it keeps that of the port's. -/
theorem State.ListsHold.modPort {s : State} (hs : s.ListsHold) {p : Port} {f : PortState → PortState}
    (hf : ListForm (f (s.port p)).list) : (s.modPort p f).ListsHold :=
  (s.modPort p f).listsHold_iff.mpr fun q => by
    rw [State.modPort_port]
    split
    · exact hf
    · exact s.listsHold_iff.mp hs q

/-- A posting to a port keeps the form of both lists. -/
theorem State.ListsHold.posted {s : State} (hs : s.ListsHold) (p : Port) (w : Option CageNo) {k : BitVec 16}
    (hk : k ≠ 0) (r : Option ResetCause) : (s.modPort p fun x => { x with list := addKind x.list w k r }).ListsHold :=
  hs.modPort ((s.listsHold_iff.mp hs p).addKind w hk r)

/-! ### Every command -/

/-- R182 is kept across every operation on a cage. -/
def State.ListsHold.closed (c : CageNo) : Closed c where
  R := fun s t => s.ListsHold → t.ListsHold
  refl' := fun _ h => h
  trans' := fun a b h => b (a h)
  modSeq := fun _ _ => .of_ports ⟨rfl, rfl⟩
  modOutage := fun _ _ => .of_ports ⟨rfl, rfl⟩
  modImage := fun _ _ => .of_ports ⟨rfl, rfl⟩
  modBus := fun _ _ => .of_ports ⟨rfl, rfl⟩
  modCiu := fun _ _ _ => .of_ports ⟨rfl, rfl⟩
  nextPoll := fun _ _ => .of_ports ⟨rfl, rfl⟩
  learned := fun _ _ _ => .of_ports ⟨rfl, rfl⟩
  setCharge := fun _ _ => .of_ports ⟨rfl, rfl⟩
  railOn := fun _ => .of_ports (by unfold State.railOn; split <;> exact ⟨rfl, rfl⟩)
  railOff := fun _ => .of_ports (by unfold State.railOff; split <;> exact ⟨rfl, rfl⟩)
  resetAssert := fun _ => .of_ports ⟨rfl, rfl⟩
  resetRelease := fun _ => .of_ports ⟨rfl, rfl⟩
  lpLine := fun _ => .of_ports ⟨rfl, rfl⟩
  lpRelease := fun _ => .of_ports ⟨rfl, rfl⟩
  settleBasis := fun s => .congr (s.settleBasis_lists c)
  queue := fun _ _ _ => .of_ports ⟨rfl, rfl⟩
  cancel := fun _ _ => .of_ports ⟨rfl, rfl⟩
  endPass := fun s st p => .congr (s.endPass_spec c st p).1.list
  cutCarried := fun s => .congr (s.cutCarried_spec c).list
  abortCarried := fun _ => .of_ports ⟨rfl, rfl⟩
  putAway := fun _ _ _ _ => .of_ports ⟨rfl, rfl⟩
  giveBack := fun s k o p _ _ _ hs =>
    .congr ((s.putDown (engineOf c) k o).answer_list p · _ _) (.of_ports (s := s) ⟨rfl, rfl⟩ hs)
  addItem := fun _ _ _ _ => .of_ports ⟨rfl, rfl⟩
  postTo := fun _ p k hs => hs.posted p (some c) k.bit_ne_zero none
  postDeviceTo := fun _ p k hs => hs.posted p none k.bit_ne_zero _

/-- R182 is kept by every command. -/
def State.ListsHold.stable : Stable where
  I := State.ListsHold
  cage := State.ListsHold.closed
  keeps := fun h => h
  same := fun h => .congr fun p => (h.ports p).1
  latest := fun _ _ _ _ => .of_ports ⟨rfl, rfl⟩
  scan := fun _ _ => .of_ports ⟨rfl, rfl⟩
  judged := fun _ _ _ _ _ _ => .of_ports ⟨rfl, rfl⟩
  basisDue := fun _ _ _ => .of_ports ⟨rfl, rfl⟩
  replace := fun _ _ _ _ _ => .of_ports ⟨rfl, rfl⟩
  invalidate := fun _ _ => .of_ports ⟨rfl, rfl⟩
  group := fun _ _ _ _ => .of_ports ⟨rfl, rfl⟩
  budget := fun _ _ _ => .of_ports ⟨rfl, rfl⟩
  carry := fun _ _ _ _ => .of_ports ⟨rfl, rfl⟩
  pass := fun _ _ => .of_ports ⟨rfl, rfl⟩
  start := fun _ _ _ _ _ => .of_ports ⟨rfl, rfl⟩
  putDown := fun _ _ _ _ _ => .of_ports ⟨rfl, rfl⟩
  fetch := fun s p _ hl hs => hs.modPort ((s.listsHold_iff.mp hs p).suffix hl)
  masks := fun s p _ _ hs => hs.modPort (s.listsHold_iff.mp hs p)
  deviceSpacing := fun _ _ => .of_ports ⟨rfl, rfl⟩
  groupSpacing := fun _ _ => .of_ports ⟨rfl, rfl⟩
  debounce := fun _ _ => .of_ports ⟨rfl, rfl⟩
  pollInterval := fun _ _ => .of_ports ⟨rfl, rfl⟩
  reseatWindow := fun _ _ => .of_ports ⟨rfl, rfl⟩
  poweredOn := fun s _ => s.poweredOn.listsHold_iff.mpr fun p => by
    rw [s.poweredOn_port]
    exact listForm_restarted .powerOn
  assertReset := fun s _ => s.assertReset.listsHold_iff.mpr fun p => by
    rw [s.assertReset_port]
    exact listForm_nil
  release := fun s cause hs => (s.releaseBase cause).listsHold_iff.mpr fun p => by
    rw [s.releaseBase_list]
    exact (s.listsHold_iff.mp hs p).addKind none DeviceKind.restarted.bit_ne_zero (some cause)

end Sys2Proof.Machine

namespace Sys2Proof.Proofs

open Sys2Proof.Machine

/-- Settles O11: R182 is kept by every posting and every fetch, the lists stand in every other update, and so every step
keeps it. -/
theorem attentionListsKeepForm : Obligations.AttentionListsKeepForm :=
  fun s t hs h => State.ListsHold.stable.step s t hs h

end Sys2Proof.Proofs
end

section
/-! FETCH_ATTENTION (R183) and the overrun of a port (R175). -/

namespace Sys2Proof.Machine

/-! ### The oldest entry (R183) -/

/-- R185: RESTARTED is bit 4 of the DEVICE kinds. -/
theorem and_restarted_ne_zero (kinds : BitVec 16) :
    kinds &&& DeviceKind.restarted.bit ≠ 0 ↔ kinds.getLsbD 4 = true := by
  have hbit : DeviceKind.restarted.bit = BitVec.twoPow 16 4 := rfl
  rw [hbit, BitVec.and_twoPow]
  split
  · next h => exact iff_of_true (by decide) h
  · next h => exact iff_of_false (not_not_intro rfl) h

/-- R183: the reset cause a fetch returns: that of an entry of DEVICE with RESTARTED pending, 0 for any other. -/
def AttEntry.causeByte (a : AttEntry) : Byte :=
  match a.cause with
  | some .resetPin => if a.who = none ∧ a.kinds.getLsbD 4 = true then 1 else 0
  | some .restart => if a.who = none ∧ a.kinds.getLsbD 4 = true then 2 else 0
  | _ => 0

/-- R185: a cage's number, 32 for DEVICE. -/
def AttEntry.whoNumber (a : AttEntry) : Nat :=
  match a.who with
  | some c => c.val
  | none => 32

/-- R183, R185: the five bytes of a fetched entry. -/
theorem AttEntry.bytes_eq (a : AttEntry) (n : Nat) :
    a.bytes n =
      [BitVec.ofNat 8 a.whoNumber, (a.kinds >>> 8).setWidth 8, a.kinds.setWidth 8, a.causeByte, BitVec.ofNat 8 n] := by
  have hcause :
      (if a.who = none ∧ a.kinds &&& DeviceKind.restarted.bit ≠ 0 then optBytes 1 (fun r => u8 r.code) a.cause
        else [0]) = [a.causeByte] := by
    simp only [and_restarted_ne_zero, AttEntry.causeByte]
    split
    all_goals rcases a.cause with _ | _ | _ | _ <;> rfl
  unfold AttEntry.bytes
  rw [hcause]
  rfl

/-- A request that is taken, moves the port's list and is answered at once. -/
theorem State.take_list_answer (s : State) (q : Req) (code : Byte) (r : List Byte) (l : List AttEntry)
    (st : ReplyStatus) (d : List Byte) :
    ((s.take q.port code q.target r).modPort q.port fun x => { x with list := l }).answer q.port st d =
      (s.modPort q.port fun x => { x with list := l }).replied q code st d := by
  cases hq : q.port <;> simp [State.take, State.answer, State.replied, State.modPort, hq]

theorem State.fetch_nil {s : State} {p : Port} (h : (s.port p).list = []) : s.fetch p = s.answer p .ok [] := by
  simp [State.fetch, h]

theorem State.fetch_cons {s : State} {p : Port} {a : AttEntry} {rest : List AttEntry}
    (h : (s.port p).list = a :: rest) :
    s.fetch p = (s.modPort p fun x => { x with list := rest }).answer p .ok (a.bytes rest.length) := by
  simp [State.fetch, h]

theorem exec_fetchAttention {s : State} {q : Req} (h : s.Takes q 0 0) :
    exec (.fetchAttention q) s =
      .next ((s.take q.port 0x11 q.target (recordOf q (plain 0x11 0))).fetch q.port) := by
  have hrow : exec (.fetchAttention q) s = event s fun s => s.serve q (plain 0x11 0) fun s => s.fetch q.port := rfl
  rw [hrow, event_awake h.awake, State.serve_takes h rfl rfl rfl]
  rfl

/-! ### A request to a port that serves one (R175) -/

/-- R175: a busy port discards the request whatever its code. -/
theorem State.serve_busy {s : State} {q : Req} (h : (s.port q.port).busy = true) (sh : Shape) (f : State → State) :
    s.serve q sh f = s.overrun q.port := by simp [State.serve, h]

theorem State.unknown_busy {s : State} {p : Port} {raw : List Byte} (h : (s.port p).busy = true) (hraw : raw ≠ []) :
    s.unknown p raw = s.overrun p := by simp [State.unknown, h, hraw]

/-- R174 to R176: a transaction is an unknown request, or one that the port serves by its row's shape. -/
theorem transaction_unknown_or_served {i : Instr} {p : Port} {raw : List Byte} (h : encodeTransaction i = some (p, raw)) :
    i = .unknownRequest p raw ∨
      ∃ q sh f, q.port = p ∧ ∀ s, exec i s = event s fun s => s.serve q sh f := by
  cases i
  all_goals simp only [encodeTransaction, frame, Option.some.injEq, Prod.mk.injEq, reduceCtorEq] at h
  case unknownRequest p' raw' =>
    obtain ⟨rfl, rfl⟩ := h
    exact .inl rfl
  all_goals
    obtain ⟨rfl, -⟩ := h
    exact .inr ⟨_, _, _, rfl, fun _ => rfl⟩

end Sys2Proof.Machine

namespace Sys2Proof.Proofs

open Sys2Proof.Machine

/-- Settles O49: the fetch finds the list as it was before the request was taken, empty or with an oldest entry. -/
theorem attentionIsFetched : Obligations.AttentionIsFetched := by
  intro s q h
  have hlist := s.take_list q.port q.port 0x11 q.target (recordOf q (plain 0x11 0))
  refine ⟨fun hl => ?empty, fun a rest hl => ?oldest⟩
  case empty => rw [exec_fetchAttention h, State.fetch_nil (hlist.trans hl), State.take_answer]
  case oldest =>
    rw [exec_fetchAttention h, State.fetch_cons (hlist.trans hl), State.take_list_answer, a.bytes_eq]
    rfl

/-- Settles O52: the row posts the overrun, and a request of any code at the busy port does the same. -/
theorem overrunDiscardsRequest : Obligations.OverrunDiscardsRequest := by
  intro s p hr hb
  have hover : s.overrun p = s.modPort p fun x => { x with list := addKind x.list none 0x0004 none } := rfl
  refine ⟨?row, fun i raw hi hraw => ?request⟩
  case row =>
    have hrow : exec (.portOverrun p) s = .next (if (s.port p).busy then s.overrun p else s) := event_awake hr _
    rw [hrow, if_pos hb, hover]
  case request =>
    rcases transaction_unknown_or_served hi with rfl | ⟨q, sh, f, rfl, hserve⟩
    · have hunknown : exec (.unknownRequest p raw) s = .next (s.unknown p raw) :=
        event_awake hr fun s => s.unknown p raw
      rw [hunknown, State.unknown_busy hb hraw, hover]
    · rw [hserve s, event_awake hr, State.serve_busy hb, hover]

end Sys2Proof.Proofs
end

section
/-! The write transactions of the masters (R174, R176, R177, R185): a request is read back from its bytes, and every
transaction with bytes is read as one request that spells them. -/

namespace Sys2Proof

open Machine

/-! ### Rows (R177) -/

/-- R177: the codes without a row are those outside the table. -/
theorem requestRow_eq_none_iff (code : Byte) (q : Req) : requestRow code.toNat q = none ↔ knownCode code = false := by
  have hknown : knownCode code = false ↔ ¬(1 ≤ code.toNat ∧ code.toNat ≤ 22) := decide_eq_false_iff_not
  rw [hknown]
  generalize code.toNat = n
  unfold requestRow
  split
  case h_23 =>
    refine iff_of_true rfl ?_
    simp only [imp_false] at *
    omega
  all_goals exact iff_of_false nofun (by decide)

/-- A body whose selector byte lies outside the rows is the bad row's, whole. -/
theorem selectRow_outside {q : Req} {rows : List (Req → Instr)} {bad : Req → Instr}
    (h : selectorOutside rows.length q.body = true) : selectRow q rows bad = bad q := by
  unfold selectRow
  split
  · rfl
  · next b rest hbody =>
    have hb : rows.length ≤ b.toNat := by simpa [selectorOutside, hbody] using h
    rw [List.getElem?_eq_none hb]

/-- The command is well-formed and spells a request with a code and a whole record. -/
def Instr.Spells (i : Instr) (code : Byte) (q : Req) : Prop :=
  i.wf = true ∧ encodeTransaction i = frame code q []

/-- A request that a selector byte picks spells the whole record, where each of its rows spells its selector byte before
the body and the bad row spells a body whose selector byte is outside. -/
theorem selectRow_spells {code : Byte} {rows : List (Req → Instr)} {bad : Req → Instr}
    (hrows : ∀ k (hk : k < rows.length) (q : Req),
      (rows[k] q).Spells code { q with body := BitVec.ofNat 8 k :: q.body })
    (hbad : ∀ q : Req, selectorOutside rows.length q.body = true → (bad q).Spells code q) (q : Req) :
    (selectRow q rows bad).Spells code q := by
  by_cases hout : selectorOutside rows.length q.body = true
  · rw [selectRow_outside hout]
    exact hbad q hout
  · cases hbody : q.body with
    | nil => exact absurd (by rw [hbody]; rfl) hout
    | cons b rest =>
      have hb : b.toNat < rows.length := by simpa [selectorOutside, hbody] using hout
      have hpick : selectRow q rows bad = rows[b.toNat] { q with body := rest } := by
        simp [selectRow, hbody, List.getElem?_eq_getElem hb]
      have hrecord : q = { q with body := BitVec.ofNat 8 b.toNat :: rest } := by
        rw [BitVec.ofNat_toNat, BitVec.setWidth_eq, ← hbody]
      rw [hpick, hrecord]
      exact hrows b.toNat hb { q with body := rest }

/-- R177: the row of a code spells the code and the whole record. -/
theorem requestRow_spells {code : Byte} {q : Req} {i : Instr} (h : requestRow code.toNat q = some i) :
    i.Spells code q := by
  have hcode : BitVec.ofNat 8 code.toNat = code := by simp
  generalize code.toNat = n at h hcode
  subst hcode
  unfold requestRow at h
  split at h
  all_goals cases h
  case h_4 | h_8 | h_10 | h_20 =>
    refine selectRow_spells (fun k hk q => ?_) (fun q hq => ?_) q
    · simp only [List.length_cons, List.length_nil] at hk
      interval_cases k <;> exact ⟨rfl, rfl⟩
    · exact ⟨hq, rfl⟩
  all_goals exact ⟨rfl, rfl⟩

/-! ### Transactions (R174, R176) -/

/-- A transaction with a header is read as the row of its code. -/
theorem decode_frame {code : Byte} {q : Req} {selector : List Byte} {p : Port} {raw : List Byte} {i : Instr}
    (h : frame code q selector = some (p, raw))
    (hrow : requestRow code.toNat { q with body := selector ++ q.body } = some i) :
    decodeTransaction p raw = some i := by
  obtain ⟨rfl, rfl⟩ : q.port = p ∧ [code, q.target] ++ bytesOf16 q.len ++ selector ++ q.body = raw := by
    simpa [frame] using h
  simp [decodeTransaction, bytesOf16, (bytes_eq_iff _ _ q.len).mp rfl, hrow]

/-- R176: a short transaction, or one with an unknown code, is read as an unknown request. -/
theorem decode_unknown {p : Port} {raw : List Byte} (h : unknownTransaction raw = true) :
    decodeTransaction p raw = some (.unknownRequest p raw) := by
  unfold decodeTransaction
  split
  · exact absurd h (by decide)
  · next code target hi lo body =>
    have hcode : knownCode code = false := by
      simpa [unknownTransaction, show ¬body.length + 1 + 1 + 1 < 3 by omega] using h
    rw [(requestRow_eq_none_iff code _).mpr hcode]
  · rfl

end Sys2Proof

namespace Sys2Proof.Proofs

open Sys2Proof.Machine

/-- Settles O17: an event has no transaction, an unknown request is read as one, a row of a selector byte that is no value
as the bad row, and any other row from the bytes it spells. -/
theorem transactionRoundTrip : Obligations.TransactionRoundTrip := by
  intro i p raw hw h
  cases i
  all_goals simp only [encodeTransaction, reduceCtorEq] at h
  case unknownRequest p' raw' =>
    cases h
    exact decode_unknown hw
  case decideBadDecision q => exact decode_frame h (congrArg some (selectRow_outside hw))
  case resetCageBadScope q => exact decode_frame h (congrArg some (selectRow_outside hw))
  case readImageBadSection q => exact decode_frame h (congrArg some (selectRow_outside hw))
  case setTimingBadSelector q => exact decode_frame h (congrArg some (selectRow_outside hw))
  all_goals exact decode_frame h rfl

/-- Settles O18: a transaction is unknown, or the row of its code spells it. -/
theorem transactionLosesNothing : Obligations.TransactionLosesNothing := by
  intro p raw hraw
  by_cases hu : unknownTransaction raw = true
  · exact ⟨.unknownRequest p raw, decode_unknown hu, hu, rfl⟩
  · match raw with
    | [] => exact absurd rfl hraw
    | [_] | [_, _] | [_, _, _] => exact absurd rfl hu
    | code :: target :: hi :: lo :: body =>
      have hknown : knownCode code = true := by simpa [unknownTransaction] using hu
      have hrow : requestRow code.toNat ⟨p, target, word16 hi lo, body⟩ ≠ none := fun hn => by
        simp [(requestRow_eq_none_iff code _).mp hn] at hknown
      obtain ⟨i, hi'⟩ := Option.ne_none_iff_exists'.mp hrow
      obtain ⟨hwf, hspells⟩ := requestRow_spells hi'
      refine ⟨i, by simp [decodeTransaction, hi'], hwf, ?_⟩
      rw [hspells]
      simp [frame, ← (bytes_eq_iff hi lo _).mpr rfl]

end Sys2Proof.Proofs
end

section
/-! The reply records (R181, R185): how long each is, and the fields at some of their offsets. -/

namespace Sys2Proof.Machine

/-! ### Fields -/

@[simp] theorem u8_length (n : Nat) : (u8 n).length = 1 := rfl
@[simp] theorem u16_length (n : Nat) : (u16 n).length = 2 := rfl
@[simp] theorem u32_length (n : Nat) : (u32 n).length = 4 := rfl
@[simp] theorem bytesOf16_length (w : BitVec 16) : (bytesOf16 w).length = 2 := rfl
@[simp] theorem stampBytes_length (t : Stamp) : (stampBytes t).length = 4 := rfl
@[simp] theorem presenceMap_length (l : List Bool) : (presenceMap l).length = 4 := rfl
@[simp] theorem flagByte_length (l : List Bool) : (flagByte l).length = 1 := rfl

@[simp] theorem mark_length (b : Bool) : (mark b).length = 1 := by cases b <;> rfl

/-- R185: a field cut off or filled up has its length. -/
@[simp] theorem fill_length (n : Nat) (l : List Byte) : (fill n l).length = n := by simp [fill]

/-- R185: an optional field has its length, absent or present. -/
@[simp] theorem optBytes_length {α : Type} (n : Nat) (f : α → List Byte) (o : Option α) :
    (optBytes n f o).length = n := by
  cases o <;> simp [optBytes]

/-- R185, log entry 5: the committed charge takes two bytes, whatever it is. -/
@[simp] theorem committedBytes_length (n : Nat) : (committedBytes n).length = 2 := by
  unfold committedBytes
  split <;> rfl

@[simp] theorem Loc.bytes_length (l : Loc) : l.bytes.length = 2 := rfl
@[simp] theorem BitLoc.bytes_length (l : BitLoc) : l.bytes.length = 3 := rfl
@[simp] theorem optLocBytes_length (l : Option Loc) : (optLocBytes l).length = 3 := by simp [optLocBytes]
@[simp] theorem Inrush.bytes_length (r : Inrush) : r.bytes.length = 5 := rfl
@[simp] theorem LaneApplied.bytes_length (l : LaneApplied) : l.bytes.length = 4 := by simp [LaneApplied.bytes]

/-! ### Records -/

theorem State.statusHead_length (s : State) (c : CageNo) : (s.statusHead c).length = 17 := by
  simp [State.statusHead]

theorem State.statusRail_length (s : State) (c : CageNo) : (s.statusRail c).length = 22 := by
  simp [State.statusRail]

theorem State.statusBytes_length (s : State) (c : CageNo) : (s.statusBytes c).length = 43 := by
  simp [State.statusBytes, s.statusHead_length, s.statusRail_length]

/-- R167: the header of an image's section takes seven bytes. -/
theorem Image.bytes_length (i : Image) (n : Nat) (present : List Bool) (data : List Byte) :
    (i.bytes n present data).length = 7 + data.length := by
  simp [Image.bytes]
  omega

theorem Image.identityBytes_length (i : Image) : i.identityBytes.length = 72 := by
  simp [Image.identityBytes, Image.bytes_length]

theorem Image.appliedBytes_length {i : Image} (h : i.lanes.length = 8) : i.appliedBytes.length = 40 := by
  simp [Image.appliedBytes, Image.bytes_length, List.length_flatMap, h]

theorem Image.statusBytes_length (i : Image) : i.statusBytes.length = 16 := by
  simp [Image.statusBytes, Image.bytes_length]

theorem Outage.bytes_length (o : Outage) : o.bytes.length = 27 := by simp [Outage.bytes]

theorem State.groupBytes_length (s : State) (g : GroupNo) : (s.groupBytes g).length = 65 := by
  simp [State.groupBytes, cagesOf]

theorem State.deviceBytes_length (s : State) : s.deviceBytes.length = 16 := by simp [State.deviceBytes]

theorem Profile.bytes_length (p : Profile) (b : Bool) : (p.bytes b).length = 128 := by
  unfold Profile.bytes
  simp only [List.length_append]
  simp only [u8_length, u16_length, mark_length, fill_length, optBytes_length]

theorem FieldMap.bytes_length (m : FieldMap) : m.bytes.length = 50 := by
  unfold FieldMap.bytes
  simp only [List.length_append]
  simp only [List.length_cons, List.length_nil, u8_length, Loc.bytes_length, BitLoc.bytes_length, optLocBytes_length]

/-! ### Offsets -/

/-- R185: the state and the stage follow the presence map; the charge stands behind fields of one byte that may be
absent. -/
theorem State.statusBytes_fields (s : State) (c : CageNo) :
    (s.statusBytes c)[4]? = some (BitVec.ofNat 8 (s.cage c).seq.state.code) ∧
      (s.statusBytes c)[5]? = some (BitVec.ofNat 8 (s.cage c).seq.stage.code) ∧
      (s.statusBytes c)[10]? = some (BitVec.ofNat 8 ((s.cage c).charge / 256)) ∧
      (s.statusBytes c)[11]? = some (BitVec.ofNat 8 (s.cage c).charge) := by
  simp only [State.statusBytes, State.statusHead, List.getElem?_append]
  simp [u8, u16]

theorem State.groupBytes_budget (s : State) (g : GroupNo) :
    (s.groupBytes g)[0]? = some (BitVec.ofNat 8 ((s.group g).budget / 256)) ∧
      (s.groupBytes g)[1]? = some (BitVec.ofNat 8 (s.group g).budget) := ⟨rfl, rfl⟩

/-- R181: the part number, the reset cause and the last byte of the time base. -/
theorem State.deviceBytes_fields (s : State) :
    s.deviceBytes[0]? = some 0x73 ∧ s.deviceBytes[1]? = some 0x20 ∧
      s.deviceBytes[3]? = some (BitVec.ofNat 8 s.cause.code) ∧ s.deviceBytes[8]? = some (s.now.setWidth 8) :=
  ⟨rfl, rfl, rfl, rfl⟩

end Sys2Proof.Machine

namespace Sys2Proof.Proofs

open Sys2Proof.Machine

/-- Settles O42: the length of each record by the lengths of its fields, an offset by the fields before it. -/
theorem recordsHaveTheirLayout : Obligations.RecordsHaveTheirLayout := by
  intro s c g
  obtain ⟨hstate, hstage, hchargeHigh, hchargeLow⟩ := s.statusBytes_fields c
  obtain ⟨hbudgetHigh, hbudgetLow⟩ := s.groupBytes_budget g
  exact ⟨s.statusBytes_length c, Image.identityBytes_length _, Image.appliedBytes_length, Image.statusBytes_length _,
    Outage.bytes_length _, s.groupBytes_length g, s.deviceBytes_length, Profile.bytes_length _, FieldMap.bytes_length,
    hstate, hstage, hchargeHigh, hchargeLow, hbudgetHigh, hbudgetLow, s.deviceBytes_fields⟩

end Sys2Proof.Proofs
end

section
/-! A command about one cage touches that cage only, and the slots of the port it was written at: what it does before the
end of its step is made of operations on the cage and the port's own taking and answering. -/

namespace Sys2Proof.Machine

/-- To touch one cage only, and the slots of no port without a passthrough for the cage but the port `w`, at which a
request for the cage was written. -/
def within (c : CageNo) (w : Option Port) : Rel where
  R := fun s t => s.OnlyCage t c ∧ ∀ p, w ≠ some p → s.KeepsSlots t c p
  refl' := fun s => ⟨.refl s c, fun _ _ h => ⟨h, rfl, rfl⟩⟩
  trans' := fun ⟨ho, hs⟩ ⟨ho', hs'⟩ => ⟨ho.trans ho', fun p hp => (hs p hp).trans (hs' p hp)⟩

/-- A command leaves `t`, with or without the end of the step, after operations within the cage and the port. -/
def EndsWithin (c : CageNo) (w : Option Port) (s t : State) : Prop :=
  ∃ u, (t = u ∨ t = u.settle) ∧ (within c w).To s u

/-! ### Operations on a cage -/

section
variable {c : CageNo} {w : Option Port} {s t u : State}

/-- What is confined to the cage is within it, whatever the port. -/
theorem within_of_confined (h : (confined c).To s t) : (within c w).To s t :=
  ⟨State.Confined.only h, fun p _ => State.Confined.slots h p⟩

theorem State.modCage_confined (s : State) (c : CageNo) (f : Cage → Cage) : (confined c).To s (s.modCage c f) :=
  .of_engines (s.modCage_only c f) (fun p => .modCage s c p f) fun _ => rfl

/-- A change of the item that the cage's engine carries for the cage, which stays the same item. -/
theorem State.modCarry_confined {k : Carry} (hk : (s.engine (engineOf c)).current = some k) (hc : k.item.cage = c)
    {f : Carry → Carry} (hf : ∀ x, (f x).item = x.item) : (confined c).To s (s.modCarry (engineOf c) f) where
  only := s.modEngine_only c _ (fun _ => rfl) (fun _ => rfl) fun hfree => absurd hc (hfree k hk)
  carries := .modEngine s _ _ fun _ hx => exists_item_of_map hf hx
  slots := fun p => .modEngine s c p _ (fun _ hi => .inl hi) fun _ hx => exists_item_of_map hf hx

theorem State.resumeWrite_confined (s : State) (c : CageNo) : (confined c).To s (s.resumeWrite (engineOf c) c) := by
  unfold State.resumeWrite
  split
  · exact (confined c).refl s
  · next k hk =>
    split
    · next hdue =>
      obtain ⟨hc, -⟩ := hdue
      exact .ite ((confined c).endItem s _ k _ hk hc rfl) (State.modCarry_confined hk hc fun _ => rfl)
    · exact (confined c).refl s

/-- R151: the end of a hold-off serves the cage's own item alone. -/
theorem State.holdOver_confined (s : State) (c : CageNo) : (confined c).To s (s.holdOver c) :=
  ((confined c).modBus s _).trans (State.resumeWrite_confined _ c)

/-! ### The end of a command -/

theorem EndsWithin.of_to (h : (within c w).To s t) : EndsWithin c w s t := ⟨t, .inl rfl, h⟩

theorem EndsWithin.settle (h : (within c w).To s t) : EndsWithin c w s t.settle := ⟨t, .inr rfl, h⟩

theorem EndsWithin.after (h : (within c w).To s t) (he : EndsWithin c w t u) : EndsWithin c w s u := by
  obtain ⟨v, hv, hto⟩ := he
  exact ⟨v, hv, h.trans hto⟩

theorem EndsWithin.ite {b : Prop} [Decidable b] (h : EndsWithin c w s t) (h' : EndsWithin c w s u) :
    EndsWithin c w s (if b then t else u) := by
  split
  · exact h
  · exact h'

theorem EndsWithin.refl : EndsWithin c w s s := .of_to ((within c w).refl s)

/-- A command answers a next state, and leaves it within the cage and the port. -/
def AnswersWithin (c : CageNo) (w : Option Port) (s : State) (o : Out) : Prop :=
  ∃ t, o = .next t ∧ EndsWithin c w s t

theorem answersWithin_next (h : EndsWithin c w s t) : AnswersWithin c w s (.next t) := ⟨t, rfl, h⟩

theorem answersWithin_event {f : State → State} (h : EndsWithin c w s (f s)) : AnswersWithin c w s (event s f) :=
  answersWithin_next (.ite .refl h)

theorem answersWithin_act {f : State → State} (h : (confined c).To s (f s)) : AnswersWithin c w s (act s f) :=
  answersWithin_event (.settle (within_of_confined h))

theorem answersWithin_expiry {g : Bool} {f : State → State} (h : (confined c).To s (f s)) :
    AnswersWithin c w s (expiry s g f) := by
  unfold Machine.expiry
  split
  · exact answersWithin_act h
  · exact answersWithin_next .refl

end

/-! ### Requests (R174 to R177) -/

section
variable {c : CageNo} {p : Port} {s t : State}

/-- A change of the request and the reply of the port alone. -/
theorem State.modPort_within {f : PortState → PortState}
    (hm : (f (s.port p)).cageMask = (s.port p).cageMask ∧ (f (s.port p)).deviceMask = (s.port p).deviceMask)
    (hl : (f (s.port p)).list = (s.port p).list) : (within c (some p)).To s (s.modPort p f) := by
  refine ⟨s.modPort_only c p f hm fun d _ => by rw [hl], fun r hr => ?_⟩
  have hport : (s.modPort p f).port r = s.port r := by
    rw [State.modPort_port, if_neg fun h => hr (congrArg some h.symm)]
  exact .of_engine (s.modPort_engine _ p f) (by rw [hport]) (by rw [hport])

theorem State.take_within (s : State) (p : Port) (a b : Byte) (raw : List Byte) :
    (within c (some p)).To s (s.take p a b raw) := State.modPort_within ⟨rfl, rfl⟩ rfl

theorem State.answer_within (s : State) (p : Port) (st : ReplyStatus) (data : List Byte) :
    (within c (some p)).To s (s.answer p st data) :=
  State.modPort_within (by split <;> exact ⟨rfl, rfl⟩) (by split <;> rfl)

theorem EndsWithin.answer (s : State) (p : Port) (st : ReplyStatus) (data : List Byte) :
    EndsWithin c (some p) s (s.answer p st data) := .of_to (s.answer_within p st data)

/-- An operation on the cage and its answer. -/
theorem EndsWithin.done (h : (confined c).To s t) (st : ReplyStatus) (data : List Byte) :
    EndsWithin c (some p) s (t.done p st data) := .settle ((within_of_confined h).trans (t.answer_within p st data))

/-- R175: a request that is discarded posts to its port's own list. -/
theorem State.overrun_within (s : State) (p : Port) : (within c (some p)).To s (s.overrun p) :=
  within_of_confined ((confined c).postDeviceTo s p .portOverrun)

/-- A request that targets the cage is discarded, refused, or goes to its meaning there. -/
theorem EndsWithin.serveCage {q : Req} {sh : Shape} {f : CageNo → State → State} (hc : targetCage q = some c)
    (hf : ∀ s, EndsWithin c (some q.port) s (f c s)) : EndsWithin c (some q.port) s (s.serveCage q sh f) := by
  unfold State.serveCage State.serve
  refine .ite (.of_to (s.overrun_within q.port)) (.after (s.take_within q.port sh.code q.target (recordOf q sh)) ?_)
  refine .ite (.answer _ _ _ _) (.ite (.answer _ _ _ _) ?_)
  unfold targetCage at hc
  split at hc
  · next ht =>
    cases hc
    dsimp only
    rw [dif_pos ht]
    exact hf _
  · cases hc

theorem answersWithin_serveCage {q : Req} {sh : Shape} {f : CageNo → State → State} (hc : targetCage q = some c)
    (hf : ∀ s, EndsWithin c (some q.port) s (f c s)) :
    AnswersWithin c (some q.port) s (event s fun s => s.serveCage q sh f) :=
  answersWithin_event (.serveCage hc hf)

/-- A request that is answered at once and does nothing else. -/
theorem answersWithin_reads {q : Req} {sh : Shape} {st : ReplyStatus} {data : CageNo → State → List Byte}
    (hc : targetCage q = some c) :
    AnswersWithin c (some q.port) s (event s fun s => s.serveCage q sh fun c s => s.answer q.port st (data c s)) :=
  answersWithin_serveCage hc fun s => .answer s _ _ _

/-- A request that is taken under a condition and does its work on the cage, and is refused otherwise. -/
theorem EndsWithin.guarded {b : Prop} [Decidable b] (h : (confined c).To s t) (st refused : ReplyStatus)
    (data data' : List Byte) :
    EndsWithin c (some p) s (if b then t.done p st data else s.answer p refused data') :=
  .ite (.done h st data) (.answer s p refused data')

end

/-! ### The meanings of the requests -/

section
variable (s : State) (p : Port) (body : List Byte) (c : CageNo)

/-- R30, R31: a profile that is set and answered. -/
theorem State.profileChanged_endsWithin (f : Profile → Profile) (st : ReplyStatus) (data : List Byte) :
    EndsWithin c (some p) s (((s.modProfile c f).profileChanged p c).done p st data) :=
  .done ((s.modCage_confined c _).trans ((confined c).profileChanged _ p)) st data

theorem State.writeProfile_endsWithin : EndsWithin c (some p) s (s.writeProfile p body c) := by
  unfold State.writeProfile
  split
  · exact .answer s p _ _
  · exact .ite (.answer s p _ _) (.ite (.answer s p _ _) (s.profileChanged_endsWithin p c _ _ _))

theorem State.invalidate_endsWithin : EndsWithin c (some p) s (s.invalidate p body c) := by
  unfold State.invalidate
  exact .ite (.answer s p _ _) (.ite (.answer s p _ _) (s.profileChanged_endsWithin p c _ _ _))

theorem State.clearFault_endsWithin : EndsWithin c (some p) s (s.clearFault p c) := by
  unfold State.clearFault
  exact .ite (.ite (.answer s p _ _) (.done ((confined c).readmit s) _ _))
    (.guarded ((confined c).startDrain s _ _) _ _ _ _)

/-- R156, R157: a passthrough of the port joins the waiting items of its cage's engine. -/
theorem State.postPass_endsWithin {i : Item} (hi : i.who = .port p) :
    EndsWithin i.cage (some p) s (s.postPass i) := by
  refine .settle ⟨s.addItem_only i, fun r hr => .modEngine s _ r _ (fun j hj => ?_) fun k hk => ⟨k, hk, rfl⟩⟩
  rcases List.mem_append.mp hj with hold | hnew
  · exact .inl hold
  · right
    rw [List.mem_singleton.mp hnew, hi]
    exact fun h => hr (congrArg some (Requester.port.inj h))

theorem State.moduleRead_endsWithin : EndsWithin c (some p) s (s.moduleRead p body c) := by
  unfold State.moduleRead
  exact .ite (.answer s p _ _) (.ite (.answer s p _ _) (.ite (.answer s p _ _) (.ite (.answer s p _ _)
    (.ite (.answer s p _ _) (s.postPass_endsWithin p (i := passRead p c body s.now s.elapsed) rfl)))))

theorem State.moduleWrite_endsWithin : EndsWithin c (some p) s (s.moduleWrite p body c) := by
  unfold State.moduleWrite
  exact .ite (.answer s p _ _) (.ite (.answer s p _ _) (.ite (.answer s p _ _) (.ite (.answer s p _ _)
    (s.postPass_endsWithin p (i := passWrite p c body s.now s.elapsed) rfl))))

end

/-! ### Every command about a cage -/

/-- A command about one cage stays within the cage and the port it was written at. -/
theorem exec_answersWithin {i : Instr} {c : CageNo} (s : State) (h : commandCage i = some c) :
    AnswersWithin c (commandPort i) s (exec i s) := by
  cases i <;> simp only [commandCage, Option.some.injEq, reduceCtorEq] at h <;> unfold exec <;> dsimp only
  case presentLineChange d l =>
    subst h
    have moved := fun f => within_of_confined (w := none) (s.modCage_confined d f)
    exact answersWithin_next (.ite .refl (.ite (.of_to (moved _)) (.of_to (moved _))))
  case candidateAccepted d =>
    subst h
    unfold execCandidateAccepted
    split
    · exact answersWithin_act ((confined d).acceptDue s)
    · exact answersWithin_next .refl
  case settleIntervalEnd d =>
    subst h
    unfold execSettleIntervalEnd
    split
    · exact answersWithin_act ((confined d).endSettle s)
    · exact answersWithin_next .refl
  case attentionEdge d l =>
    subst h
    have moved := s.modCage_confined d fun k => { k with ciu := { k.ciu with attentionPin := l } }
    unfold execAttentionEdge
    dsimp only
    split
    · exact answersWithin_next (.of_to (within_of_confined moved))
    · split
      · exact answersWithin_next (.settle (within_of_confined (moved.trans ((confined d).latchEdge _))))
      · exact answersWithin_next (.of_to (within_of_confined moved))
  case bringUpSlotStart d => subst h; exact answersWithin_expiry ((confined d).slotOver s)
  case powerGoodLimitExpiry d => subst h; exact answersWithin_expiry ((confined d).powerFault s _)
  case adoptionPgLimitExpiry d => subst h; exact answersWithin_expiry ((confined d).adoptionLimit s)
  case seqPollTimerExpiry d => subst h; exact answersWithin_expiry ((confined d).pollDue s)
  case initTimerExpiry d => subst h; exact answersWithin_expiry ((confined d).moduleFault s _)
  case adoptionInitTimeout d => subst h; exact answersWithin_expiry ((confined d).moduleFault s _)
  case decisionWindowExpiry d => subst h; exact answersWithin_expiry ((confined d).windowOver s)
  case hpSettleTimeout d => subst h; exact answersWithin_expiry ((confined d).moduleFault s _)
  case hostSideWindowExpiry d => subst h; exact answersWithin_expiry ((confined d).hostSideOver s)
  case linkTimerExpiry d => subst h; exact answersWithin_expiry ((confined d).linkExpired s)
  case blankingWindowEnd d =>
    subst h
    refine answersWithin_event ?_
    split
    · exact .ite (.of_to (within_of_confined ((confined d).modSeq s _))) .refl
    · exact .refl
  case drainSlotStart d => subst h; exact answersWithin_expiry ((confined d).nextDrainSlot s)
  case drainEnd d => subst h; exact answersWithin_expiry ((confined d).endDrain s)
  case feedClearTimerExpiry d => subst h; exact answersWithin_expiry ((confined d).readmit s)
  case holdOffExpiry d => subst h; exact answersWithin_act (s.holdOver_confined d)
  case pendingBasisDue d => subst h; exact answersWithin_event (.of_to (within_of_confined (s.modCage_confined d _)))
  case nextPollTimeReached d => subst h; exact answersWithin_expiry ((confined d).pollTimeReached s)
  case readProfile | readStatus | readImageIdentity | readImageApplied | readImageStatus | readOutage
    | decideBadDecision | resetCageBadScope | readImageBadSection => exact answersWithin_reads h
  case writeProfile q => exact answersWithin_serveCage h fun s => s.writeProfile_endsWithin _ _ c
  case invalidateProfile q => exact answersWithin_serveCage h fun s => s.invalidate_endsWithin _ _ c
  case decideRestore q =>
    exact answersWithin_serveCage h fun s =>
      .ite (.guarded ((confined c).proceed s _ _) _ _ _ _) (.answer s _ _ _)
  case decideAdoptNew q => exact answersWithin_serveCage h fun s => .guarded ((confined c).proceed s _ _) _ _ _ _
  case decidePark q => exact answersWithin_serveCage h fun s => .guarded ((confined c).parkFromDecide s _ _) _ _ _ _
  case release q => exact answersWithin_serveCage h fun s => .guarded ((confined c).resume s) _ _ _ _
  case hostSideDone q => exact answersWithin_serveCage h fun s => .guarded ((confined c).enterDatapath s) _ _ _ _
  case clearFault q => exact answersWithin_serveCage h fun s => s.clearFault_endsWithin _ c
  case resetCageResequence q => exact answersWithin_serveCage h fun s => .guarded ((confined c).resequence s) _ _ _ _
  case resetCageReidentify q => exact answersWithin_serveCage h fun s => .guarded ((confined c).reidentify s) _ _ _ _
  case resetCagePowerCycle q => exact answersWithin_serveCage h fun s => .guarded ((confined c).powerCycle s) _ _ _ _
  case moduleRead q => exact answersWithin_serveCage h fun s => s.moduleRead_endsWithin _ _ c
  case moduleWrite q => exact answersWithin_serveCage h fun s => s.moduleWrite_endsWithin _ _ c

end Sys2Proof.Machine

namespace Sys2Proof.Proofs

open Sys2Proof.Machine

/-- Settles O1: a queue with a command at its front is the second case of the step. -/
theorem stepRunsFrontCommand : Obligations.StepRunsFrontCommand := by
  intro s i rest hpending
  unfold step
  rw [hpending]

/-- Settles O19: what the command does before the end of its step stays within its cage and its port. -/
theorem cageCommandsTouchOneCage : Obligations.CageCommandsTouchOneCage := by
  intro s i c hcage
  obtain ⟨t, hexec, u, hend, honly, hslots⟩ := exec_answersWithin s hcage
  refine ⟨u, ?_, honly, fun p hp hpass => (hslots p hp hpass).2⟩
  rw [hexec]
  exact hend.imp (congrArg _) (congrArg _)

end Sys2Proof.Proofs
end
